-- ==== Sys2Proof/Word.lean ====
section
/-! DEFINITION. The word types of the block: bytes, 32-bit register words, 64-bit registers, 128-bit instruction and
descriptor words, and a sparse table keyed by a number. -/
namespace Sys2Proof

/-- One byte. -/
abbrev Byte := BitVec 8

/-- A 32-bit register (R4). -/
abbrev Word := BitVec 32

/-- A 64-bit register (R4). -/
abbrev DWord := BitVec 64

/-- A 128-bit instruction word, descriptor word or Decot header (R73, R59, R200). -/
abbrev QWord := BitVec 128

/-- A 40-bit device address (R112). -/
abbrev Addr := BitVec 40

/-- An initiator ID (R200, R201). -/
abbrev Ini := BitVec 8

/-- A sparse table: pairs of a key and a value, keys rising, no pair that holds the table's default. -/
abbrev Tab (α : Type) := List (Nat × α)

end Sys2Proof
end

