-- ==== Sys2Proof/Syntax.lean ====
section
/-! DEFINITION. The commands and events of the block: one constructor of `Instr` per row of the opcode table, with the
operands the row's rule names, and the plain-data types those operands have. -/
namespace Sys2Proof

/-- The rails whose loss stops the device (R18). -/
inductive Rail where
  | core | d2d | dram | vppDram | vddqLp
  deriving DecidableEq, Repr

/-- The tamper sources (R318): the pin, the voltage-glitch sensors of VDD_AON and VDD_CORE, the clock-glitch sensor. -/
inductive TamperSource where
  | pin | aonGlitch | coreGlitch | clockGlitch
  deriving DecidableEq, Repr

/-- How a UCIe module's training ended (R25). -/
inductive Training where
  | at32 | at16 | failed
  deriving DecidableEq, Repr

/-- The strap pins as sampled once (R10). -/
structure StrapPins where
  bootsel : BitVec 2
  addrSel : BitVec 3
  goldenN : Bool
  deriving DecidableEq, Repr

/-- What a fuse bit under a pulse is left as when the pulse ends or is cut short (R337, R338). -/
inductive FuseOutcome where
  | unprogrammed | weak | programmed
  deriving DecidableEq, Repr

/-- The facts of the board and of the part that one cold boot meets (R18, R26, R29, R330, R371, R444). -/
structure BootEnv where
  /-- The flash answers with a valid SFDP table and a unique ID and runs in octal mode (R29). -/
  flashOk : Bool
  /-- The first 16 bytes of the flash unique ID, byte 0 lowest (R389). -/
  flashUid : QWord
  /-- SFDP lists an erase type of 64 KiB (R371). -/
  flashErase : Bool
  /-- The flash's contents when the board wrote or replaced it since the last boot. -/
  flashImage : Option (List Host.Cell)
  /-- Bit p: LPDDR5X port p trains with the settings the configuration gives (R444). -/
  lpPass : BitVec 6
  /-- VPP_OTP is within its range (R337). -/
  vpp : Bool
  /-- Fuse bits that Lamovin test programmed since the last boot (R332). -/
  testFuses : List (Nat × Word)
  /-- Fuse bits whose strict-margin reading differs from their normal one at this boot (R330). -/
  strictDiff : List (Nat × Word)
  /-- Fuses, as word and bit, that no pulse of this boot programs (R316, R343, R386, R387). -/
  badFuses : List (Nat × Nat)
  /-- The known-answer test of the PKE programs passes (R355). -/
  katOk : Bool
  /-- A sector write to the flash reads back as written (R398). -/
  flashWriteOk : Bool
  deriving DecidableEq, Repr

/-- An error that a unit's check finds while a step runs (R434, R130, R132). -/
inductive Detection where
  /-- A 2-bit error of the running pan's store. -/
  | panStore
  /-- A 2-bit error of the running pan's instruction memory. -/
  | instrMemory
  /-- An accumulator parity error of the running pan. -/
  | accParity
  /-- A 2-bit error of a vault array in the unit at the address. -/
  | vaultArray (unit : Addr)
  /-- A burst of the vault that holds the address failed its CRC `n` times and then passed, n from 1 to 4. -/
  | bondRetry (unit : Addr) (n : BitVec 3)
  /-- The fifth attempt of a burst at the address failed. -/
  | bondFail (unit : Addr)
  /-- A 2-bit error of LPDDR5X inline ECC in the unit at the address. -/
  | lpInline (unit : Addr)
  /-- A data flit failed mesh parity: the unit at the address is delivered marked. -/
  | meshData (unit : Addr)
  /-- A header flit failed mesh parity: the request it carries is discarded. -/
  | meshHeader
  /-- A 2-bit error of Saltern SRAM. -/
  | salternSram
  /-- Corrected errors of a pan store or instruction memory, of a vault array, and of LPDDR5X. -/
  | corrected (pan vault lp : BitVec 8)
  deriving DecidableEq, Repr

/-- What the clear engine's verification found (R139): which units failed once, and which failed the repeat too. -/
structure ClearVerdict where
  retryVaults : BitVec 8
  retryPorts : BitVec 6
  retryPans : DWord
  failVaults : BitVec 8
  failPorts : BitVec 6
  failPans : DWord
  deriving DecidableEq, Repr

/-- The end of the clear of a disarmed race pan, and what its verification found (R139, R192). -/
structure DisarmReport where
  slot : BitVec 2
  verdict : ClearVerdict
  deriving DecidableEq, Repr

/-- A group whose increase reaches its voltage or ends its wait; `clear` says that the detector has been clear for the last 256 pan cycles
(R286). -/
structure RiseReport where
  g : BitVec 3
  clear : Bool
  deriving DecidableEq, Repr

/-- Where the firmware has placed a descriptor: the core address, and the base of its bridge window (R349, R303). -/
structure DescPlace where
  window : Addr
  at32 : Word
  deriving DecidableEq, Repr

/-- What one pan did in a cap window (R290, R294, Table 13.2). -/
structure PanWindow where
  pan : BitVec 6
  /-- It issued in the window. -/
  issued : Bool
  /-- Events of the seven classes of ENERGY, class 0 first: cell-array pan cycles at INT8 or FP8, at INT4, at BF16, vector passes,
  256 B pan-store accesses, 64 B move-port accesses, ungated idle pan cycles. -/
  events : List (BitVec 20)
  /-- Issue windows of 16 pan cycles in which its clock ran. -/
  issueWindows : BitVec 8
  deriving DecidableEq, Repr

/-- What the activity counters, the sensors and the monitors report at the end of a cap window (R290, R282, R297). -/
structure WindowReport where
  /-- The pans that did anything. -/
  pans : List PanWindow
  /-- Events of the six classes of FABRIC: vault 64 B, LPDDR5X 64 B, mesh flit hops, port flits, Saltern cycles, fabric cycles. -/
  fabric : List (BitVec 24)
  /-- The sixteen sensors in °C: those of groups 0 to 7, then those of vaults 0 to 7 (R30). -/
  temps : List Int
  /-- The timing-slack report of each group, in ps. -/
  slack : List (Nat × Byte)
  /-- VPP_OTP is within its range (R16, R347). -/
  vpp : Bool
  /-- All eight VDD_PAN monitors report good (R31). -/
  panGood : Bool
  deriving DecidableEq, Repr

/-- Where a Decot request enters and what its header carries beside its address (R200). -/
structure Req where
  /-- It arrives on UCIe module 1. -/
  module1 : Bool
  ini : Ini
  tag : BitVec 10
  deriving DecidableEq, Repr

/-- The commands and events of the block, one per row of the opcode table. -/
inductive Instr where
  -- Registers (R4, R5)
  /-- A write of the enabled bytes of one aligned 8-byte slot of the control region; `off` counts from its base. -/
  | registerWrite (r : Req) (off : BitVec 24) (value : DWord) (be : BitVec 8)
  | latchedLowWordRead (ini : Ini) (off : BitVec 24)
  | latchedHighWordRead (ini : Ini) (off : BitVec 24)
  -- Supplies, resets, straps, alerts (R10 to R30, R421, R432)
  | vddAonRise
  | i3cAddrSample (a b c : BitVec 3)
  | vddAonLoss
  | porstNFall (left : FuseOutcome)
  | porstNRise (env : BootEnv)
  | strapWindowStart
  | strapSample (a b c : StrapPins)
  | railFault (rail : Rail)
  | panSupplyFault (g : BitVec 3)
  | refclkLoss
  | tamperEvent (src : TamperSource) (left : FuseOutcome)
  | ignorePeriodEnd (pinLow : Bool)
  | regAlertAssert
  | thermTrip
  | thermShutdown
  | spillwayRelease
  | spillwayClimb (g : BitVec 3)
  | slackWake
  | ucieTrainingDone (module1 : Bool) (res : Training)
  | ucieModuleDrop (module1 : Bool)
  -- The host port (R200 to R213)
  | rd (module1 : Bool) (hdr : QWord) (ds : List Detection)
  | wr (module1 : Bool) (hdr : QWord) (data : List Byte) (ds : List Detection)
  | doorbellWrite (r : Req) (q : BitVec 12) (value : DWord)
  -- The dispatcher (R209, R227)
  | commandAccept
  | contextRingChange (q : BitVec 12)
  -- Commands of the queues (Table 8.5): the accepted command with this tally sequence number starts
  | nop (seq : DWord)
  | runProgram (seq : DWord)
  | loadProgram (seq : DWord)
  | loadWeights (seq : DWord)
  /-- The mover finishes the copy of the load with this sequence number, meeting these errors. -/
  | sealedCopyDone (seq : DWord) (ds : List Detection)
  | measureProgram (seq : DWord)
  | measureWeights (seq : DWord)
  | measureOwner (seq : DWord)
  | kvBind (seq : DWord)
  | kvRelease (seq : DWord)
  | clearRegionProgram (seq : DWord)
  | clearRegionWeights (seq : DWord)
  | clearRegionRange (seq : DWord)
  | setSeed (seq : DWord)
  | fenceQueue (seq : DWord)
  | fencePartition (seq : DWord)
  | abortCommand (seq : DWord)
  | abortQueue (seq : DWord)
  | abortPartition (seq : DWord)
  | queryDevice (seq : DWord)
  | queryQueue (seq : DWord)
  | queryProgram (seq : DWord)
  | queryTally (seq : DWord)
  | queryTallyCkpt (seq : DWord)
  | queryWeights (seq : DWord)
  | queryPartition (seq : DWord)
  | querySequence (seq : DWord)
  | profile (seq : DWord)
  | dbgRead (seq : DWord)
  | dbgWrite (seq : DWord)
  | dbgHalt (seq : DWord)
  | dbgResume (seq : DWord)
  | dbgPanstate (seq : DWord)
  | dbgEnd (seq : DWord)
  | stage (seq : DWord)
  | commitPartition (seq : DWord)
  | commitDevice (seq : DWord)
  -- Direct commits, epochs and clears (R247 to R251)
  | prtCommitGo (r : Req) (p : BitVec 4)
  | prtCommitDiscard (r : Req) (p : BitVec 4)
  | glbCommitGo (r : Req)
  | glbCommitDiscard (r : Req)
  | epochBoundary (p : BitVec 4)
  | partitionClearDone (p : BitVec 4) (v : ClearVerdict)
  -- Pan instructions (Table 4.3): the pan executes the instruction at its program counter
  | copy (p : BitVec 6) (ds : List Detection)
  | fill (p : BitVec 6) (ds : List Detection)
  | cycle (p : BitVec 6) (ds : List Detection)
  | matmulTile (p : BitVec 6) (ds : List Detection)
  | matmulStream (p : BitVec 6) (ds : List Detection)
  | kvAppend (p : BitVec 6) (ds : List Detection)
  | add (p : BitVec 6) (ds : List Detection)
  | sub (p : BitVec 6) (ds : List Detection)
  | mul (p : BitVec 6) (ds : List Detection)
  | fma (p : BitVec 6) (ds : List Detection)
  | max (p : BitVec 6) (ds : List Detection)
  | min (p : BitVec 6) (ds : List Detection)
  | abs (p : BitVec 6) (ds : List Detection)
  | neg (p : BitVec 6) (ds : List Detection)
  | convert (p : BitVec 6) (ds : List Detection)
  | shr (p : BitVec 6) (ds : List Detection)
  | recip (p : BitVec 6) (ds : List Detection)
  | rsqrt (p : BitVec 6) (ds : List Detection)
  | exp (p : BitVec 6) (ds : List Detection)
  | sigmoid (p : BitVec 6) (ds : List Detection)
  | silu (p : BitVec 6) (ds : List Detection)
  | iadd (p : BitVec 6) (ds : List Detection)
  | isub (p : BitVec 6) (ds : List Detection)
  | imul (p : BitVec 6) (ds : List Detection)
  | reduceAdd (p : BitVec 6) (ds : List Detection)
  | reduceMax (p : BitVec 6) (ds : List Detection)
  | quantRuntime (p : BitVec 6) (ds : List Detection)
  | quantLearned (p : BitVec 6) (ds : List Detection)
  | dequantFp32 (p : BitVec 6) (ds : List Detection)
  | dequantBf16 (p : BitVec 6) (ds : List Detection)
  | score (p : BitVec 6) (ds : List Detection)
  | softmax (p : BitVec 6) (ds : List Detection)
  | value (p : BitVec 6) (ds : List Detection)
  | gatherKeys (p : BitVec 6) (ds : List Detection)
  | gatherValues (p : BitVec 6) (ds : List Detection)
  | greedy (p : BitVec 6) (ds : List Detection)
  | categorical (p : BitVec 6) (ds : List Detection)
  | barrier (p : BitVec 6) (ds : List Detection)
  | gatherAll (p : BitVec 6) (ds : List Detection)
  | sum (p : BitVec 6) (ds : List Detection)
  | lseMerge (p : BitVec 6) (ds : List Detection)
  | argmax (p : BitVec 6) (ds : List Detection)
  | broadcast (p : BitVec 6) (ds : List Detection)
  /-- The confluence of the running command with this sequence number releases; `skew` is the gated time of its first pan. -/
  | confluenceRelease (seq : DWord) (skew : Word)
  | loop (p : BitVec 6) (ds : List Detection)
  | wait (p : BitVec 6) (ds : List Detection)
  | step (p : BitVec 6) (ds : List Detection)
  | endProgram (p : BitVec 6) (ds : List Detection)
  | programBlockFetch (p : BitVec 6) (ds : List Detection)
  | panClockGate (p : BitVec 6)
  | vaultRefresh (v : BitVec 3) (ch : BitVec 4) (ds : List Detection)
  -- The race lane (R177 to R196)
  | raceDoorbell (r : Req) (slot : BitVec 2) (value : DWord)
  /-- Step 8 of Table 7.9 for a slot: `late` is its slack of 0 to 2 pan cycles, `fabric` the fabric cycles since step 1. -/
  | raceComplete (slot : BitVec 2) (late : BitVec 2) (fabric : Word)
  | raceInWrite (r : Req) (slot : BitVec 2) (off : BitVec 12) (data : List Byte)
  | raceArmDone (slot : BitVec 2)
  | raceDisarm (d : DisarmReport)
  -- Power (R274 to R298)
  | glbSleepDoze (r : Req)
  | glbSleepSlack (r : Req)
  | dozeEntry
  | slackEntry
  | dozeWake
  /-- `raw`: the raw bits for a reseed, or, where an instantiation takes its place, for that. -/
  | fastWake (raw : List Byte) (env : BootEnv)
  | capWindow (w : WindowReport)
  | droopTrip (g : BitVec 3)
  | stretchEnd (g : BitVec 3)
  | opIncrease (r : RiseReport)
  | replanPoint
  | energySlackTick
  | checkpoint
  -- Mailboxes and Saltern services (R323 to R327)
  | mbxPush (r : Req) (c : BitVec 5) (word : Word) (be : BitVec 4)
  | mbxPop (r : Req) (c : BitVec 5)
  | flushIn (r : Req) (c : BitVec 5)
  | serviceTimeout (c : BitVec 5)
  | keyInfo (c : BitVec 5)
  | keyDerive (c : BitVec 5)
  | keyGenerate (c : BitVec 5)
  | keyImport (c : BitVec 5)
  | keyHmac (c : BitVec 5)
  | keySign (c : BitVec 5)
  | keyEcdh (c : BitVec 5)
  | keyZeroise (c : BitVec 5)
  | keyPublic (c : BitVec 5)
  | otpRead (c : BitVec 5)
  | otpProgram (c : BitVec 5)
  | otpLock (c : BitVec 5)
  | otpPulse (left : FuseOutcome)
  | digest (c : BitVec 5)
  | hmacVerify (c : BitVec 5)
  | random (c : BitVec 5)
  | attestReport (c : BitVec 5)
  | attestLog (c : BitVec 5)
  | attestChain (c : BitVec 5)
  | attestMr (c : BitVec 5)
  | imageWrite (c : BitVec 5)
  -- Engines (R349 to R365)
  /-- The firmware has placed the descriptor `desc` and hands it to the engine. `input` is the mover's stream up to its end mark; for a
  source in SRAM, the bytes that the firmware has placed there. -/
  | digestDescriptor (place : DescPlace) (desc : List Byte) (input : List Byte)
  /-- A PKE program: the key slot named with the request, and the operands loaded into V0, V1 and so on. -/
  | p256Sign (slot : BitVec 5) (ops : List (List DWord))
  | p256Verify (ops : List (List DWord))
  | p256Public (slot : BitVec 5)
  | p384Sign (slot : BitVec 5) (ops : List (List DWord))
  | p384Verify (ops : List (List DWord))
  | p384Public (slot : BitVec 5)
  | p384Ecdh (slot : BitVec 5) (ops : List (List DWord))
  | mldsaPublic (slot : BitVec 5)
  | mldsaSign (slot : BitVec 5) (msg : List Byte)
  | mldsaVerify (pub msg sig : List Byte)
  | rsa3072Verify (ops : List (List DWord))
  | rsa4096Verify (ops : List (List DWord))
  /-- The raw bits of the startup test, and those that are conditioned: 1,024 for the entropy input and 1,024 for the nonce. -/
  | drbgInstantiate (startup raw : List Byte)
  /-- The 1,024 raw bits that are conditioned. -/
  | drbgReseed (raw : List Byte)
  | entropyBufferRefill
  /-- The raw bits among which a health test fails. -/
  | healthTestFail (raw : List Byte)
  -- Boot (R316, R140, R447, R426, R393)
  | transitionExamine
  | bootClearDone (v : ClearVerdict)
  | selfTestDone (p : BitVec 6) (pass : Bool)
  | readyRise
  | pushChunk (r : Req) (ctrl : QWord)
  | abandon (r : Req) (ctrl : QWord)
  | profClear (r : Req) (p : BitVec 6)
  -- The TAP (R459)
  | testLogicReset
  | extest
  | samplePreload (pins : DWord)
  | idcode
  | highz
  | clamp
  | dbg
  | bypass
  -- DBG register operations (R460)
  | dbgNop
  | read8B (a : Addr)
  | write8B (a : Addr) (d : DWord)
  | haltPan (p : BitVec 6)
  | resumePan (p : BitVec 6)
  | haltSaltern
  | resumeSaltern
  | dbgStatus
  -- The I3C target (R449 to R455)
  | entdaa (a : BitVec 7)
  | setdasa (static dyn : BitVec 7)
  | rstdaa
  | getpid
  | getbcr
  | getdcr
  | getstatus
  | enec
  | disec
  | regRead (off : BitVec 16) (count : Byte)
  | holdSet
  | holdClear
  | i3cPrivateRead (n : BitVec 8)
  | i3cClockSourceSwitch (refclk : Bool)
  -- Late rows of the table
  | vppOtpLoss (left : FuseOutcome)
  | droopDetectorClear (g : BitVec 3)
  | boostLeave100C (g : BitVec 3)
  | clearRegionDone (seq : DWord) (v : ClearVerdict)
  deriving DecidableEq, Repr

end Sys2Proof
end

