-- ==== Sys2Proof/Config.lean ====
section
/-! DEFINITION. The free values: constants with no body, applied to the model's counter of draws or to operands. Nothing can be
proved of what they are; each stands for a value the spec does not fix (notes/assumptions/1.md). -/
namespace Sys2Proof.Machine

/-- A count of pan cycles that depends on timing the model leaves out (R54, R270). -/
opaque freeCycles (n : Nat) : Word

/-- Which way an estimate that is no whole number of mW is rounded, by the estimate in units of 1/10240 mW (R290). -/
opaque estUp (n : Nat) : BitVec 1

/-- Leakage in mW that the estimator takes from the fused coefficient, its doubling interval and the sensors' readings (R290,
Table 13.2). -/
opaque leakMw (mw85 interval : Nat) (temps : List Int) : BitVec 20

/-- SHA-384 over the mask ROM's other bytes, a constant of the mask ROM (Table 16.3), first byte lowest. -/
opaque romDigest : BitVec 384

end Sys2Proof.Machine
end

