-- ==== Sys2Proof/Machine/Bits.lean ====
section
/-! DEFINITION. Bit fields, byte order and the sparse tables of the model. Multi-byte values are little-endian (R3). -/
namespace Sys2Proof

-- ## Sparse tables

/-- What the table holds at a key: the default `d` where no pair has it. -/
def Tab.look {α : Type} (m : Tab α) (d : α) (k : Nat) : α :=
  match m with
  | [] => d
  | (k', v) :: m => if k = k' then v else Tab.look m d k

/-- The table with `v` at the key: the pairs of smaller keys, the key's own where `v` is not the default, the pairs of larger keys. -/
def Tab.put {α : Type} [DecidableEq α] (m : Tab α) (d : α) (k : Nat) (v : α) : Tab α :=
  (m.filter fun kv => kv.1 < k) ++ (if v = d then [] else [(k, v)]) ++ (m.filter fun kv => k < kv.1)

/-- The table with every key in `[a, a + n)` back at its default. -/
def Tab.wipe {α : Type} (m : Tab α) (a n : Nat) : Tab α := m.filter fun kv => kv.1 < a || a + n ≤ kv.1

/-- The table with the values of a list at consecutive keys from `a`. -/
def Tab.span {α : Type} [DecidableEq α] (m : Tab α) (d : α) (a : Nat) (vs : List α) : Tab α :=
  (m.filter fun kv => kv.1 < a)
    ++ ((vs.zipIdx a).map fun vi => (vi.2, vi.1)).filter (fun kv => kv.2 ≠ d)
    ++ (m.filter fun kv => a + vs.length ≤ kv.1)

/-- The canonical form: keys strictly rising, no pair equal to the default. -/
abbrev Tab.wf {α : Type} [DecidableEq α] (m : Tab α) (d : α) : Prop :=
  (m.Pairwise fun x y => x.1 < y.1) ∧ ∀ kv ∈ m, kv.2 ≠ d

-- ## Fields

/-- Bits `lo .. lo + n - 1` of a number. -/
def fld (x lo n : Nat) : Nat := (x >>> lo) % 2 ^ n

/-- Bit `i` of a number. -/
def bitAt (x i : Nat) : Bool := x.testBit i

/-- One for true, zero for false. -/
def b2n (b : Bool) : Nat := if b then 1 else 0

/-- A field of `n` bits as a signed number. -/
def sfld (x lo n : Nat) : Int :=
  let v := fld x lo n
  if v < 2 ^ (n - 1) then (v : Int) else (v : Int) - 2 ^ n

/-- The number with its field `lo .. lo + n - 1` replaced. -/
def setFld (x lo n v : Nat) : Nat := x - (fld x lo n) * 2 ^ lo + (v % 2 ^ n) * 2 ^ lo

/-- The smaller of a saturating counter's next value and its limit. -/
def satAdd {w : Nat} (x : BitVec w) (n : Nat) : BitVec w := BitVec.ofNat w (min (x.toNat + n) (2 ^ w - 1))

/-- Rounding up division. -/
def cdiv (a b : Nat) : Nat := (a + b - 1) / b

/-- The indices below `n` of the bits a mask sets, ascending. -/
def maskList (x n : Nat) : List Nat := (List.range n).filter fun i => x.testBit i

/-- The mask that sets the listed bits. -/
def listMask (l : List Nat) : Nat := l.foldl (fun m i => m ||| 2 ^ i) 0

-- ## Bytes

/-- `n` bytes of a number, least significant first. -/
def leBytes (n x : Nat) : List Byte :=
  match n with
  | 0 => []
  | n + 1 => BitVec.ofNat 8 x :: leBytes n (x >>> 8)

/-- The number that bytes spell, least significant first. -/
def leNat (l : List Byte) : Nat :=
  match l with
  | [] => 0
  | b :: l => b.toNat + (leNat l <<< 8)

/-- `n` bytes of a number, most significant first (digests, CBOR; R3). -/
def beBytes (n x : Nat) : List Byte := (leBytes n x).reverse

/-- The number that bytes spell, most significant first. -/
def beNat (l : List Byte) : Nat := leNat l.reverse

/-- Bytes `a .. a + n - 1` of a list, zero beyond its end. -/
def slice (l : List Byte) (a n : Nat) : List Byte :=
  let t := (l.drop a).take n
  t ++ List.replicate (n - t.length) 0

/-- The field of a byte string: `n` bytes from byte `a`, as a number. -/
def leAt (l : List Byte) (a n : Nat) : Nat := leNat (slice l a n)

/-- ASCII text as bytes. -/
def ascii (t : String) : List Byte := t.toList.map fun c => BitVec.ofNat 8 c.toNat

end Sys2Proof
end

