-- ==== Sys2Proof/Machine/Flags.lean ====
section
/-! DEFINITION. The sticky arithmetic flags of PAN_ARITH (Table 2.9), the clamp mask (Table 8.6) and the completion
statuses (Table 8.13). -/
namespace Sys2Proof.Machine

/-- PAN_ARITH bits [4:0] (Table 2.9). -/
abbrev AFlags := BitVec 5
def fAccSat : AFlags := 16
def fNarrowSat : AFlags := 8
def fFpOvf : AFlags := 4
def fNanGen : AFlags := 2
def fNanIn : AFlags := 1

/-- A computation that may set arithmetic flags; flags only accumulate (R55). -/
abbrev Arith := StateM AFlags

/-- Sets flags. -/
def raise (f : AFlags) : Arith Unit := modify (· ||| f)

/-- Sets flags if a condition holds. -/
def raiseIf (b : Bool) (f : AFlags) : Arith Unit := if b then raise f else pure ()

/-- The value and the flags of a computation begun with none. -/
def Arith.go {α : Type} (m : Arith α) : α × AFlags := StateT.run (m := Id) m 0

-- Clamp mask bits (Table 8.6).
def cDoorbell : BitVec 16 := 0x0001
def cPans : BitVec 16 := 0x0002
def cProgramField : BitVec 16 := 0x0004
def cHeader : BitVec 16 := 0x0008
def cAlign : BitVec 16 := 0x0010
def cLength : BitVec 16 := 0x0020
def cKvParam : BitVec 16 := 0x0040
def cConfluence : BitVec 16 := 0x0080
def cGather : BitVec 16 := 0x0100
def cAttn : BitVec 16 := 0x0200
def cShare : BitVec 16 := 0x0400
def cPair : BitVec 16 := 0x0800
def cPool : BitVec 16 := 0x1000
def cContext : BitVec 16 := 0x2000
def cPower : BitVec 16 := 0x4000
def cRsv : BitVec 16 := 0x8000

-- Completion statuses (Table 8.13).
def stOk : Byte := 0
def stShort : Byte := 1
def stTrunc : Byte := 2
def stKvFull : Byte := 3
def stPoison : Byte := 4
def stFenced : Byte := 5
def stDenied : Byte := 6
def stAborted : Byte := 7
def stBadHandle : Byte := 8
def stNotReady : Byte := 9

end Sys2Proof.Machine
end

