-- ==== Sys2Proof/Machine/Arith.lean ====
section
/-! DEFINITION. The arithmetic of the cells and the vector unit, bit for bit: number formats (R38, R39), conversions
(Table 2.2), vector functions (Table 2.3), EXP (R47), RSQRT (R48). Finite values are exact: a sign, a magnitude and a power
of two; each rounding happens once, in `roundMag`. -/
namespace Sys2Proof.Machine

/-- An exact value. -/
inductive FV where
  | nan
  | inf (neg : Bool)
  /-- (-1)^neg × m × 2^e. -/
  | fin (neg : Bool) (m : Nat) (e : Int)
  deriving DecidableEq, Repr

/-- A floating-point format: exponent bits, fraction bits, and whether the top exponent holds infinities (Table 2.1). -/
structure FFmt where
  eb : Nat
  fb : Nat
  ieee : Bool
  deriving DecidableEq, Repr

def fE4m3 : FFmt := { eb := 4, fb := 3, ieee := false }
def fE5m2 : FFmt := { eb := 5, fb := 2, ieee := true }
def fBf16 : FFmt := { eb := 8, fb := 7, ieee := true }
def fFp16 : FFmt := { eb := 5, fb := 10, ieee := true }
def fFp32 : FFmt := { eb := 8, fb := 23, ieee := true }

def FFmt.bias (f : FFmt) : Nat := 2 ^ (f.eb - 1) - 1
def FFmt.signBit (f : FFmt) : Nat := 2 ^ (f.eb + f.fb)
def FFmt.infCode (f : FFmt) : Nat := (2 ^ f.eb - 1) * 2 ^ f.fb

/-- The largest finite code of Table 2.1. -/
def FFmt.maxCode (f : FFmt) : Nat := if f.ieee then f.infCode - 1 else 2 ^ (f.eb + f.fb) - 2

/-- The canonical NaN (R39). -/
def FFmt.nanCode (f : FFmt) : Nat := if f.ieee then f.infCode + 2 ^ (f.fb - 1) else 2 ^ (f.eb + f.fb) - 1

/-- The exact value of a code (R38). -/
def FFmt.decode (f : FFmt) (c : Nat) : FV :=
  let neg := c.testBit (f.eb + f.fb)
  let ex := fld c f.fb f.eb
  let fr := fld c 0 f.fb
  if f.ieee && ex == 2 ^ f.eb - 1 then (if fr == 0 then .inf neg else .nan)
  else if !f.ieee && c % f.signBit == f.nanCode then .nan
  else if ex == 0 then .fin neg fr (1 - (f.bias : Int) - f.fb)
  else .fin neg (fr + 2 ^ f.fb) ((ex : Int) - f.bias - f.fb)

/-- `num / den` rounded to nearest, ties to even. -/
def rhe (num den : Nat) : Nat :=
  let q := num / den
  let r := num % den
  if den < 2 * r || (2 * r == den && q % 2 == 1) then q + 1 else q

/-- Left shift by an integer: of the numerator, or of the denominator when negative. -/
def shiftFrac (num den : Nat) (k : Int) : Nat × Nat :=
  if 0 ≤ k then (num <<< k.toNat, den) else (num, den <<< (-k).toNat)

/-- The code, without a sign, nearest to `num / den × 2^e` (positive), ties to even, with subnormals and with no upper bound:
a value beyond the format's range gives a code above `maxCode`. -/
def FFmt.roundMag (f : FFmt) (num den : Nat) (e : Int) : Nat :=
  let l0 : Int := (num.log2 : Int) - den.log2
  let (a, b) := shiftFrac num den (-l0)
  let l := if a < b then l0 - 1 else l0
  let low : Int := 1 - (f.bias : Int) - f.fb
  let u := max (l + e - f.fb) low
  let (n, d) := shiftFrac num den (e - u)
  (u - low).toNat * 2 ^ f.fb + rhe n d

/-- A code with a sign. -/
def FFmt.signed (f : FFmt) (neg : Bool) (c : Nat) : Nat := if neg then f.signBit + c else c

/-- rne32 of an exact quotient: overflow gives an infinity and FP_OVF (R40, R42). -/
def rneDiv (neg : Bool) (num den : Nat) (e : Int) : Arith Nat :=
  if num = 0 then pure (fFp32.signed neg 0) else
    let c := fFp32.roundMag num den e
    if fFp32.maxCode < c then do raise fFpOvf; pure (fFp32.signed neg fFp32.infCode)
    else pure (fFp32.signed neg c)

/-- rne32 of a value: FP32 bits. -/
def rne32 : FV → Arith Nat
  | .nan => pure fFp32.nanCode
  | .inf neg => pure (fFp32.signed neg fFp32.infCode)
  | .fin neg m e => rneDiv neg m 1 e

/-- A narrowing conversion: to nearest, saturating with NARROW_SAT, infinities too (R44). -/
def FFmt.narrow (f : FFmt) (v : FV) : Arith Nat :=
  match v with
  | .nan => pure f.nanCode
  | .inf neg => do raise fNarrowSat; pure (f.signed neg f.maxCode)
  | .fin neg m e =>
    if m = 0 then pure (f.signed neg 0) else
      let c := f.roundMag m 1 e
      if f.maxCode < c then do raise fNarrowSat; pure (f.signed neg f.maxCode)
      else pure (f.signed neg c)

-- ## Exact operations on values

def FV.isNan : FV → Bool
  | .nan => true
  | _ => false

def FV.isNeg : FV → Bool
  | .nan => false
  | .inf neg => neg
  | .fin neg _ _ => neg

def FV.neg : FV → FV
  | .nan => .nan
  | .inf n => .inf !n
  | .fin n m e => .fin (!n) m e

/-- The value of a finite magnitude at a common power of two. -/
def toInt (neg : Bool) (m : Nat) : Int := if neg then -(m : Int) else m

/-- The exact sum; an exact zero is -0 only when both addends are negative zeros (R42). -/
def FV.add : FV → FV → FV
  | .nan, _ => .nan
  | _, .nan => .nan
  | .inf a, .inf b => if a = b then .inf a else .nan
  | .inf a, .fin .. => .inf a
  | .fin .., .inf b => .inf b
  | .fin n1 m1 e1, .fin n2 m2 e2 =>
    let e := min e1 e2
    let s := toInt n1 (m1 <<< (e1 - e).toNat) + toInt n2 (m2 <<< (e2 - e).toNat)
    if s = 0 then .fin (n1 && n2 && m1 == 0 && m2 == 0) 0 e else .fin (decide (s < 0)) s.natAbs e

/-- The exact product. -/
def FV.mul : FV → FV → FV
  | .nan, _ => .nan
  | _, .nan => .nan
  | .inf a, .inf b => .inf (a != b)
  | .inf a, .fin b m _ => if m = 0 then .nan else .inf (a != b)
  | .fin a m _, .inf b => if m = 0 then .nan else .inf (a != b)
  | .fin a m1 e1, .fin b m2 e2 => .fin (a != b) (m1 * m2) (e1 + e2)

/-- The order of values that are not NaN, with +0 above -0 (Table 2.3). -/
def FV.le : FV → FV → Bool
  | .nan, _ => false
  | _, .nan => false
  | .inf a, .inf b => a || !b
  | .inf a, .fin .. => a
  | .fin .., .inf b => !b
  | .fin n1 m1 e1, .fin n2 m2 e2 =>
    let e := min e1 e2
    let x := toInt n1 (m1 <<< (e1 - e).toNat)
    let y := toInt n2 (m2 <<< (e2 - e).toNat)
    if x = y then n1 || !n2 else decide (x < y)

/-- The value rounded to the nearest integer, ties to even; infinities and NaN are told apart by the caller. -/
def FV.toInteger : FV → Int
  | .nan => 0
  | .inf neg => toInt neg (2 ^ 64)
  | .fin neg m e =>
    let (n, d) := shiftFrac m 1 e
    toInt neg (rhe n d)

-- ## FP32 operations (Table 2.3)

/-- The value of FP32 bits. -/
def v32 (x : Nat) : FV := fFp32.decode x

/-- NAN_IN when an operand is NaN; NAN_GEN when the result is NaN and no operand is (R42). -/
def nanFlags (ops : List FV) (r : FV) : Arith Unit :=
  if ops.any FV.isNan then raise fNanIn else raiseIf r.isNan fNanGen

/-- An operation on exact values, rounded once. -/
def op32 (ops : List FV) (r : FV) : Arith Nat := do nanFlags ops r; rne32 r

def add32 (a b : Nat) : Arith Nat := op32 [v32 a, v32 b] ((v32 a).add (v32 b))
def sub32 (a b : Nat) : Arith Nat := op32 [v32 a, v32 b] ((v32 a).add (v32 b).neg)
def mul32 (a b : Nat) : Arith Nat := op32 [v32 a, v32 b] ((v32 a).mul (v32 b))
def fma32 (a b c : Nat) : Arith Nat := op32 [v32 a, v32 b, v32 c] (((v32 a).mul (v32 b)).add (v32 c))

/-- MAX: NaN if any operand is NaN; +0 above -0. -/
def max32 (a b : Nat) : Arith Nat :=
  if (v32 a).isNan || (v32 b).isNan then do raise fNanIn; pure fFp32.nanCode
  else pure (if (v32 a).le (v32 b) then b else a)

/-- MIN: NaN if any operand is NaN; +0 above -0. -/
def min32 (a b : Nat) : Arith Nat :=
  if (v32 a).isNan || (v32 b).isNan then do raise fNanIn; pure fFp32.nanCode
  else pure (if (v32 a).le (v32 b) then a else b)

/-- ABS and NEG change the sign alone; a NaN gives the canonical NaN (R39). -/
def abs32 (a : Nat) : Arith Nat :=
  if (v32 a).isNan then do raise fNanIn; pure fFp32.nanCode else pure (a % 2 ^ 31)

def neg32 (a : Nat) : Arith Nat :=
  if (v32 a).isNan then do raise fNanIn; pure fFp32.nanCode
  else pure (if a.testBit 31 then a % 2 ^ 31 else a % 2 ^ 31 + 2 ^ 31)

/-- RECIP: rne32(1 ÷ x), correctly rounded; a zero gives an exact infinity of its sign. -/
def recip32 (x : Nat) : Arith Nat :=
  match v32 x with
  | .nan => do raise fNanIn; pure fFp32.nanCode
  | .inf neg => pure (fFp32.signed neg 0)
  | .fin neg m e => if m = 0 then pure (fFp32.signed neg fFp32.infCode) else rneDiv neg 1 m (-e)

/-- FP32 bits of an integer that FP32 holds exactly. -/
def int32f (n : Int) : Nat := (Arith.go (rne32 (.fin (decide (n < 0)) n.natAbs 0))).1

-- ## EXP (R47)

/-- c[6] to c[0], the coefficients below the leading one. -/
def expCoeffs : List Nat := [0x3AB60B61, 0x3C088889, 0x3D2AAAAB, 0x3E2AAAAB, 0x3F000000, 0x3F800000, 0x3F800000]

/-- p × r + c for each coefficient in turn. -/
def horner (p r : Nat) : List Nat → Arith Nat
  | [] => pure p
  | c :: cs => do
    let p ← fma32 p r c
    horner p r cs

/-- e^x by the procedure of R47. -/
def exp32 (x : Nat) : Arith Nat :=
  match v32 x with
  | .nan => do raise fNanIn; pure fFp32.nanCode
  | .inf neg => pure (if neg then 0 else fFp32.infCode)
  | v@(.fin ..) =>
    if (v32 0x42C80000).le v then do raise fFpOvf; pure fFp32.infCode
    else if v.le (v32 0xC2DC0000) then pure 0
    else do
      let t ← mul32 x 0x3FB8AA3B
      let n := (v32 t).toInteger
      let mn := int32f (-n)
      let r ← fma32 mn 0x3F317200 x
      let r ← fma32 mn 0x35BFBE8E r
      let p ← horner 0x39500D01 r expCoeffs
      match v32 p with
      | .fin neg m e => rneDiv neg m 1 (e + n)
      | w => rne32 w

-- ## RSQRT (R48)

/-- The largest number of at most `k` bits whose square is at most `n`, beginning from `r`. -/
def isqrtFrom (n : Nat) : Nat → Nat → Nat
  | 0, r => r
  | k + 1, r =>
    let r' := r + 2 ^ k
    isqrtFrom n k (if r' * r' ≤ n then r' else r)

/-- tab[b][j] = rne32(1 ÷ √(c × 2^b)) with c = (129 + 2j) ÷ 128: the root to 32 fraction bits, and a last bit that says
whether more follow, decide the rounding. -/
def rsqrtTab (b : Bool) (j : Nat) : Nat :=
  let d := (129 + 2 * j) * (if b then 2 else 1)
  let y := isqrtFrom (2 ^ 71 / d) 34 0
  fFp32.roundMag (2 * y + (if y * y * d = 2 ^ 71 then 0 else 1)) 1 (-33)

/-- One refinement y × (1.5 - h × y × y), each step rounded. -/
def rsqrtStep (h y : Nat) : Arith Nat := do
  let s ← mul32 y y
  let s ← mul32 h s
  let s ← sub32 0x3FC00000 s
  mul32 y s

/-- 1 ÷ √x by the procedure of R48. -/
def rsqrt32 (x : Nat) : Arith Nat :=
  match v32 x with
  | .nan => do raise fNanIn; pure fFp32.nanCode
  | .inf neg => if neg then do raise fNanGen; pure fFp32.nanCode else pure 0
  | .fin neg m e =>
    if m = 0 then pure (fFp32.signed neg fFp32.infCode)
    else if neg then do raise fNanGen; pure fFp32.nanCode
    else do
      -- x = m × 2^e = w × 2^(l + e) with 1 ≤ w < 2
      let l := m.log2
      let top : Int := l + e
      let half := Int.fdiv top 2
      let b := decide (top - 2 * half = 1)
      let j := fld (m <<< 6) l 6
      let wide : Int := if b then 1 else 0
      let (h, _) := Arith.go (rne32 (.fin false m (wide - l - 1)))
      let y ← rsqrtStep h (rsqrtTab b j)
      let y ← rsqrtStep h y
      match v32 y with
      | .fin n m e => rneDiv n m 1 (e - half)
      | w => rne32 w

def sigmoid32 (x : Nat) : Arith Nat := do
  let a ← neg32 x
  let a ← exp32 a
  let a ← add32 0x3F800000 a
  recip32 a

def silu32 (x : Nat) : Arith Nat := do
  let a ← sigmoid32 x
  mul32 x a

-- ## Integers

/-- The INT32 value of 32 bits. -/
def i32 (x : Nat) : Int := sfld x 0 32

/-- 32 bits of an integer. -/
def ofI32 (x : Int) : Nat := (x % 2 ^ 32).toNat

/-- sat32: clamps to the INT32 range, setting ACC_SAT when it clamps (R40). -/
def sat32 (x : Int) : Arith Int :=
  if x < -(2 ^ 31) then do raise fAccSat; pure (-(2 ^ 31))
  else if 2 ^ 31 - 1 < x then do raise fAccSat; pure (2 ^ 31 - 1)
  else pure x

def iadd32 (a b : Nat) : Arith Nat := do pure (ofI32 (← sat32 (i32 a + i32 b)))
def isub32 (a b : Nat) : Arith Nat := do pure (ofI32 (← sat32 (i32 a - i32 b)))
def imul32 (a b : Nat) : Arith Nat := do pure (ofI32 (← sat32 (i32 a * i32 b)))

/-- Arithmetic right shift, discarded bits rounded to nearest, ties to even. -/
def shr32 (a n : Nat) : Nat :=
  let v := i32 a
  ofI32 (toInt (decide (v < 0)) (rhe v.natAbs (2 ^ n)))

-- ## Element formats (Table 2.1, R58, R87)

/-- The element formats of operands and conversions. -/
inductive Fmt where
  | int4 | uint4 | int8 | uint8 | e4m3 | e5m2 | bf16 | fp32 | int32 | fp16
  deriving DecidableEq, Repr

def Fmt.bits : Fmt → Nat
  | .int4 | .uint4 => 4
  | .int8 | .uint8 | .e4m3 | .e5m2 => 8
  | .bf16 | .fp16 => 16
  | .fp32 | .int32 => 32

/-- The float layout of a format; integer formats answer none. -/
def Fmt.float : Fmt → Option FFmt
  | .e4m3 => some fE4m3
  | .e5m2 => some fE5m2
  | .bf16 => some fBf16
  | .fp16 => some fFp16
  | .fp32 => some fFp32
  | .int4 | .uint4 | .int8 | .uint8 | .int32 => none

/-- Lowest and highest value of an integer format; float formats answer zeros. -/
def Fmt.range : Fmt → Int × Int
  | .int4 => (-8, 7)
  | .uint4 => (0, 15)
  | .int8 => (-128, 127)
  | .uint8 => (0, 255)
  | .int32 => (-(2 ^ 31), 2 ^ 31 - 1)
  | .e4m3 | .e5m2 | .bf16 | .fp32 | .fp16 => (0, 0)

def Fmt.signed : Fmt → Bool
  | .int4 | .int8 | .int32 => true
  | .uint4 | .uint8 | .e4m3 | .e5m2 | .bf16 | .fp32 | .fp16 => false

/-- The integer a code stands for. -/
def Fmt.intOf (f : Fmt) (c : Nat) : Int := if f.signed then sfld c 0 f.bits else (fld c 0 f.bits : Int)

/-- The exact value a code stands for. -/
def Fmt.value (f : Fmt) (c : Nat) : FV :=
  match f.float with
  | some ff => ff.decode c
  | none => let n := f.intOf c; .fin (decide (n < 0)) n.natAbs 0

/-- Clamps an integer to a format's range, NARROW_SAT when it clamps (R44). -/
def Fmt.clampInt (f : Fmt) (n : Int) : Arith Nat :=
  let (lo, hi) := f.range
  if n < lo then do raise fNarrowSat; pure (lo % 2 ^ f.bits).toNat
  else if hi < n then do raise fNarrowSat; pure (hi % 2 ^ f.bits).toNat
  else pure (n % 2 ^ f.bits).toNat

/-- Whether a conversion widens, so that infinities stay infinities (Table 2.2). -/
def widens (src dst : Fmt) : Bool :=
  match src, dst with
  | _, .fp32 => true
  | .e5m2, .bf16 => true
  | .e4m3, .bf16 => true
  | _, _ => false

/-- A conversion of Table 2.2. -/
def convert (src dst : Fmt) (c : Nat) : Arith Nat := do
  let v := src.value c
  raiseIf v.isNan fNanIn
  match dst.float, v with
  | none, .nan => do raise fNarrowSat; pure 0
  | none, v => dst.clampInt v.toInteger
  | some f, .inf neg =>
    if widens src dst then pure (f.signed neg f.infCode) else f.narrow v
  | some f, v => f.narrow v

-- ## Packed elements

/-- Element `i` of packed bytes: 4-bit elements two to a byte, the lower index in bits [3:0] (R38). -/
def elemAt (f : Fmt) (l : List Byte) (i : Nat) : Nat :=
  if f.bits = 4 then fld (leAt l (i / 2) 1) (4 * (i % 2)) 4 else leAt l (i * (f.bits / 8)) (f.bits / 8)

/-- The first `n` elements of packed bytes. -/
def unpack (f : Fmt) (l : List Byte) (n : Nat) : List Nat := (List.range n).map (elemAt f l)

/-- Elements packed into bytes; the last half byte of an odd count is 0. -/
def pack (f : Fmt) (cs : List Nat) : List Byte :=
  if f.bits = 4 then
    (List.range (cdiv cs.length 2)).map fun i =>
      BitVec.ofNat 8 (cs.getD (2 * i) 0 % 16 + 16 * (cs.getD (2 * i + 1) 0 % 16))
  else cs.flatMap fun c => leBytes (f.bits / 8) c

end Sys2Proof.Machine
end

