-- ==== Sys2Proof/Machine/Operands.lean ====
section
/-! DEFINITION. Instruction words and descriptor words: their fields (Tables 3.1, 4.5 to 4.15, 6.7, 6.8), the replacements
made at every decode (R60, R77, R86, R90, R94, R98, R102, R106, R108, R155, R162), the checks that fail a load (R76, R77, R105)
and address stepping (R106). A word is a number below 2^128. -/
namespace Sys2Proof.Machine

/-- CLASS of an instruction word (R85). -/
def iClass (w : Nat) : Nat := fld w 124 4
/-- FUNC of an instruction word (R85). -/
def iFunc (w : Nat) : Nat := fld w 120 4
/-- AUTO of an instruction word (R85). -/
def iAuto (w : Nat) : Bool := bitAt w 119

def kEnd : Nat := 0
def kMove : Nat := 1
def kMatmul : Nat := 2
def kVec : Nat := 3
def kReduce : Nat := 4
def kQuant : Nat := 5
def kDequant : Nat := 6
def kAttn : Nat := 7
def kGather : Nat := 8
def kConf : Nat := 9
def kSample : Nat := 10
def kLoop : Nat := 11
def kWait : Nat := 12
def kStep : Nat := 13

/-- The format of a 3-bit code (Table 3.1). -/
def fmt3 (c : Nat) : Option Fmt :=
  match c with
  | 0 => some .int4 | 1 => some .uint4 | 2 => some .int8 | 3 => some .uint8
  | 4 => some .e4m3 | 5 => some .e5m2 | 6 => some .bf16 | _ => none

/-- The format of a 4-bit code (R87). -/
def fmt4 (c : Nat) : Option Fmt :=
  match c with
  | 8 => some .fp32 | 9 => some .int32 | 10 => some .fp16
  | c => if c < 7 then fmt3 c else none

/-- The fields of a class below bit 119, as lowest bit and width (Tables 4.5 to 4.13, 4.15). -/
def fieldsOf (cls : Nat) : List (Nat × Nat) :=
  match cls with
  | 1 => [(118, 1), (117, 1), (95, 22), (55, 40), (45, 10), (33, 12), (21, 12), (5, 16)]
  | 2 => [(116, 3), (113, 3), (105, 8), (97, 8), (87, 10), (73, 14), (57, 16), (40, 17), (30, 10), (21, 9), (11, 10),
          (10, 1), (2, 8)]
  | 3 => [(118, 1), (117, 1), (116, 1), (112, 4), (108, 4), (92, 16), (70, 22), (48, 22), (26, 22), (4, 22)]
  | 4 => [(118, 1), (108, 10), (92, 16), (70, 22), (4, 22)]
  | 5 => [(111, 8), (109, 2), (99, 10), (83, 16), (61, 22), (39, 22), (29, 10), (19, 10)]
  | 6 => [(111, 8), (99, 10), (83, 16), (61, 22), (39, 22), (29, 10), (19, 10)]
  | 7 => [(111, 8), (110, 1), (106, 4), (99, 7), (83, 16), (61, 22), (39, 22), (17, 22)]
  | 8 => [(107, 12), (100, 7), (92, 8), (76, 16), (54, 22)]
  | 9 => [(118, 1), (112, 6), (96, 16), (74, 22), (52, 22)]
  | 10 => [(118, 1), (117, 1), (97, 20), (79, 18), (57, 22), (35, 22), (13, 22)]
  | 11 => [(103, 16), (90, 13), (66, 24), (42, 24), (18, 24)]
  | 12 => [(116, 3)]
  | 13 => [(103, 16)]
  | _ => []

/-- Functions a class defines; MATMUL keeps its two low FUNC bits alone (R92, R95, R88). -/
def funcsOf (cls : Nat) : Nat :=
  match cls with
  | 0 => 1 | 1 => 3 | 2 => 16 | 3 => 15 | 4 => 2 | 5 => 2 | 6 => 2 | 7 => 3 | 8 => 2 | 9 => 6 | 10 => 2
  | 11 => 1 | 12 => 1 | 13 => 1 | _ => 0

/-- The stepped fields of a class, A then B then D, as lowest bit and width (Table 4.14). MOVE steps the OFFSET of its LOCAL slot, the
other classes whole slots (R86). -/
def steppedOf (cls : Nat) : Option (Nat × Nat) × Option (Nat × Nat) × Option (Nat × Nat) :=
  match cls with
  | 1 => (some (95, 21), some (55, 40), none)
  | 2 => (some (40, 17), some (21, 9), some (11, 10))
  | 3 => (some (70, 22), some (48, 22), some (4, 22))
  | 4 => (some (70, 22), none, some (4, 22))
  | 5 => (some (61, 22), none, some (39, 22))
  | 6 => (some (61, 22), none, some (39, 22))
  | 7 => (some (61, 22), some (39, 22), some (17, 22))
  | 8 => (none, none, some (54, 22))
  | 9 => (some (74, 22), none, some (52, 22))
  | 10 => (some (57, 22), none, some (13, 22))
  | _ => (none, none, none)

/-- Whether AUTO means anything for a class (R106). -/
def canAuto (cls : Nat) : Bool := decide (1 ≤ cls) && decide (cls ≤ 10)

/-- The word with every bit outside the given fields cleared, keeping CLASS and FUNC. -/
def keepFields (w : Nat) (fs : List (Nat × Nat)) : Nat :=
  fs.foldl (fun acc f => acc + fld w f.1 f.2 * 2 ^ f.1) (fld w 120 8 * 2 ^ 120)

-- ## Slots (R86)

/-- An operand slot: the accumulator or the pan store, and a row or a byte offset. -/
structure Slot22 where
  acc : Bool
  ofs : Nat
  deriving DecidableEq, Repr

/-- The slot whose lowest bit is `lo`. -/
def slotAt (w lo : Nat) : Slot22 :=
  if bitAt w (lo + 21) then { acc := true, ofs := fld w lo 10 } else { acc := false, ofs := fld w lo 21 }

/-- Clears the offset bits below the element size, and bits [20:10] of an accumulator row. -/
def cleanSlot (w lo esz : Nat) : Nat :=
  if bitAt w (lo + 21) then setFld w (lo + 10) 11 0
  else setFld w lo 21 (fld w lo 21 / esz * esz)

/-- As `cleanSlot`, failing when the slot names the accumulator. -/
def storeSlot (w lo esz : Nat) : Option Nat := if bitAt w (lo + 21) then none else some (cleanSlot w lo esz)

/-- The bytes an element takes; a 4-bit operand starts on a byte. -/
def Fmt.bytes (f : Fmt) : Nat := max 1 (f.bits / 8)

-- ## Descriptors

/-- The kinds a descriptor word is named as (R76). -/
inductive DKind where
  | quant | pattern | append
  deriving DecidableEq, Repr

/-- A quantisation descriptor after R60; a reserved FMT fails. -/
def cleanQuant (d : Nat) : Option Nat :=
  if fld d 0 3 = 7 then none else
    let d := fld d 48 16 * 2 ^ 48 + fld d 20 17 * 2 ^ 20 + fld d 8 8 * 2 ^ 8 + fld d 0 7
    let d := if fld d 5 2 = 3 then setFld d 5 2 2 else d
    let d := if 4 ≤ fld d 0 3 then setFld d 4 1 0 else d
    some (if fld d 5 2 = 0 then
      setFld d 8 8 (if fld d 8 8 ≤ 48 then 32 else if fld d 8 8 ≤ 96 then 64 else 128) else d)

/-- A sparse-pattern descriptor after R162. -/
def cleanPattern (d : Nat) : Nat :=
  let d := fld d 57 15 * 2 ^ 57 + fld d 48 8 * 2 ^ 48 + fld d 45 3 * 2 ^ 45 + fld d 20 25 * 2 ^ 20 + fld d 0 20
  let d := if 1 ≤ fld d 0 14 ∧ fld d 0 14 ≤ 63 then setFld d 0 14 64 else if 8192 < fld d 0 14 then setFld d 0 14 8192 else d
  let d := if 64 < fld d 14 7 then setFld d 14 7 64 else d
  let d := if 4 < fld d 21 3 then setFld d 21 3 4 else d
  setFld d 24 4 0

/-- An append descriptor after R155, for a MATMUL of `n` columns. -/
def cleanAppend (d n : Nat) : Nat :=
  let d := fld d 20 50 * 2 ^ 20 + fld d 0 19
  let d := setFld d 39 4 0
  if bitAt d 38 && (bitAt d 20 || bitAt d 21 || bitAt d 28 || n % 2 == 1) then setFld d 38 1 0 else d

/-- Descriptor `d` counted from 1; 0 and what lies beyond the table read as zeros. -/
def descAt (descs : List Nat) (d : Nat) : Nat := if d = 0 then 0 else descs.getD (d - 1) 0

/-- What an instruction names: descriptor number and kind (R76, R94). -/
def namesOf (w : Nat) : List (Nat × DKind) :=
  let all : List (Nat × DKind) :=
    match iClass w with
    | 2 => [(fld w 105 8, .quant), (fld w 97 8, .quant)] ++ (if bitAt w 10 then [(fld w 2 8, .append)] else [])
    | 5 => [(fld w 111 8, .quant)]
    | 6 => [(fld w 111 8, .quant)]
    | 7 => if iFunc w = 0 then [(fld w 111 8, .quant)] else []
    | 8 => [(fld w 92 8, .pattern)]
    | _ => []
  all.filter fun x => x.1 ≠ 0

-- ## Formats of pairs (Table 2.4, R43)

/-- Where a pair is computed: INT4, INT8, FP8 or BF16 rate (Table 3.2). -/
inductive Rate where
  | int4 | int8 | fp8 | bf16
  deriving DecidableEq, Repr

def rateOf (a b : Fmt) : Rate :=
  let four (f : Fmt) := f == .int4 || f == .uint4
  let eight (f : Fmt) := f == .int8 || f == .uint8
  let f8 (f : Fmt) := f == .e4m3 || f == .e5m2
  if four a && four b then .int4
  else if (four a || eight a) && (four b || eight b) then .int8
  else if f8 a && f8 b then .fp8 else .bf16

/-- Pan cycles per activation row in tile mode. -/
def Rate.r : Rate → Nat | .bf16 => 4 | .int4 | .int8 | .fp8 => 1
/-- Kt and Kc. -/
def Rate.depth : Rate → Nat | .int4 => 128 | .int8 | .fp8 | .bf16 => 64
/-- Weight columns per pan cycle in stream mode. -/
def Rate.c : Rate → Nat | .bf16 => 2 | .int4 | .int8 | .fp8 => 4
/-- Stream Mmax. -/
def Rate.mmax : Rate → Nat | .bf16 => 8 | .int4 | .int8 | .fp8 => 16

/-- The conversions Table 2.2 lists. -/
def listed (src dst : Fmt) : Bool :=
  let small (f : Fmt) := f == .int4 || f == .uint4 || f == .int8 || f == .uint8
  let f8 (f : Fmt) := f == .e4m3 || f == .e5m2
  match src, dst with
  | .int32, d => d == .fp32 || small d
  | .fp32, d => d == .bf16 || d == .fp16 || f8 d || small d
  | .bf16, d => d == .fp32 || d == .fp16 || f8 d || small d
  | .fp16, d => d == .fp32 || d == .bf16 || f8 d || small d
  | .e4m3, d => d == .fp32 || d == .bf16
  | .e5m2, d => d == .fp32 || d == .bf16
  | .int4, d => d == .int32 || d == .bf16 || d == .fp32
  | .uint4, d => d == .int32 || d == .bf16 || d == .fp32
  | .int8, d => d == .int32 || d == .bf16 || d == .fp32
  | .uint8, d => d == .int32 || d == .bf16 || d == .fp32

-- ## Replacements at decode

/-- MATMUL (R92, R94, R50, R51). -/
def cleanMatmul (descs : List Nat) (w : Nat) : Option Nat := do
  let w := setFld w 122 2 0
  let qa := fld w 105 8
  let qb := fld w 97 8
  let da ← if qa = 0 then some 0 else cleanQuant (descAt descs qa)
  let db ← if qb = 0 then some 0 else cleanQuant (descAt descs qb)
  let w := if qa = 0 then w else setFld w 116 3 (fld da 0 3)
  let w := if qb = 0 then w else setFld w 113 3 (fld db 0 3)
  let fa ← fmt3 (fld w 116 3)
  let fb ← fmt3 (fld w 113 3)
  let w := if bitAt w 10 && fld w 2 8 == 0 then setFld w 10 1 0 else w
  let w := if bitAt w 10 then w else setFld w 2 8 0
  let lim := if bitAt w 120 then (rateOf fa fb).mmax else 1024
  some (if lim < fld w 87 10 + 1 then setFld w 87 10 (lim - 1) else w)

/-- VEC (R95). A CONVERT source in the accumulator may have any format: R95 restricts the destination alone. Elements that are not of 32
bits then lie packed by bytes from the start of the row (DESIGN CHOICE [log 72]). -/
def cleanVec (w : Nat) : Option Nat :=
  let f := iFunc w
  if bitAt w 118 && 2 < f then none
  else if f = 8 then
    match fmt4 (fld w 112 4), fmt4 (fld w 108 4) with
    | some s, some d =>
      if !listed s d then none
      else if bitAt w 25 && d != .fp32 && d != .int32 then none
      else some (cleanSlot (cleanSlot w 70 s.bytes) 4 d.bytes)
    | _, _ => none
  else
    let w := cleanSlot w 70 4
    let w := if f ≤ 5 then cleanSlot w 48 4 else w
    let w := if f = 3 then cleanSlot w 26 4 else w
    some (cleanSlot w 4 4)

/-- QUANT and DEQUANT (R97). The codes of a DEQUANT may lie in the accumulator: Table 4.9 restricts QUANT's source and destination, and
DEQUANT's destination, alone. They then lie packed by bytes from the start of the row (DESIGN CHOICE [log 72]). -/
def cleanQd (descs : List Nat) (w : Nat) : Option Nat := do
  let q := fld w 111 8
  if q = 0 then none else
  let d ← cleanQuant (descAt descs q)
  let f ← fmt3 (fld d 0 3)
  if iClass w = kQuant then
    if fld w 109 2 = 3 || (bitAt w 82 && fld w 109 2 == 2) then none
    else storeSlot (cleanSlot w 61 (if fld w 109 2 = 2 then 2 else 4)) 39 f.bytes
  else
    if iFunc w = 1 && bitAt w 60 then none
    else some (cleanSlot (cleanSlot w 61 f.bytes) 39 (if iFunc w = 1 then 2 else 4))

/-- ATTN (R98). Buffers and records keep every offset bit; their elements have no one size. -/
def cleanAttn (descs : List Nat) (w : Nat) : Option Nat := do
  match iFunc w with
  | 0 =>
    let q := fld w 111 8
    let d ← if q = 0 then some 6 else cleanQuant (descAt descs q)
    let f ← fmt3 (fld d 0 3)
    some (cleanSlot (cleanSlot (cleanSlot w 61 f.bytes) 39 1) 17 4)
  | 1 => some (cleanSlot (cleanSlot (setFld w 111 8 0) 61 4) 17 1)
  | _ => storeSlot (cleanSlot (cleanSlot (setFld w 111 8 0) 61 1) 39 1) 17 1

/-- The word with the replacements of its class made; none where the load fails (R77). The elements of a CONFLUENCE's slots are FP32 for
SUM, and the 4 B fields of a SAMPLE record for ARGMAX, as SAMPLE's own D slot has them; the other functions move bytes, or records
of no one element size (R86, R108; DEDUCED [log 71]). -/
def cleanWord (descs : List Nat) (w : Nat) : Option Nat := do
  let c := iClass w
  if funcsOf c ≤ iFunc w then none else
  if (namesOf w).any (fun x => descs.length < x.1) then none else
  let w := keepFields w ((if canAuto c then [(119, 1)] else []) ++ fieldsOf c)
  match c with
  | 1 => let w := cleanSlot w 95 16
         some (if iFunc w = 1 then w else setFld w 55 4 0)
  | 2 => cleanMatmul descs w
  | 3 => cleanVec w
  | 4 => if bitAt w 118 && iFunc w == 1 then none else some (cleanSlot (cleanSlot w 70 4) 4 4)
  | 5 => cleanQd descs w
  | 6 => cleanQd descs w
  | 7 => cleanAttn descs w
  | 8 => storeSlot w 54 1
  | 9 => do
    let esz := if iFunc w = 2 || iFunc w = 4 then 4 else 1
    let w ← storeSlot w 74 esz
    let w ← storeSlot w 52 esz
    some (if iFunc w = 4 then setFld w 96 16 0 else w)
  | 10 =>
    let w := cleanSlot w 57 4
    storeSlot (if iFunc w = 1 then cleanSlot w 35 4 else w) 13 4
  | 13 => some (if fld w 103 16 = 0 then setFld w 103 16 1 else w)
  | _ => some w

/-- The marks a decoded word shows: bit 0 N, bit 1 T, bit 2 L (R74). -/
def marksOf (w : Nat) : Nat :=
  match iClass w with
  | 1 => match iFunc w with | 0 => 2 | 2 => 1 | _ => 0
  | 2 => if bitAt w 10 then 2 else 0
  | 7 => if bitAt w 110 then 4 else 0
  | 8 => 6
  | 9 => if (iFunc w == 2 || iFunc w == 3) && bitAt w 118 then 3 else 2
  | 10 => if bitAt w 118 then 3 else 0
  | _ => 0

-- ## The load's view of a program (R76, R77, R105)

/-- Walks the words, holding the enclosing loops' end indices and whether a stride of theirs has low bits; answers the indices
of MOVE words whose strides R106 clears. Bits [3:0] of SA and SB are cleared for MOVE alone, so the word that counts as clamped is each
stepped MOVE inside the loop, and not the LOOP, whose strides other classes use whole (DESIGN CHOICE [log 71]). -/
def loopWalk (n : Nat) (streamed : Bool) (i : Nat) (open' : List (Nat × Bool)) : List Nat → Option (List Nat)
  | [] => some []
  | w :: ws => do
    let open' := open'.filter fun x => i < x.1
    let hit := iClass w == kMove && iAuto w && open'.any (·.2)
    let next ←
      if iClass w = kLoop then
        let fin := i + 1 + fld w 90 13 + 1
        if n < fin || open'.any (fun x => x.1 < fin) || 4 ≤ open'.length
          || (streamed && (i + 1) / 2048 != (fin - 1) / 2048) then none
        else some ((fin, fld w 66 4 != 0 || fld w 42 4 != 0) :: open')
      else some open'
    let rest ← loopWalk n streamed (i + 1) next ws
    some (if hit then i :: rest else rest)

/-- The descriptor words that some field names, after the replacements of their kind; none on a kind conflict or a reserved
format. The indices answered are those of changed words. -/
def descWalk (descs : List Nat) (ws : List Nat) : Option (List Nat) :=
  let names := ws.flatMap fun w => (namesOf w).map fun x => (x.1, x.2, fld w 57 16 + 1)
  if names.any (fun x => names.any fun y => x.1 == y.1 && x.2.1 != y.2.1) then none else
    names.foldlM (init := []) fun acc x =>
      let d := descAt descs x.1
      let c := match x.2.1 with
        | .quant => cleanQuant d
        | .pattern => some (cleanPattern d)
        | .append => some (cleanAppend d x.2.2)
      match c with
      | none => none
      | some c => some (if c = d || acc.contains (x.1 - 1) then acc else (x.1 - 1) :: acc)

/-- What the load learns of a program: its FLAGS, how many words were changed and the first of them. -/
structure Checked where
  flags : Nat
  clamped : Nat
  first : Option Nat
  deriving DecidableEq, Repr

/-- The decode of every word (R77): none where it fails with BAD_HANDLE. -/
def checkProgram (descs words : List Nat) : Option Checked := do
  let clean ← words.mapM (cleanWord descs)
  let streamed := decide (8192 < descs.length + words.length)
  let dchg ← descWalk descs clean
  let moves ← loopWalk words.length streamed 0 [] clean
  let ichg := ((words.zip clean).zipIdx).filterMap fun x => if x.1.1 = x.1.2 && !moves.contains x.2 then none else some x.2
  let all := dchg ++ ichg.map (· + descs.length)
  some { flags := (clean.map marksOf).foldl (· ||| ·) 0, clamped := all.length, first := all.min? }

-- ## Address stepping (R106)

/-- A stride of a loop for a class: MOVE's have bits [3:0] cleared. -/
def strideFor (cls : Nat) (s : BitVec 24) : Int :=
  let v := s.toInt
  if cls = kMove then v / 16 * 16 else v

/-- One field after stepping. -/
def stepField (w : Nat) (f : Option (Nat × Nat)) (sum : Int) : Nat :=
  match f with
  | none => w
  | some (lo, n) => setFld w lo n ((((fld w lo n : Nat) : Int) + sum) % 2 ^ n).toNat

/-- The word after stepping, given each enclosing loop's iteration index and strides. An offset that gains bits below its element size
keeps them, and the access is made there (DESIGN CHOICE [log 71]: R106 steps the decoded field and clears nothing after it). -/
def stepWord (w : Nat) (loops : List (Nat × BitVec 24 × BitVec 24 × BitVec 24)) : Nat :=
  if !iAuto w then w else
    let c := iClass w
    let (fa, fb, fd) := steppedOf c
    let sum (pick : BitVec 24 × BitVec 24 × BitVec 24 → BitVec 24) : Int :=
      loops.foldl (fun acc l => acc + (l.1 : Int) * strideFor c (pick l.2)) 0
    stepField (stepField (stepField w fa (sum (·.1))) fb (sum (·.2.1))) fd (sum (·.2.2))

end Sys2Proof.Machine
end

