-- ==== Sys2Proof/Machine/State.lean ====
section
/-! DEFINITION. The state of the block as plain data, and its value after reset. Each field's comment gives its width, the
rule of spec/ that names it and its reset value; a mark with a log number says where the model chose that value. -/
namespace Sys2Proof.Machine

/-- Why a command stops the block. No command raises one: every access the spec calls illegal has an answer in the spec. -/
inductive Fault where
  /-- Raised by nothing; kept so that the type has a value. Safe. -/
  | none
  deriving DecidableEq, Repr

/-- Why a command has no meaning. -/
inductive Refusal where
  /-- Raised by an arm of `exec` that has no meaning yet. Safe. -/
  | notModelled (mnemonic : String)
  deriving DecidableEq, Repr

-- ## Edges

/-- How far a UCIe module has come (R25, R206). -/
inductive Link where
  | down | training | retraining | up32 | up16
  deriving DecidableEq, Repr

/-- Pins, straps and the always-on edge logic. -/
structure Edge where
  /-- 1; 01_block_edges R18; true (VDD_AON is in range) -/
  aonUp : Bool := true
  /-- 1; 01_block_edges R7; false (PORST_N low) -/
  porst : Bool := false
  /-- 1; 01_block_edges R7; false (READY driven low) -/
  ready : Bool := false
  /-- 1; 01_block_edges R7; false (FAULT_N released) -/
  faultLow : Bool := false
  /-- 1; 01_block_edges R18, 18_containment R434; false (the device is not stopped by a FATAL error) -/
  stopped : Bool := false
  /-- 1; 01_block_edges R22; false (REG_ALERT_N high) -/
  regAlertLow : Bool := false
  /-- 1; 01_block_edges R30; false (no trip since every reading was below 100 °C) -/
  thermHot : Bool := false
  /-- 1; 01_block_edges R22; false (the ignore period still runs) -/
  ignoreOver : Bool := false
  /-- 1; 01_block_edges R13; false (the strap window has not started) -/
  strapWindow : Bool := false
  /-- count; 01_block_edges R10; 0 (groups of strap samples taken) -/
  strapGroups : Nat := 0
  /-- 1; 01_block_edges R10; false (no straps latched since PORST_N fell) -/
  strapsLatched : Bool := false
  /-- 2; 01_block_edges R14; latched at boot: DESIGN CHOICE 0 [log 2] -/
  bootsel : BitVec 2 := 0
  /-- 3; 01_block_edges R14; latched at boot: DESIGN CHOICE 0 [log 2] -/
  addrSel : BitVec 3 := 0
  /-- 1; 01_block_edges R14; latched at boot: DESIGN CHOICE 0 [log 2] -/
  golden : Bool := false
  /-- 1; 01_block_edges R14; 0 (GLB_STRAP.UNSTABLE) -/
  unstable : Bool := false
  /-- 1; 01_block_edges R31; 0 (GLB_EDGE_STATUS.REFCLK_OK) -/
  refclkOk : Bool := false
  /-- 1; 01_block_edges R31; 0 (GLB_EDGE_STATUS.PAN_SUPPLY_GOOD) -/
  panSupplyGood : Bool := false
  /-- 1; 01_block_edges R31; 0 (GLB_EDGE_STATUS.XSPI_OCTAL) -/
  xspiOctal : Bool := false
  /-- 6; 01_block_edges R31; 0 (GLB_EDGE_STATUS.LP_PORT) -/
  lpPort : BitVec 6 := 0
  /-- 1; 01_block_edges R31; 0 (GLB_EDGE_STATUS.THERM_SHUTDOWN, survives PORST_N) -/
  thermShutdown : Bool := false
  /-- 1; 01_block_edges R31; 0 (GLB_EDGE_STATUS.THERM_TRIP) -/
  thermTrip : Bool := false
  /-- 1; 01_block_edges R31; 0 (GLB_EDGE_STATUS.REG_ALERT_SEEN) -/
  regAlertSeen : Bool := false
  /-- enum; 01_block_edges R25; down (GLB_EDGE_STATUS.UCIE0_UP and UCIE0_16GT read 0) -/
  ucie0 : Link := .down
  /-- enum; 01_block_edges R25; down (GLB_EDGE_STATUS.UCIE1_UP and UCIE1_16GT read 0) -/
  ucie1 : Link := .down
  /-- 1; 01_block_edges R7; false (the XSPI outputs stand at the reset levels of Table 1.1: no ROM has taken them over) -/
  xspiDriven : Bool := false
  /-- 6; 01_block_edges R7; 0 (the outputs of every LPDDR5X port inactive, reset to its memory asserted) -/
  lpDriven : BitVec 6 := 0
  /-- 1; 01_block_edges R30; false (no shutdown at 125 °C holds every domain but the always-on one gated) -/
  dark : Bool := false
  deriving DecidableEq, Repr

/-- The always-on I3C target (R421, R450 to R455). -/
structure I3c where
  /-- 1; 17_first_second R421; false (ADDR_SEL not sampled since VDD_AON rose) -/
  sampled : Bool := false
  /-- count; 17_first_second R421; 0 (groups of samples taken) -/
  groups : Nat := 0
  /-- 3; 17_first_second R421; sampled after VDD_AON rises: DESIGN CHOICE 0 [log 2] -/
  addrSel : BitVec 3 := 0
  /-- 7 and a valid bit; 19_operator_access R450; none (no dynamic address) -/
  dynAddr : Option (BitVec 7) := none
  /-- 1; 19_operator_access R452; false (the target runs on the AON oscillator until REFCLK is seen): DEDUCED [log 3] -/
  onRefclk : Bool := false
  /-- bytes; 19_operator_access R454; 0x02, the status a read before any write returns -/
  response : List Byte := [0x02#8]
  /-- bytes; 19_operator_access R453; none (what the target last put on the bus) -/
  answer : List Byte := []
  /-- 1; 17_first_second R423; false (transition-hold latch clear) -/
  holdLatch : Bool := false
  deriving DecidableEq, Repr

/-- The TAP's instruction (R459). -/
inductive TapInstr where
  | idcode | extest | samplePreload | highz | clamp | dbg | bypass
  deriving DecidableEq, Repr

/-- Who holds a debug session or a halt (R456, R461). -/
inductive Session where
  | jtag
  | query (ini : Ini)
  deriving DecidableEq, Repr

/-- The TAP and operator debug (R456 to R464). -/
structure Dbg where
  /-- enum; 19_operator_access R459; IDCODE (selected at Test-Logic-Reset) -/
  tap : TapInstr := .idcode
  /-- 32; 19_operator_access R459; 0x24E6_49AF (the register IDCODE shifts out) -/
  shiftOut : Word := 0x24E649AF
  /-- pins; 19_operator_access R459; DESIGN CHOICE 0 [log 2] (boundary register) -/
  boundary : DWord := 0
  /-- 112; 19_operator_access R460; DESIGN CHOICE 0 [log 2] (what Capture-DR of the DBG register loads) -/
  result : BitVec 112 := 0
  /-- list; 19_operator_access R456; none open (GLB_DEBUG_STATUS.JTAG_OPEN and QUERY_OPEN read 0) -/
  sessions : List Session := []
  /-- 16; 19_operator_access R464; 0 (GLB_DEBUG_STATUS.REFUSED) -/
  refused : BitVec 16 := 0
  /-- 8; 19_operator_access R464; 0 (GLB_DEBUG_STATUS.SESSIONS) -/
  begun : BitVec 8 := 0
  /-- list; 19_operator_access R456, 16_attestation R402; none (sessions whose MR4 extend waits) -/
  toExtend : List Session := []
  /-- list; 19_operator_access R456, 17_first_second R431; none (sessions whose DEBUG tally event waits) -/
  toTally : List Session := []
  deriving DecidableEq, Repr

-- ## Configuration

/-- The definition and partition-scope registers of one partition (Tables 9.6 to 9.10, 10.6, 11.8, 6.4, 6.5). -/
structure PartCfg where
  /-- 32; 09_partitions R243; 0 (PRT_DEF) -/
  pdef : Word := 0
  /-- 64; 09_partitions R243; 0 (PRT_PANS) -/
  pans : DWord := 0
  /-- 32; 09_partitions R243; 0 (PRT_QUEUES) -/
  queues : Word := 0
  /-- 32; 09_partitions R243; 0 (PRT_RACE) -/
  race : Word := 0
  /-- 8 of 32; 09_partitions R243; 0 each (PRT_VSHAREv) -/
  vshare : Tab Word := []
  /-- 4 of 64; 09_partitions R243; 0 each (PRT_LPRn) -/
  lpr : Tab DWord := []
  /-- 32; 10_determinism R266; 0 (PRT_DET) -/
  det : Word := 0
  /-- 32; 11_power_clocks R301; 0x040 (PRT_PWR) -/
  pwr : Word := 0x40
  /-- 32; 06_attention_kv R151; 0 (PRT_KV_CFG) -/
  kvCfg : Word := 0
  /-- 16 of 64; 06_attention_kv R151; 0 each (PRT_KV_EXTn) -/
  kvExt : Tab DWord := []
  deriving DecidableEq, Repr

/-- The fields of a client context (Table 8.3). -/
structure CtxCfg where
  /-- 40 in 64; 08_decot_queues_tally R207; 0 (RING_BASE) -/
  ringBase : DWord := 0
  /-- 40 in 64; 08_decot_queues_tally R207; 0 (CPL_BASE) -/
  cplBase : DWord := 0
  /-- 16; 08_decot_queues_tally R207; 0 (DEPTH) -/
  depth : BitVec 16 := 0
  /-- 8; 08_decot_queues_tally R207; 0 (WEIGHT) -/
  weight : Byte := 0
  /-- 1; 08_decot_queues_tally R207; 0 (ENABLE) -/
  enable : Bool := false
  deriving DecidableEq, Repr

/-- Every RWS register of the device: once as committed values, once as shadows (R5, R247). -/
structure DevCfg where
  /-- 16 blocks; 09_partitions R241; reset block each -/
  parts : Tab PartCfg := []
  /-- 4,096 contexts; 08_decot_queues_tally R207; reset context each -/
  ctxs : Tab CtxCfg := []
  /-- 64 of 64; 09_partitions R245; 0 each (GLB_INIT_BINDi) -/
  binds : Tab DWord := []
  /-- 4 of 64; 09_partitions R250, 07_race_lane R186; 0 each (GLB_RACE_ASSIGNs.ALLOW, RACE_ALLOW) -/
  raceAllow : Tab DWord := []
  /-- 4 of 32; 09_partitions R250, 07_race_lane R186; 0 each (GLB_RACE_ASSIGNs.PAN, RACE_BIND.PAN) -/
  racePan : Tab Word := []
  /-- 4 of 32; 07_race_lane R185; 0 each (RACE_CFG) -/
  raceCfg : Tab Word := []
  /-- 32; 11_power_clocks R299; 0x0000_08F0 (GLB_PWR_CFG: GAIN 0x8, CAP 0xF0) -/
  pwrCfg : Word := 0x8F0
  /-- 32; 11_power_clocks R299; 0x7777_7777 (GLB_OP_CEIL) -/
  opCeil : Word := 0x77777777
  deriving DecidableEq, Repr

/-- A commit that has been asked for and has not taken full effect (R248, R249, R251). -/
structure Commit where
  /-- Device scope, else the scope of `part`. -/
  device : Bool
  /-- The partition it was asked for, or the issuing command's partition. -/
  part : Nat
  ini : Ini
  /-- The tally sequence number of the COMMIT command; none for a direct commit. -/
  seq : Option DWord
  /-- The shadows have been copied. -/
  started : Bool := false
  /-- The values that take effect, after the clamps. -/
  target : DevCfg := {}
  /-- Commands accepted from this sequence number on wait for it (R248). -/
  below : DWord := 0
  /-- Partitions whose epoch boundary is still to come. -/
  waiting : List Nat := []
  /-- Partitions whose teardown is not finished, in ascending order. -/
  tearing : List Nat := []
  /-- Slots that it arms or disarms and that have not done so. -/
  slots : List Nat := []
  /-- The clamp bits of each affected partition. -/
  clamps : Tab (BitVec 16) := []
  /-- The status of the COMMIT so far. -/
  status : Byte := 0
  deriving DecidableEq, Repr

-- ## Partitions

/-- What LOAD_PROGRAM keeps with a program handle (R74, R77, Table 8.11). -/
structure ProgInfo where
  nInstr : Nat := 0
  nDesc : Nat := 0
  flags : BitVec 8 := 0
  pansMin : Nat := 1
  pansMax : Nat := 1
  staticCycles : Word := 0
  clampedWords : Nat := 0
  firstClamped : Option Nat := none
  deriving DecidableEq, Repr

/-- A sealed region with its handle's record (R133, R406). -/
structure Region where
  /-- The handle is in use. -/
  used : Bool := false
  base : Nat := 0
  len : Nat := 0
  plen : DWord := 0
  loadSeq : DWord := 0
  /-- The copy has ended (R133 step 6). -/
  closed : Bool := false
  digest : List Byte := []
  /-- 0 MEASURED, 1 RETAINED, 2 REMEASURED, 3 MISMATCH (Table 16.4). -/
  status : BitVec 2 := 0
  prog : ProgInfo := {}
  deriving DecidableEq, Repr

/-- What a partition holds beside its configuration. -/
structure Part where
  /-- 1; 09_partitions R251; 0 (PRT_STATE.TEARDOWN; IN_SERVICE is PRT_DEF bit 31 without it, R241) -/
  teardown : Bool := false
  /-- 32; 09_partitions R247; 0 (PRT_EPOCH) -/
  epoch : Word := 0
  /-- 32; 08_decot_queues_tally R239; 0 (PRT_BACKLOG_PEAK) -/
  backlogPeak : Word := 0
  /-- 32; 09_partitions R254; 0 (PRT_CONF_LAST) -/
  confLast : Word := 0
  /-- 32; 09_partitions R254; 0 (PRT_CONF_MAX) -/
  confMax : Word := 0
  /-- 32; 09_partitions R254; 0 (PRT_CONF_COUNT) -/
  confCount : Word := 0
  /-- 32; 06_attention_kv R154; 0 (PRT_KV_FULL) -/
  kvFull : Word := 0
  /-- 32; 06_attention_kv R154; 0 (PRT_KV_TRUNC) -/
  kvTrunc : Word := 0
  /-- 32; 06_attention_kv R154; 0 (PRT_KV_REFUSED) -/
  kvRefused : Word := 0
  /-- ring of 16-bit pages; 06_attention_kv R153; empty (the pool has no page) -/
  freeList : List Nat := []
  /-- 16; 06_attention_kv R153; 0 (entry of the ring where the next released page goes) -/
  freeTail : Nat := 0
  /-- 64; 10_determinism R257; 0 (PRT_SEED) -/
  seed : DWord := 0
  /-- 64; 10_determinism R257; 0 (PRT_STEP) -/
  stepCount : DWord := 0
  /-- 32; 10_determinism R270; 0 (PRT_DET_LAST) -/
  detLast : Word := 0
  /-- 32; 10_determinism R270; 0 (PRT_DET_CYCLES) -/
  detCycles : Word := 0
  /-- 64; 10_determinism R270; 0 (PRT_DET_SEQ) -/
  detSeq : DWord := 0
  /-- 32; 11_power_clocks R301; 0 (PRT_PWR_LAST) -/
  pwrLast : Word := 0
  /-- 32; 11_power_clocks R301; 0 (PRT_SLUICE) -/
  sluice : Word := 0
  /-- 256 handles; 05_memory_vaults R133; none loaded (programs) -/
  progs : Tab Region := []
  /-- 256 handles; 05_memory_vaults R133; none loaded (weights) -/
  wgts : Tab Region := []
  /-- SEQ and STATUS; 16_attestation R414; none (latest CLEARED event) -/
  lastCleared : Option (DWord × Byte) := none
  /-- 12; 08_decot_queues_tally R229; DESIGN CHOICE 4,095 [log 4] (the queue served last: the first round starts at queue 0) -/
  lastQueue : Nat := 4095
  deriving DecidableEq, Repr

/-- The counters of a client context and its change in waiting (R207 to R212). -/
structure Ctx where
  /-- Table 8.3; 08_decot_queues_tally R209; reset context (the fields in force) -/
  live : CtxCfg := {}
  /-- 32; 08_decot_queues_tally R208; 0 (TAIL) -/
  tail : Word := 0
  /-- 32; 08_decot_queues_tally R208; 0 (HEAD) -/
  head : Word := 0
  /-- 32; 08_decot_queues_tally R208; 0 (CTAIL) -/
  ctail : Word := 0
  /-- 32; 08_decot_queues_tally R208; 0 (CHEAD) -/
  chead : Word := 0
  /-- 1; 08_decot_queues_tally R212; false (DOORBELL clamp for the next command accepted) -/
  bellClamp : Bool := false
  /-- list; 08_decot_queues_tally R232; empty (who announced how many of the commands not yet accepted) -/
  announced : List (Nat × Ini) := []
  /-- 64; 08_decot_queues_tally R223; DESIGN CHOICE 0 [log 2] (sequence number of the last command accepted) -/
  lastSeq : DWord := 0
  deriving DecidableEq, Repr

/-- A sequence handle (R144, R146). -/
structure Seq where
  /-- 1; 06_attention_kv R144; false (unbound) -/
  bound : Bool := false
  /-- 4; 06_attention_kv R144; 0 -/
  part : Nat := 0
  /-- 8; 06_attention_kv R146; 0 (NH) -/
  nh : Nat := 0
  /-- 8; 06_attention_kv R146; 0 (HD) -/
  hd : Nat := 0
  /-- 7; 06_attention_kv R146; 0 (PS) -/
  ps : Nat := 0
  /-- 3; 06_attention_kv R146; 0 (PFMT) -/
  pfmt : BitVec 3 := 0
  /-- 1; 06_attention_kv R146; 0 (SFMT) -/
  sfmt : Bool := false
  /-- 18; 06_attention_kv R146; 0 (MAXLEN) -/
  maxlen : Nat := 0
  /-- 40; 06_attention_kv R146; 0 (TABLE) -/
  table : Nat := 0
  deriving DecidableEq, Repr

-- ## Commands in flight

/-- One command's view of a head stream (R145). -/
structure KvUse where
  handle : Nat
  stream : Nat
  /-- The committed length sampled at the command's first use. -/
  base : Nat
  /-- One more than the highest position offset appended, 0 before any append. -/
  added : Nat
  /-- The command holds the stream (OWNED). -/
  owned : Bool
  deriving DecidableEq, Repr

/-- A command that has been accepted and has no completion entry yet (R227 to R230). -/
structure Cmd where
  seq : DWord
  queue : Nat
  part : Nat
  ini : Ini
  /-- Command index (RING_IDX). -/
  idx : Word
  /-- The 64 bytes read from the ring. -/
  bytes : List Byte
  /-- 0, or the status it completes with since its ring slot could not be read: POISON or FENCED (R436, R442). -/
  bad : Byte := 0
  clamp : BitVec 16 := 0
  started : Bool := false
  /-- RUN_PROGRAM: its pan set in ascending index; rank r is element r. -/
  pans : List Nat := []
  /-- RUN_PROGRAM: the pans whose part has ended, with their final step offsets. -/
  ended : List (Nat × DWord) := []
  /-- RUN_PROGRAM: pans waiting at the present confluence, in order of arrival. -/
  arrived : List Nat := []
  stepBase : DWord := 0
  kv : List KvUse := []
  /-- The command runs time-locked and no cause has ended the lock (R267, R268). -/
  locked : Bool := false
  /-- It was time-locked at its start; the first cause of Table 10.8. -/
  wasLocked : Bool := false
  cause : BitVec 4 := 0
  /-- The status it completes with once its outstanding work ends. -/
  status : Byte := 0
  /-- LOADs, CLEAR_REGION and COMMIT: checks passed, the work goes on. -/
  working : Bool := false
  deriving DecidableEq, Repr

-- ## Pans

/-- One enclosing loop of the instruction at the program counter (R104, R106). -/
structure LoopFrame where
  start : Nat
  body : Nat
  count : Nat
  iter : Nat
  sa : BitVec 24
  sb : BitVec 24
  sd : BitVec 24
  deriving DecidableEq, Repr

/-- A pan's arrival at a confluence (R107, Table 4.15). -/
structure Arrival where
  func : BitVec 4
  order : Bool
  root : BitVec 6
  /-- Contribution in 16 B units. -/
  units : Nat
  s : Nat
  d : Nat
  deriving DecidableEq, Repr

/-- The append that a KVAPP MATMUL hands to the append path (R155, R161). -/
structure AppendJob where
  desc : QWord
  rows : Nat
  cols : Nat
  drow : Nat
  /-- The accumulator holds INT32 (an unscaled integer MATMUL). -/
  isInt : Bool
  deriving DecidableEq, Repr

/-- What a pan runs. -/
structure PanRun where
  /-- Tally sequence number of the RUN_PROGRAM; not used by a race request. -/
  seq : DWord
  race : Bool
  slot : Nat
  part : Nat
  rank : Nat
  size : Nat
  seqBase : Nat
  deriving DecidableEq, Repr

/-- What PAN_STATUS.STATE shows apart from a halt (Table 2.8). -/
inductive PanState where
  | idle | run | atConfluence | clearing
  deriving DecidableEq, Repr

/-- One pan. -/
structure Pan where
  /-- 1; 02_pans_and_cells R53; 0 (PAN_STATUS.BUNDED) -/
  bunded : Bool := false
  /-- 3; 02_pans_and_cells R53; IDLE (PAN_STATUS.STATE) -/
  st : PanState := .idle
  /-- list; 19_operator_access R461; none (halt holds) -/
  holds : List Session := []
  /-- 64; 02_pans_and_cells R54; 0 (PAN_CYCLE) -/
  cycles : DWord := 0
  /-- 5; 02_pans_and_cells R55; 0 (PAN_ARITH) -/
  arith : BitVec 5 := 0
  /-- partition, handle and load; 04_pan_programs R79, R82; none held (PAN_PROG.HELD 0) -/
  held : Option (Nat × Nat × DWord) := none
  /-- 1; 04_pan_programs R82; 0 (PAN_PROG.STREAMED) -/
  streamed : Bool := false
  /-- 8; 04_pan_programs R82; 0 (descriptor words of the program held) -/
  nDesc : Nat := 0
  /-- 17; 04_pan_programs R82; 0 (instruction words of the program held) -/
  nInstr : Nat := 0
  /-- 16; 04_pan_programs R82; 0 (PAN_PROG.PC) -/
  pc : Nat := 0
  /-- up to 4; 04_pan_programs R104, R82; empty (PAN_PROG.LOOP_DEPTH 0) -/
  loops : List LoopFrame := []
  /-- list; 04_pan_programs R80; none (blocks of a streamed program in the two buffers) -/
  blocks : List Nat := []
  /-- 64; 04_pan_programs R81, R102; 0 (step offset) -/
  stepOff : DWord := 0
  /-- 17; 04_pan_programs R81, R99; 0 (gather count) -/
  gcount : Nat := 0
  /-- record; 08_decot_queues_tally R219; none (the pan is idle) -/
  run : Option PanRun := none
  /-- record; 04_pan_programs R107; none (not at a confluence) -/
  arrival : Option Arrival := none
  /-- record; 06_attention_kv R161; none (no append pending) -/
  append : Option AppendJob := none
  /-- 1; 11_power_clocks R275; false (its clock is not gated): DESIGN CHOICE [log 5] -/
  gated : Bool := false
  /-- 9; 11_power_clocks R294; DESIGN CHOICE 0 [log 2] (bubble fraction in 1/256 units) -/
  frac : BitVec 9 := 0
  /-- 16; 11_power_clocks R294; DESIGN CHOICE 0 [log 2] (bubble accumulator) -/
  sluiceAcc : BitVec 16 := 0
  /-- 1; 19_operator_access R465; 0 (PAN_PROF_CTRL.FREEZE) -/
  freeze : Bool := false
  /-- 64; 19_operator_access R465; 0 (PAN_PROF_ISSUE) -/
  profIssue : DWord := 0
  /-- 64; 19_operator_access R465; 0 (PAN_PROF_CELL) -/
  profCell : DWord := 0
  /-- 64; 19_operator_access R465; 0 (PAN_PROF_VEC) -/
  profVec : DWord := 0
  /-- 64; 19_operator_access R465; 0 (PAN_PROF_MOVE) -/
  profMove : DWord := 0
  /-- 64; 19_operator_access R465; 0 (PAN_PROF_GATED) -/
  profGated : DWord := 0
  /-- 64; 19_operator_access R465; 0 (PAN_PROF_BUBBLE) -/
  profBubble : DWord := 0
  deriving DecidableEq, Repr

-- ## Race lane

/-- RACE_STATUS.STATE (Table 7.4), but for UNASSIGNED, which is read from the assignment. -/
inductive SlotState where
  | disarmed | arming | armed | busy | failed
  deriving DecidableEq, Repr

/-- One race slot (Tables 7.1 to 7.5). -/
structure Slot where
  /-- 3; 07_race_lane R182; DISARMED (RACE_STATUS.STATE) -/
  st : SlotState := .disarmed
  /-- 4 KiB; 07_race_lane R177; DESIGN CHOICE 0 [log 2] (IN) -/
  inBuf : List Host.Cell := []
  /-- 256 B; 07_race_lane R178; DESIGN CHOICE 0 [log 2] (OUT front buffer) -/
  outFront : List Host.Cell := []
  /-- 256 B; 07_race_lane R178; DESIGN CHOICE 0 [log 2] (OUT back buffer) -/
  outBack : List Host.Cell := []
  /-- 16; 07_race_lane R181; 0 (RACE_SEQ.TAG) -/
  tag : BitVec 16 := 0
  /-- 48; 07_race_lane R181; 0 (RACE_SEQ.COUNT) -/
  count : BitVec 48 := 0
  /-- 16; 07_race_lane R193; 0 (TAG of the request in progress) -/
  newTag : BitVec 16 := 0
  /-- 1; 07_race_lane R182; 0 (LATE_EVER) -/
  lateEver : Bool := false
  /-- 4; 07_race_lane R182; 0 (ARM_ERR) -/
  armErr : BitVec 4 := 0
  /-- 3; 07_race_lane R182; 0 (CAUSE_DEBUG, CAUSE_STRETCH, CAUSE_SPILLWAY) -/
  causes : BitVec 3 := 0
  /-- 3; 07_race_lane R195; 0 (the causes met so far by the request in progress) -/
  met : BitVec 3 := 0
  /-- 1; 07_race_lane R182; 0 (LATE) -/
  late : Bool := false
  /-- 4; 07_race_lane R182; 0 (RESULT) -/
  result : BitVec 4 := 0
  /-- 32; 07_race_lane R183; 0 (RACE_TIME) -/
  time : Word := 0
  /-- 8; 07_race_lane R184; 0 (RACE_DROPS.INPUT) -/
  dropInput : Byte := 0
  /-- 8; 07_race_lane R184; 0 (RACE_DROPS.BUSY) -/
  dropBusy : Byte := 0
  /-- 8; 07_race_lane R184; 0 (RACE_DROPS.DENIED) -/
  dropDenied : Byte := 0
  /-- 8; 07_race_lane R184; 0 (RACE_DROPS.UNARMED) -/
  dropUnarmed : Byte := 0
  /-- pan cycles; 07_race_lane R189; 0 (the static count S of the armed program) -/
  staticCount : Nat := 0
  /-- 1; 07_race_lane R192; false (a disarm waits for the request in progress) -/
  disarm : Bool := false
  /-- 1; 07_race_lane R192; false (the disarm is followed by an arming with new handles) -/
  rearm : Bool := false
  /-- 6; 07_race_lane R192; 0 (the pan whose memories a waiting disarm clears) -/
  clearPan : Nat := 0
  /-- 1; 07_race_lane R193; false (the program of the request has ended) -/
  ended : Bool := false
  deriving DecidableEq, Repr

-- ## Memory side

/-- One initiator's latch for split reads of 64-bit registers (R4). -/
structure Latch where
  /-- The register held, by the control-region offset of its low word. -/
  reg : Option Nat := none
  high : Word := 0
  deriving DecidableEq, Repr

/-- What the clear engine has to do (R136, R137). -/
structure ClearJob where
  /-- A partition clear; otherwise the CLEAR_REGION with sequence number `seq`. -/
  whole : Bool
  part : Nat
  seq : DWord
  /-- Base and length of each range. -/
  ranges : List (Nat × Nat)
  pans : DWord
  /-- A partition clear: the race slots of the partition that is torn down. -/
  slots : List Nat := []
  deriving DecidableEq, Repr

/-- The clear engine and the memory registers (R141 to R143). -/
structure MemSys where
  /-- 32; 05_memory_vaults R141; 0 (GLB_MEM_CFG) -/
  memCfg : Word := 0
  /-- 1; 05_memory_vaults R142; 0 (GLB_CLEAR_STATUS.SAMPLE_FAIL) -/
  sampleFail : Bool := false
  /-- 1; 05_memory_vaults R142; 0 (GLB_CLEAR_STATUS.SAMPLE_RETRY) -/
  sampleRetry : Bool := false
  /-- 32; 05_memory_vaults R143; 0 (GLB_MEM_UNMAPPED) -/
  unmapped : Word := 0
  /-- 32; 05_memory_vaults R143; 0 (GLB_SEALED_WRITE) -/
  sealedWrite : Word := 0
  /-- list; 05_memory_vaults R137; empty (clears waiting or running) -/
  clears : List ClearJob := []
  /-- 8 x 16 of 4 bits; 10_determinism R268; 0 each (refreshes postponed by channel 16v + c) -/
  postponed : Tab Nat := []
  /-- list; 18_containment R444; empty (withheld LPDDR5X ranges) -/
  withheld : List (Nat × Nat) := []
  /-- list; 12_saltern R303, 05_memory_vaults R116; empty (ranges of Saltern SRAM and of the reserve's working areas whose bytes some rule
  has fixed) -/
  known : List (Nat × Nat) := []
  deriving DecidableEq, Repr

-- ## Tally

/-- A tally entry (Table 8.15). -/
structure TEntry where
  seq : DWord
  ini : Ini
  part : Byte
  queue : BitVec 16
  opcode : Byte
  status : Byte
  clamp : BitVec 16
  step : Word
  ringIdx : Word
  pans : Byte
  panFirst : Byte
  flags : Byte
  deriving DecidableEq, Repr

/-- The tally and the checkpoints (R232 to R238). -/
structure Tally where
  /-- 1; 08_decot_queues_tally R233; false (entry 0 of this boot is not yet written) -/
  begun : Bool := false
  /-- 64; 08_decot_queues_tally R238; 0 (GLB_TALLY_HEAD) -/
  head : DWord := 0
  /-- entries of 32 B; 08_decot_queues_tally R234; empty, oldest first (GLB_TALLY_OLDEST reads the first) -/
  entries : List TEntry := []
  /-- list; 08_decot_queues_tally R222; empty (sequence number and partition of every command accepted) -/
  accepted : List (DWord × Nat) := []
  /-- 4; 08_decot_queues_tally R238; 0 (SPILL) -/
  spill : BitVec 4 := 0
  /-- 1; 08_decot_queues_tally R238; 0 (CKPT_EN) -/
  ckptEn : Bool := false
  /-- 4; 08_decot_queues_tally R237; 0 (k of CKPT_EVERY) -/
  ckptK : Nat := 0
  /-- 8; 08_decot_queues_tally R237; DESIGN CHOICE 1 [log 2] (CKPT_ERASE_BUDGET) -/
  budget : Nat := 1
  /-- count; 08_decot_queues_tally R237; 0 (entries since the last checkpoint record) -/
  since : Nat := 0
  /-- 16; 08_decot_queues_tally R238; 0 (CKPTS) -/
  ckpts : BitVec 16 := 0
  /-- 8; 08_decot_queues_tally R238; 0 (ERASES) -/
  erases : BitVec 8 := 0
  /-- 1; 08_decot_queues_tally R238; 0 (WORN) -/
  worn : Bool := false
  /-- 1; 08_decot_queues_tally R238; 0 (BUDGET_SPENT) -/
  budgetSpent : Bool := false
  /-- 10; 08_decot_queues_tally R237; DESIGN CHOICE 0 [log 2] (next free 4 KiB page of TALLY_CKPT) -/
  nextPage : Nat := 0
  /-- 64 of 32; 08_decot_queues_tally R237; DESIGN CHOICE 0 each [log 2] (lifetime erases of each sector) -/
  sectorErases : Tab Nat := []
  /-- 32; 08_decot_queues_tally R238; 0 (GLB_EARLY_DOORBELL) -/
  earlyBell : Word := 0
  /-- 32; 08_decot_queues_tally R238; 0 (GLB_DOORBELL_REFUSED) -/
  bellRefused : Word := 0
  /-- 4; 08_decot_queues_tally R229; DESIGN CHOICE 0 [log 4] (partition whose turn the round is at) -/
  roundPart : Nat := 0
  /-- 5; 08_decot_queues_tally R229; 0 (acceptances the partition has had in its turn) -/
  turnUsed : Nat := 0
  /-- 4; 08_decot_queues_tally R229; 0 (consecutive acceptances of the queue served last) -/
  queueUsed : Nat := 0
  deriving DecidableEq, Repr

-- ## Power

/-- GLB_PWR_STATE.STATE, with SLACK, which no register shows (Table 11.1, Table 11.6). -/
inductive SleepState where
  | awake | enteringDoze | enteringSlack | doze | slack | waking
  deriving DecidableEq, Repr

/-- One pan group's clock and supply (R282 to R288, R296). -/
structure Group where
  /-- 4; 11_power_clocks R300; 0x0 (OP) -/
  op : BitVec 4 := 0
  /-- 10; 11_power_clocks R300; 0 (VOLT) -/
  volt : BitVec 10 := 0
  /-- 8; 11_power_clocks R300; 0 (DROOP_COUNT) -/
  droops : BitVec 8 := 0
  /-- 1; 11_power_clocks R285; 0 (the detector is tripped) -/
  tripped : Bool := false
  /-- 1; 11_power_clocks R300; 0 (STRETCHING) -/
  stretching : Bool := false
  /-- 4 and a valid bit; 11_power_clocks R284; none (point an increase under way leads to) -/
  rising : Option (BitVec 4) := none
  /-- 1; 11_power_clocks R300; 0 (RISE_WAIT) -/
  riseWait : Bool := false
  /-- 1; 11_power_clocks R300; 0 (SPILL) -/
  spill : Bool := false
  /-- 1; 11_power_clocks R288; false (a climb after a release is still to begin) -/
  climbDue : Bool := false
  /-- 5, signed, 5 mV; 11_power_clocks R300; 0 (OFFSET) -/
  offset : Int := 0
  /-- count to 16; 11_power_clocks R282; 0 (cap windows in a row that allow boost) -/
  calm : Nat := 0
  /-- 1; 11_power_clocks R282; DESIGN CHOICE false [log 2] (the hottest sensor last read below 95 °C) -/
  cool : Bool := false
  /-- 8 and a valid bit; 11_power_clocks R297; none (smallest slack report since the last re-plan point) -/
  slackMin : Option Nat := none
  deriving DecidableEq, Repr

/-- Device power (R276, R290, R298, R299). -/
structure Power where
  /-- 3; 11_power_clocks R299; RUN (GLB_PWR_STATE.STATE; IDLE is read from the pans' clocks) -/
  sleep : SleepState := .awake
  /-- 4; 11_power_clocks R299; 0 (SLEEP_ERR) -/
  sleepErr : BitVec 4 := 0
  /-- 1; 11_power_clocks R280; false (a wake event is held) -/
  wakeHeld : Bool := false
  /-- 1; 11_power_clocks R299; 0 (TABLE_INVALID) -/
  tableInvalid : Bool := false
  /-- 1; 11_power_clocks R299; 0 (MARGIN) -/
  monitored : Bool := false
  /-- 1; 11_power_clocks R299; 0 (SPILLWAY) -/
  spillway : Bool := false
  /-- 32; 11_power_clocks R284; 0x0000_08F0 (GLB_PWR_CFG as in force since the last cap-window boundary) -/
  cfgNow : Word := 0x8F0
  /-- 32; 11_power_clocks R284; 0x7777_7777 (GLB_OP_CEIL as in force since the last cap-window boundary) -/
  ceilNow : Word := 0x77777777
  /-- 32; 11_power_clocks R299; 0 (GLB_POWER_LAST) -/
  last : Word := 0
  /-- 64; 11_power_clocks R298; 0 (GLB_ENERGY) -/
  energy : DWord := 0
  /-- pJ below 10^6; 11_power_clocks R298; 0 (the fraction of a microjoule carried forward) -/
  energyFrac : Nat := 0
  deriving DecidableEq, Repr

-- ## Saltern

/-- A key slot (Table 12.3). -/
structure KeySlot where
  /-- up to 512 bits; 12_saltern R304; EMPTY -/
  material : List Byte := []
  /-- 128; 12_saltern R304; 0 (TYPE EMPTY) -/
  attr : QWord := 0
  deriving DecidableEq, Repr

/-- GLB_SALTERN_STATUS.PHASE (Table 12.17). -/
inductive Phase where
  | rom | firmware | recovery | stopped | transition
  deriving DecidableEq, Repr

/-- Keys, locks, life cycle and tamper (R304 to R329). -/
structure Saltern where
  /-- 32 slots; 12_saltern R304; EMPTY each -/
  slots : Tab KeySlot := []
  /-- 8; 12_saltern R328; 0 (GLB_SALTERN_STATUS.LOCKS, bit 0 is Table 12.15's bit 8) -/
  locks : BitVec 8 := 0
  /-- 3; 12_saltern R329; ROM (PHASE) -/
  phase : Phase := .rom
  /-- 4; 12_saltern R329; 0 (GLB_LIFECYCLE.TRANS_RESULT) -/
  transResult : BitVec 4 := 0
  /-- 16; 12_saltern R320; 0 (GLB_TAMPER.COUNT) -/
  tamperCount : BitVec 16 := 0
  /-- 1; 12_saltern R320; 0 (TAMPERED) -/
  tampered : Bool := false
  /-- 1; 12_saltern R320; 0 (IN_SLACK) -/
  inSlack : Bool := false
  /-- 1; 12_saltern R320; 0 (CLOCK_GLITCH) -/
  clockGlitch : Bool := false
  /-- 1; 12_saltern R320; 0 (VOLT_GLITCH) -/
  voltGlitch : Bool := false
  /-- 1; 12_saltern R320; 0 (PIN) -/
  pinSeen : Bool := false
  /-- 1; 19_operator_access R462; false (GLB_DEBUG_STATUS.SALTERN_HALTED) -/
  halted : Bool := false
  /-- 5; 12_saltern R327; DESIGN CHOICE 0 [log 6] (channel the next service turn starts at) -/
  turn : Nat := 0
  /-- 40; 12_saltern R303; DESIGN CHOICE 0 [log 2] (base of the bridge's window, as the firmware last set it) -/
  window : Addr := 0
  deriving DecidableEq, Repr

/-- What a programming request is for, which says how it ends (R337, R339, R346). -/
inductive OtpPurpose where
  /-- OTP_PROGRAM of a value into a word for a channel; `clamp`: its request had extra words. -/
  | program (channel : Nat) (word value : Nat) (tag : BitVec 16) (clamp : Bool)
  /-- OTP_LOCK of a record for a channel: the digest words, and then the lock pair. -/
  | lock (channel : Nat) (record : Nat) (tag : BitVec 16) (clamp pair : Bool)
  deriving DecidableEq, Repr

/-- A programming request, in progress or waiting (R337). -/
structure OtpJob where
  purpose : OtpPurpose
  /-- The bits still to program, as word and bit, in order; a request that waits has none yet. -/
  bits : List (Nat × Nat) := []
  /-- Pulses the first of them has had. -/
  pulses : Nat := 0
  /-- Bits that failed their fourth pulse, as a mask of the word. -/
  failed : Word := 0
  deriving DecidableEq, Repr

/-- The fuses and the OTP controller (R330 to R347). -/
structure Otp where
  /-- 2,048 of 32; 13_otp R330; DESIGN CHOICE 0 each [log 7] (fuses as read at normal margin) -/
  fuses : Tab Word := []
  /-- 2,048 of 32; 13_otp R330; DESIGN CHOICE 0 each [log 7] (bits whose strict reading differs) -/
  weak : Tab Word := []
  /-- 2,048 of 32; 13_otp R331; DESIGN CHOICE 0 each [log 2] (the shadow) -/
  shadow : Tab Word := []
  /-- 11; 13_otp R347; 0 (WEAK_MAP) -/
  weakMap : BitVec 11 := 0
  /-- 1; 13_otp R347; 0 (HEALED) -/
  healed : Bool := false
  /-- 1; 13_otp R347; 0 (HEAL_FAIL) -/
  healFail : Bool := false
  /-- 1; 13_otp R347; 0 (VPP_PRESENT) -/
  vpp : Bool := false
  /-- 7; 13_otp R347; 0 (INVALID) -/
  invalid : BitVec 7 := 0
  /-- 7; 13_otp R347; 0 (LOCKED) -/
  locked : BitVec 7 := 0
  /-- record; 13_otp R337; none (no request in progress) -/
  job : Option OtpJob := none
  /-- list; 13_otp R337; empty (requests waiting, in arrival order) -/
  waiting : List OtpJob := []
  deriving DecidableEq, Repr

/-- A mailbox channel (Tables 12.11, 12.12). -/
structure Chan where
  /-- 32; 12_saltern R321; 0 (GLB_MBX_BINDc) -/
  bind : Word := 0
  /-- 8 of 32; 12_saltern R323; empty (queue from side A to side B) -/
  aToB : List Word := []
  /-- 8 of 32; 12_saltern R323; empty (queue from side B to side A; of a service channel, words beyond 8 wait in Saltern SRAM) -/
  bToA : List Word := []
  /-- 2; 12_saltern R323; 0 (OVERRUN of side A, side B) -/
  overA : Bool := false
  overB : Bool := false
  /-- 2; 12_saltern R323; 0 (UNDERRUN of side A, side B) -/
  underA : Bool := false
  underB : Bool := false
  /-- 8; 12_saltern R325; 0 (extra words of a request still to be discarded) -/
  discard : Nat := 0
  deriving DecidableEq, Repr

-- ## Engines

/-- The hash of a digest context (Table 14.2). -/
inductive HashAlg where
  | sha256 | sha384 | sha512
  deriving DecidableEq, Repr

/-- A Saltern digest context (R349, R350). -/
structure DigestCtx where
  /-- 1; 14_crypto_engines R350; free -/
  busy : Bool := false
  alg : HashAlg := .sha256
  /-- The key slot of an HMAC message. -/
  slot : Option Nat := none
  /-- The HMAC key in the pad states, as bytes. -/
  key : List Byte := []
  op : Byte := 0
  /-- The message absorbed so far. -/
  data : List Byte := []
  trunc : Bool := false
  /-- The measurement register that a descriptor with EXTEND has named for the message. -/
  ext : Option Nat := none
  deriving DecidableEq, Repr

/-- GLB_DRBG_STATUS.STATE (Table 14.9). -/
inductive DrbgState where
  | uninstantiated | ready | error
  deriving DecidableEq, Repr

/-- A request to the PKE engine (R355, R356). -/
structure PkeReq where
  /-- Index of the program (Table 14.4). -/
  prog : Nat
  /-- The key slot named with it, if it takes a private key. -/
  slot : Option Nat := none
  /-- What the load path puts into V0, V1 and so on. -/
  ops : List (List DWord) := []
  /-- The byte strings of an ML-DSA program: message; or key, message and signature. -/
  strs : List (List Byte) := []
  deriving DecidableEq, Repr

/-- The digest engine, the PKE engine and the DRBG (R348 to R369). -/
structure Engines where
  /-- 4 contexts; 14_crypto_engines R349; free each (CTX_BUSY 0) -/
  ctxs : Tab DigestCtx := []
  /-- list of core address and stream; 14_crypto_engines R350; empty (FIRST descriptors that wait for a context, in arrival order) -/
  waiting : List (Nat × List Byte) := []
  /-- list of OP and slot; 14_crypto_engines R349; empty (messages that ended with ABORTED and whose next descriptor is still to say so) -/
  aborted : List (Nat × Option Nat) := []
  /-- 16; 14_crypto_engines R369; 0 (GLB_DIGEST_COUNTS.TRUNC) -/
  truncs : BitVec 16 := 0
  /-- 16; 14_crypto_engines R369; 0 (GLB_DIGEST_COUNTS.SHORT) -/
  shorts : BitVec 16 := 0
  /-- 1; 14_crypto_engines R355; 0 (PKE_KAT_FAIL) -/
  katFail : Bool := false
  /-- 1; 14_crypto_engines R355; false (the full set of PKE programs is loaded) -/
  fullSet : Bool := false
  /-- 1; 14_crypto_engines R355; false (the ROM has loaded its fixed set) -/
  romSet : Bool := false
  /-- 4,096 x 64; 14_crypto_engines R355; DESIGN CHOICE none [log 20] (microcode: the index of the free value its first word has; no rule
  gives the words) -/
  microcode : Option Nat := none
  /-- 16 registers of 128 x 64; 14_crypto_engines R356; DESIGN CHOICE 0 each [log 2] (V0 to V15, words from word 0) -/
  operands : Tab (List DWord) := []
  /-- up to 384 bits; 14_crypto_engines R356; DESIGN CHOICE 0 [log 2] (hidden key register) -/
  hidden : List Byte := []
  /-- 64 KiB; 14_crypto_engines R356; DESIGN CHOICE 0 [log 2] (polynomial memory, as the seed whose expansion it holds) -/
  poly : List Byte := []
  /-- list; 14_crypto_engines R355, R364; empty (programs in the order issued; the first runs, and waits for the DRBG) -/
  pke : List PkeReq := []
  /-- 5; 14_crypto_engines R359; DESIGN CHOICE 0 [log 2] (result word of the last program: code and CLAMP) -/
  result : BitVec 5 := 0
  /-- 2; 14_crypto_engines R368; UNINSTANTIATED (STATE) -/
  drbg : DrbgState := .uninstantiated
  /-- 384; 14_crypto_engines R362; none (HMAC_DRBG K) -/
  drbgK : List Byte := []
  /-- 384; 14_crypto_engines R362; none (HMAC_DRBG V) -/
  drbgV : List Byte := []
  /-- 17; 14_crypto_engines R362; 0 (generate requests since the last seeding) -/
  drbgCount : Nat := 0
  /-- 16; 14_crypto_engines R368; 0 (RESEEDS) -/
  reseeds : BitVec 16 := 0
  /-- 1; 14_crypto_engines R368; 0 (APT_FAIL) -/
  aptFail : Bool := false
  /-- 1; 14_crypto_engines R368; 0 (RCT_FAIL) -/
  rctFail : Bool := false
  /-- 1; 14_crypto_engines R368; 0 (STARTUP_DONE) -/
  startupDone : Bool := false
  /-- 4 KiB; 14_crypto_engines R363; empty (pan entropy buffer) -/
  entropy : List Byte := []
  deriving DecidableEq, Repr

-- ## Boot

/-- How far a cold boot has come (Table 15.11). -/
inductive BootStage where
  | off | straps | rom | examine | firmware | config | certs | lpClear | apply | waitReady | done | halted
  deriving DecidableEq, Repr

/-- Boot, images and recovery (R370 to R399). -/
structure Boot where
  /-- enum; 15_boot R395; off -/
  stage : BootStage := .off
  /-- record; 15_boot R424; none (the facts of the board this boot met) -/
  env : Option BootEnv := none
  /-- 1; 05_memory_vaults R140; false (the boot clear has not ended) -/
  cleared : Bool := false
  /-- 64; 18_containment R447; 0 (pans whose self-test has ended) -/
  tested : DWord := 0
  /-- 4; 15_boot R399; 0x4 (BIND) -/
  bind : BitVec 4 := 4
  /-- 4; 15_boot R399; 0 (RECOVERY) -/
  recovery : BitVec 4 := 0
  /-- 4; 15_boot R399; 0xF (CFG_SRC) -/
  cfgSrc : BitVec 4 := 15
  /-- 4; 15_boot R399; 0x7 (FW_SRC) -/
  fwSrc : BitVec 4 := 7
  /-- 2; 15_boot R399; 0 (PATH) -/
  path : BitVec 2 := 0
  /-- 1; 15_boot R399; 0 (WAKE) -/
  wake : Bool := false
  /-- 1; 15_boot R399; 0 (RSA_USED) -/
  rsaUsed : Bool := false
  /-- 1; 15_boot R399; 0 (RB_ADVANCED) -/
  rbAdvanced : Bool := false
  /-- 1; 15_boot R399; 0 (RB_PENDING) -/
  rbPending : Bool := false
  /-- 1; 15_boot R399; 0 (REVOKED_NOW) -/
  revokedNow : Bool := false
  /-- 1; 15_boot R399; 0 (GOLDEN_FORCED) -/
  goldenForced : Bool := false
  /-- 1; 15_boot R399; 0 (FLASH_PRESENT) -/
  flashPresent : Bool := false
  /-- 1; 15_boot R399; 0 (N16_REFUSED) -/
  n16Refused : Bool := false
  /-- 1; 15_boot R399; 0 (NO_ERASE) -/
  noErase : Bool := false
  /-- 24; 15_boot R399; 0xFF_FFFF (GLB_BOOT_SLOTS) -/
  slots : BitVec 24 := 0xFFFFFF
  /-- 32; 15_boot R399; 0 (GLB_BOOT_COUNT) -/
  count : Word := 0
  /-- 24; 15_boot R399; 0 (GLB_BOOT_SVN) -/
  svn : BitVec 24 := 0
  /-- 3; 15_boot R392; 0 (NEED) -/
  need : BitVec 3 := 0
  /-- 16; 15_boot R393; DESIGN CHOICE 0 [log 2] (ACK_SEQ) -/
  ackSeq : BitVec 16 := 0
  /-- 8; 15_boot R392; DESIGN CHOICE 0x0F [log 2] (PUSH_RESULT before any chunk) -/
  pushResult : Byte := 0x0F
  /-- 48 KiB; 15_boot R392; DESIGN CHOICE 0 [log 2] (push buffer) -/
  buffer : List Host.Cell := []
  /-- 8 KiB; 15_boot R392, 12_saltern R315; DESIGN CHOICE 0 [log 2] (transition request, or link record) -/
  area : List Host.Cell := []
  /-- 8 and a valid bit; 15_boot R394; none (HOLDER reads 0xFF) -/
  holder : Option Ini := none
  /-- initiator and 16 B; 15_boot R393; none (a PUSH_CTRL write that waits while the Saltern is halted) -/
  ctrl : Option (Ini × QWord) := none
  /-- kind and bytes; 15_boot R393; none (the image pushed so far) -/
  pushed : Option (BitVec 4 × List Byte) := none
  /-- bytes; 15_boot R382; none (accepted Saltern firmware, header and payload) -/
  sfw : Option (List Byte) := none
  /-- bytes; 15_boot R382; none (accepted pan firmware) -/
  pfw : Option (List Byte) := none
  /-- bytes; 15_boot R382; none (accepted configuration image) -/
  cfg : Option (List Byte) := none
  /-- bytes; 16_attestation R411; none (link record of this boot) -/
  linkRecord : Option (List Byte) := none
  /-- 2 certificates; 16_attestation R412; none -/
  certs : List (List Byte) := []
  /-- clamp bits; 15_boot R384; 0 (CLAMP of the BOOT entry) -/
  clamp : BitVec 16 := 0
  /-- list; 17_first_second R431; none (partitions whose EPOCH event follows the BOOT entry, with their clamps) -/
  epochs : List (Nat × BitVec 16) := []
  /-- bytes; 15_boot R396; none (state saved at entry to SLACK: committed and shadow configuration) -/
  saved : Option (DevCfg × DevCfg) := none
  /-- 1; 15_boot R397, 12_saltern R314; false (the cold-boot flow runs after PORST_N, not after a failed wake from SLACK) -/
  afterSlack : Bool := false
  deriving DecidableEq, Repr

/-- The non-volatile configuration flash of the board (R28, R370). -/
structure Flash where
  /-- up to 512 MiB; 15_boot R370; DESIGN CHOICE erased, 0xFF [log 7] -/
  cells : List Host.Cell := []
  deriving DecidableEq, Repr

-- ## Attestation and errors

/-- An event-log entry (Table 16.2). -/
structure LogEntry where
  seq : DWord
  mr : Byte
  kind : Byte
  flags : Byte
  handle : Byte
  value : List Byte
  deriving DecidableEq, Repr

/-- Measurement registers, log and report counters (R400 to R420). -/
structure Attest where
  /-- 32 of 48 B; 16_attestation R400; zero bytes each -/
  mrs : Tab (List Byte) := []
  /-- up to 65,536; 16_attestation R404; empty -/
  log : List LogEntry := []
  /-- 16; 16_attestation R420; 0 (REPORTS) -/
  reports : BitVec 16 := 0
  /-- 8; 16_attestation R420; 0 (WAKES) -/
  wakes : BitVec 8 := 0
  /-- 1; 16_attestation R420; 0 (LOG_OVERFLOW) -/
  overflow : Bool := false
  /-- 1; 16_attestation R420; 0 (MR_FAILED) -/
  mrFailed : Bool := false
  /-- 1; 16_attestation R420; 0 (DEBUG_EVER) -/
  debugEver : Bool := false
  deriving DecidableEq, Repr

/-- Error registers and records (Tables 18.3, 18.4). -/
structure Errs where
  /-- 1; 18_containment R446; 0 (GLB_ERR_STATUS.FATAL) -/
  fatal : Bool := false
  /-- 4; 18_containment R446; 0 (FATAL_CAUSE) -/
  fatalCause : BitVec 4 := 0
  /-- 16; 18_containment R446; 0 (RECORDS) -/
  records : BitVec 16 := 0
  /-- 1; 18_containment R445; false (a FATAL record was written since PORST_N) -/
  fatalNow : Bool := false
  /-- 16; 18_containment R446; 0 (BOND_RETRY) -/
  bondRetry : BitVec 16 := 0
  /-- 16; 18_containment R446; 0 (LP_CORR) -/
  lpCorr : BitVec 16 := 0
  /-- 16; 18_containment R446; 0 (VAULT_CORR) -/
  vaultCorr : BitVec 16 := 0
  /-- 16; 18_containment R446; 0 (PAN_CORR) -/
  panCorr : BitVec 16 := 0
  /-- 8; 18_containment R446; 0 (GLB_BUNDED_OTHER.VAULTS) -/
  vaults : BitVec 8 := 0
  /-- 6; 18_containment R446; 0 (GLB_BUNDED_OTHER.LP_WITHHELD) -/
  lpWithheld : BitVec 6 := 0
  /-- 8 of 8; 18_containment R446; 0 each (GLB_ERR_VPOISON) -/
  vpoison : Tab Byte := []
  /-- 16 of 2 x 64; 18_containment R446; 0 each (GLB_ERR_RECn_LO, GLB_ERR_RECn_HI) -/
  recs : Tab (DWord × DWord) := []
  deriving DecidableEq, Repr

/-- A response of the host port (Table 8.1), or what a register read answered. -/
structure Rsp where
  module1 : Bool
  ini : Ini
  tag : BitVec 10
  status : BitVec 4
  data : List Byte
  deriving DecidableEq, Repr

/-- The state of the block. -/
structure State where
  /-- list of commands; the queue of waiting commands, first in, first out; empty -/
  pending : List Instr := []
  /-- count; the model's own: free values drawn so far; DESIGN CHOICE 0 [log 1] -/
  drawn : Nat := 0
  edge : Edge := {}
  i3c : I3c := {}
  dbg : Dbg := {}
  /-- 40-bit space of bytes; 05_memory_vaults R112; nothing listed (unlisted bytes read 0): DESIGN CHOICE [log 8] -/
  mem : List Host.Cell := []
  /-- set of 16 B units; 18_containment R435; none marked -/
  poison : List Nat := []
  /-- one per initiator; 00_scope R4; empty each: DEDUCED [log 3] -/
  latches : Tab Latch := []
  memSys : MemSys := {}
  /-- committed values -/
  cfg : DevCfg := {}
  /-- shadows -/
  shadow : DevCfg := {}
  /-- list; 09_partitions R248; none in progress -/
  commits : List Commit := []
  /-- 16; 09_partitions R241; reset each -/
  parts : Tab Part := []
  /-- 4,096; 08_decot_queues_tally R208; reset each -/
  ctxs : Tab Ctx := []
  /-- 4,096; 06_attention_kv R144; unbound each -/
  seqs : Tab Seq := []
  /-- up to 4,096; 08_decot_queues_tally R227; none in flight, in order of acceptance -/
  cmds : List Cmd := []
  /-- 64; 02_pans_and_cells R34; reset each -/
  pans : Tab Pan := []
  /-- 4; 07_race_lane R174; reset each -/
  slots : Tab Slot := []
  tally : Tally := {}
  power : Power := {}
  /-- 8; 11_power_clocks R281; reset each -/
  groups : Tab Group := []
  saltern : Saltern := {}
  otp : Otp := {}
  /-- 32; 12_saltern R321; reset each -/
  chans : Tab Chan := []
  eng : Engines := {}
  boot : Boot := {}
  flash : Flash := {}
  attest : Attest := {}
  errs : Errs := {}
  /-- list; 08_decot_queues_tally R203; none sent (responses, oldest first) -/
  sent : List Rsp := []
  deriving DecidableEq, Repr

/-- The block right after reset: PORST_N low with VDD_AON in range, every register at its reset value. -/
def State.reset : State := {}

end Sys2Proof.Machine
end

