-- ==== Sys2Proof/Machine/Ops.lean ====
section
/-! DEFINITION. The named operations over the state: its tables, the address map and who owns what (R112 to R116, R241 to R246),
memory and its marks (R124, R131, R435), the tally (R232 to R235), error records and bunding (R433 to R446), and the end of a
command (R222 to R226). -/
namespace Sys2Proof.Machine

-- ## Tables

def State.part (s : State) (p : Nat) : Part := s.parts.look {} p
def State.setPart (s : State) (p : Nat) (v : Part) : State := { s with parts := s.parts.put {} p v }
def State.modPart (s : State) (p : Nat) (f : Part → Part) : State := s.setPart p (f (s.part p))
def State.pan (s : State) (p : Nat) : Pan := s.pans.look {} p
def State.setPan (s : State) (p : Nat) (v : Pan) : State := { s with pans := s.pans.put {} p v }
def State.modPan (s : State) (p : Nat) (f : Pan → Pan) : State := s.setPan p (f (s.pan p))
def State.slot (s : State) (i : Nat) : Slot := s.slots.look {} i
def State.setSlot (s : State) (i : Nat) (v : Slot) : State := { s with slots := s.slots.put {} i v }
def State.modSlot (s : State) (i : Nat) (f : Slot → Slot) : State := s.setSlot i (f (s.slot i))
def State.ctx (s : State) (q : Nat) : Ctx := s.ctxs.look {} q
def State.setCtx (s : State) (q : Nat) (v : Ctx) : State := { s with ctxs := s.ctxs.put {} q v }
def State.modCtx (s : State) (q : Nat) (f : Ctx → Ctx) : State := s.setCtx q (f (s.ctx q))
def State.seqH (s : State) (h : Nat) : Seq := s.seqs.look {} h
def State.setSeq (s : State) (h : Nat) (v : Seq) : State := { s with seqs := s.seqs.put {} h v }
def State.group (s : State) (g : Nat) : Group := s.groups.look {} g
def State.modGroup (s : State) (g : Nat) (f : Group → Group) : State :=
  { s with groups := s.groups.put {} g (f (s.group g)) }
def State.chan (s : State) (c : Nat) : Chan := s.chans.look {} c
def State.modChan (s : State) (c : Nat) (f : Chan → Chan) : State := { s with chans := s.chans.put {} c (f (s.chan c)) }
def DevCfg.part (c : DevCfg) (p : Nat) : PartCfg := c.parts.look {} p
def DevCfg.setPart (c : DevCfg) (p : Nat) (v : PartCfg) : DevCfg := { c with parts := c.parts.put {} p v }
def DevCfg.ctx (c : DevCfg) (q : Nat) : CtxCfg := c.ctxs.look {} q
def DevCfg.setCtx (c : DevCfg) (q : Nat) (v : CtxCfg) : DevCfg := { c with ctxs := c.ctxs.put {} q v }

/-- The sixteen partitions, ascending. -/
def partsAll : List Nat := List.range 16
/-- The 64 pans, ascending. -/
def pansAll : List Nat := List.range 64

/-- The command with a tally sequence number. -/
def State.cmd? (s : State) (seq : DWord) : Option Cmd := s.cmds.find? fun c => c.seq = seq
def State.modCmd (s : State) (seq : DWord) (f : Cmd → Cmd) : State :=
  { s with cmds := s.cmds.map fun c => if c.seq = seq then f c else c }

/-- A clamp recorded against a command (R218). -/
def State.clampCmd (s : State) (seq : DWord) (m : BitVec 16) : State :=
  s.modCmd seq fun c => { c with clamp := c.clamp ||| m }

/-- The next free value's index; the counter advances. -/
def State.draw (s : State) : Nat × State := (s.drawn, { s with drawn := s.drawn + 1 })

/-- Bytes that no rule fixes. -/
def State.freeBytes (s : State) (n : Nat) : List Byte × State :=
  ((List.range n).map fun i => BitVec.ofNat 8 (freeCycles (s.drawn + i)).toNat, { s with drawn := s.drawn + n })

/-- The boot clear of R140 runs: it starts with the boot's first step after the straps and ends at BOOT_CLEAR_DONE (R53, R142). -/
def State.bootClearing (s : State) : Bool :=
  !s.boot.cleared && !s.edge.stopped
    && (s.boot.stage != .off && s.boot.stage != .straps && s.boot.stage != .halted && s.boot.stage != .done)

-- ## The address map (Table 5.1)

def vaultSize : Nat := 0xC0000000
def granule : Nat := 0x4000000
def lpBase : Nat := 0x1000000000
def lpStride : Nat := 0x400000000
def reserveBase : Nat := 0x05FC000000
def storeBase (p : Nat) : Nat := 0x3000000000 + p * 0x200000
/-- Where the model keeps a pan's accumulator buffer and instruction memory (operator debug's addresses, Table 19.3). -/
def accBase (p : Nat) : Nat := 0x3A00000000 + p * 0x100000
def imemBase (p : Nat) : Nat := accBase p + 0x80000
def controlBase : Nat := 0x3800000000

/-- Vault of an address, if it lies in stacked DRAM. -/
def vaultOf (a : Nat) : Option Nat := if a < 8 * vaultSize then some (a / vaultSize) else none
/-- LPDDR5X port of an address, if it lies in the windows. -/
def portOf (a : Nat) : Option Nat :=
  if lpBase ≤ a ∧ a < lpBase + 6 * lpStride then some ((a - lpBase) / lpStride) else none
/-- Pan whose store holds an address. -/
def panOf (a : Nat) : Option Nat :=
  if 0x3000000000 ≤ a ∧ a < 0x3008000000 then some ((a - 0x3000000000) / 0x200000) else none

/-- Usable bytes of each populated port: its capacity, less the check bits (R27, R114, R141). -/
def lpUsable (memCfg : Nat) : Nat :=
  let cap := match fld memCfg 4 2 with | 0 => 0x100000000 | 1 => 0x200000000 | 2 => 0x400000000 | _ => 0x100000000
  if bitAt memCfg 10 then cap / 8 * 7 else cap

/-- Whether `[a, a + n)` and `[b, b + m)` share a byte. -/
def overlaps (a n b m : Nat) : Bool := decide (a < b + m) && decide (b < a + n) && decide (0 < n) && decide (0 < m)

/-- Every byte of `[a, a + n)` lies in some range; `fuel` bounds the ranges it crosses. -/
def covered (fuel : Nat) (rs : List (Nat × Nat)) (a n : Nat) : Bool :=
  match fuel with
  | 0 => n == 0
  | fuel + 1 =>
    if n = 0 then true else
      match rs.find? fun r => r.1 ≤ a && a < r.1 + r.2 with
      | none => false
      | some r => let k := r.1 + r.2 - a; covered fuel rs (a + k) (n - k)

/-- `covered` with fuel enough for every range. -/
def within (rs : List (Nat × Nat)) (a n : Nat) : Bool := covered (rs.length + 1) rs a n

/-- The unit's usable LPDDR5X: populated, not withheld (R27, R114, R444). -/
def State.lpRanges (s : State) : List (Nat × Nat) :=
  (List.range (fld s.memSys.memCfg.toNat 0 3)).map fun p => (lpBase + p * lpStride, lpUsable s.memSys.memCfg.toNat)

/-- Cuts a range to the part from its base that meets no withheld memory. -/
def State.cutWithheld (s : State) (a n : Nat) : Nat :=
  s.memSys.withheld.foldl (fun n w => if overlaps a n w.1 w.2 then (if a < w.1 then w.1 - a else 0) else n) n

-- ## What a partition owns (R241)

/-- The vault share of a partition's configuration. -/
def PartCfg.vaultRanges (c : PartCfg) : List (Nat × Nat) :=
  (List.range 8).filterMap fun v =>
    let w := (c.vshare.look 0 v).toNat
    if fld w 8 6 = 0 then none else some (v * vaultSize + fld w 0 6 * granule, fld w 8 6 * granule)

/-- Its LPDDR5X ranges. -/
def PartCfg.lpRanges (c : PartCfg) : List (Nat × Nat) :=
  (List.range 4).filterMap fun n =>
    let w := (c.lpr.look 0 n).toNat
    if fld w 32 14 = 0 then none else some (fld w 0 14 * granule, fld w 32 14 * granule)

def PartCfg.memRanges (c : PartCfg) : List (Nat × Nat) := c.vaultRanges ++ c.lpRanges
def PartCfg.qbase (c : PartCfg) : Nat := fld c.queues.toNat 0 12
def PartCfg.qcount (c : PartCfg) : Nat := fld c.queues.toNat 16 13
/-- W_p (Table 9.6). -/
def PartCfg.dweight (c : PartCfg) : Nat := fld c.pdef.toNat 16 4 + 1
/-- PSHARE; 0 is taken as 1. -/
def PartCfg.pshare (c : PartCfg) : Nat := max 1 (fld c.pdef.toNat 8 8)

/-- PRT_DEF.IN_SERVICE is committed as 1 and TEARDOWN is 0 (R241). -/
def State.inService (s : State) (p : Nat) : Bool := bitAt (s.cfg.part p).pdef.toNat 31 && !(s.part p).teardown

/-- GLB_RACE_ASSIGNs.PAN. -/
def DevCfg.slotPan (c : DevCfg) (i : Nat) : Nat := fld (c.racePan.look 0 i).toNat 0 6

/-- The one partition of those that pass `on` that claims a slot in PRT_RACE. -/
def State.claimBy (s : State) (on : Nat → Bool) (i : Nat) : Option Nat :=
  match partsAll.filter fun p => on p && bitAt (s.cfg.part p).race.toNat i with
  | [p] => some p
  | _ => none

/-- The partition in service that owns a slot: PRT_RACE alone names it (Table 9.1). -/
def State.slotClaim (s : State) (i : Nat) : Option Nat := s.claimBy s.inService i

/-- The claim of a slot whose PAN is 1 to 5. -/
def State.slotBy (s : State) (on : Nat → Bool) (i : Nat) : Option Nat :=
  if 1 ≤ s.cfg.slotPan i ∧ s.cfg.slotPan i ≤ 5 then s.claimBy on i else none

/-- Owner of a slot when it is assigned: PAN is 1 to 5 and exactly one partition in service claims it (R250). -/
def State.slotOwner (s : State) (i : Nat) : Option Nat := s.slotBy s.inService i

/-- Who holds a slot when a partition that is being torn down counts as well: what its teardown has to clear (Table 9.14). -/
def State.slotHolder (s : State) (i : Nat) : Option Nat := s.slotBy (fun p => bitAt (s.cfg.part p).pdef.toNat 31) i

/-- The assigned slot that a pan serves. -/
def State.slotOf (s : State) (pan : Nat) : Option Nat :=
  (List.range 4).find? fun i => (s.slotOwner i).isSome && s.cfg.slotPan i == pan

/-- The pans of a partition's pool: neither race pans nor another's; none out of service (R174, R241). -/
def State.pool (s : State) (p : Nat) : List Nat :=
  if !s.inService p then [] else pansAll.filter fun i => bitAt (s.cfg.part p).pans.toNat i && (s.slotOf i).isNone

/-- The pool's pans that are not bunded (PRT_STATE.USABLE). -/
def State.usable (s : State) (p : Nat) : List Nat := (s.pool p).filter fun i => !(s.pan i).bunded

/-- The partition a pan is assigned to: its pool's, or its slot's owner (R53, R174). -/
def State.panPart (s : State) (pan : Nat) : Option Nat :=
  match s.slotOf pan with
  | some i => s.slotOwner i
  | none => partsAll.find? fun p => s.inService p && bitAt (s.cfg.part p).pans.toNat pan

/-- The ranges without the bytes of one. -/
def minusRange (rs : List (Nat × Nat)) (w : Nat × Nat) : List (Nat × Nat) :=
  rs.flatMap fun r =>
    if overlaps r.1 r.2 w.1 w.2 then
      [(r.1, w.1 - r.1), (w.1 + w.2, r.1 + r.2 - (w.1 + w.2))].filter fun x => x.2 != 0
    else [r]

/-- The memory a partition holds, withheld ranges left out (R444). -/
def State.memRanges (s : State) (p : Nat) : List (Nat × Nat) := s.memSys.withheld.foldl minusRange (s.cfg.part p).memRanges

/-- Every range a partition may address: its memory, withheld ranges left out, and its pool's stores, bunded pans left out (R91,
R112, R439, R444). -/
def State.ranges (s : State) (p : Nat) : List (Nat × Nat) :=
  if !s.inService p then [] else
    s.memRanges p ++ (s.usable p).map fun i => (storeBase i, 0x200000)

-- ## Initiators (R245, R246)

def State.bindOf (s : State) (ini : Ini) : Nat := (s.cfg.binds.look 0 ini.toNat).toNat
/-- JTAG debug, as an initiator: it acts as an operator in the control region, and no port carries its number (R201, R457). -/
def jtagIni : Ini := 0xFF
def State.isOperator (s : State) (ini : Ini) : Bool :=
  ini == jtagIni || (decide (ini.toNat < 64) && bitAt (s.bindOf ini) 9)

/-- The partition an external initiator is bound to. -/
def State.boundTo (s : State) (ini : Ini) : Option Nat :=
  let b := s.bindOf ini
  if ini.toNat < 64 && bitAt b 8 && s.inService (fld b 0 4) then some (fld b 0 4) else none

/-- The partition whose committed queue range holds the queue. -/
def State.queueOwner (s : State) (q : Nat) : Option Nat :=
  partsAll.find? fun p => s.inService p && (s.cfg.part p).qbase ≤ q && q < (s.cfg.part p).qbase + (s.cfg.part p).qcount

/-- Bound to the queue's context. -/
def State.mayRing (s : State) (ini : Ini) (q : Nat) : Bool :=
  match s.boundTo ini with
  | none => false
  | some p => s.queueOwner q == some p && fld (s.bindOf ini) 16 12 ≤ q
      && q < fld (s.bindOf ini) 16 12 + fld (s.bindOf ini) 32 13

/-- Bound to the partition, or an operator (R239). -/
def State.mayRead (s : State) (ini : Ini) (p : Nat) : Bool := s.isOperator ini || s.boundTo ini == some p

-- ## Memory

/-- `n` bytes from an address. -/
def State.read (s : State) (a n : Nat) : List Byte := (List.range n).map fun i => Tab.look s.mem 0 (a + i)
/-- A little-endian number of `n` bytes. -/
def State.readN (s : State) (a n : Nat) : Nat := leNat (s.read a n)

/-- A set of numbers as a rising list, with one more. -/
def insertNum (k : Nat) : List Nat → List Nat
  | [] => [k]
  | x :: xs => if k < x then k :: x :: xs else if k = x then x :: xs else x :: insertNum k xs

/-- Bytes written from an address; a whole aligned unit loses its mark (R435). -/
def State.write (s : State) (a : Nat) (bs : List Byte) : State :=
  { s with mem := Tab.span s.mem 0 a bs, poison := s.poison.filter fun u => !(a ≤ u && u + 16 ≤ a + bs.length) }

/-- What an internal engine writes goes in whole, aligned units: the units that the bytes reach lose their marks. The bytes of such a unit
that the engine was given no value for keep theirs (R131, R435; DESIGN CHOICE [log 78]). -/
def State.engineWrite (s : State) (a : Nat) (bs : List Byte) : State :=
  let lo := a / 16 * 16
  let hi := cdiv (a + bs.length) 16 * 16
  if bs.isEmpty then s else s.write lo (s.read lo (a - lo) ++ bs ++ s.read (a + bs.length) (hi - (a + bs.length)))

def State.writeN (s : State) (a n v : Nat) : State := s.write a (leBytes n v)

/-- A range zeroed, its marks gone. -/
def State.zero (s : State) (a n : Nat) : State :=
  { s with mem := Tab.wipe s.mem a n, poison := s.poison.filter fun u => u < a || a + n ≤ u }

/-- Some unit of the range is marked; an empty range has none. -/
def State.marked (s : State) (a n : Nat) : Bool := n != 0 && s.poison.any fun u => u < a + n && a < u + 16

/-- The unit that holds an address is marked. -/
def State.mark (s : State) (a : Nat) : State := { s with poison := insertNum (a / 16 * 16) s.poison }

/-- Some byte of the range lies in a bunded vault. -/
def State.fencedAt (s : State) (a n : Nat) : Bool :=
  (List.range 8).any fun v => s.errs.vaults.getLsbD v && overlaps a n (v * vaultSize) vaultSize

/-- The sealed regions of every partition, open or closed, with their owners (R133). -/
def State.sealed (s : State) : List (Nat × Region) :=
  s.parts.flatMap fun pp => ((pp.2.progs ++ pp.2.wgts).filter (·.2.used)).map fun r => (pp.1, r.2)

def State.hitsSealed (s : State) (a n : Nat) : Bool := s.sealed.any fun r => overlaps a n r.2.base r.2.len

/-- NE and the extents of a partition's committed pool (R151). -/
def PartCfg.extents (c : PartCfg) : List (Nat × Nat) :=
  (List.range (fld c.kvCfg.toNat 4 4 + 1)).map fun e =>
    let w := (c.kvExt.look 0 e).toNat
    (fld w 0 14 * granule, fld w 32 14 * granule)

def PartCfg.poolPages (c : PartCfg) : Nat := fld c.kvCfg.toNat 8 17
def PartCfg.slotBytes (c : PartCfg) : Nat := (fld c.kvCfg.toNat 0 4 + 1) * 4096

/-- Bytes of a sequence's page table: headers and entries (R149). -/
def Seq.tableLen (q : Seq) : Nat := 16 * q.nh + 16 * (q.nh * cdiv q.maxlen q.ps)

/-- The key-value-held ranges of a partition: the extents of its pool, whatever number of pages it has, and bound page tables. A partition
out of service holds none (R150, R151, R241). -/
def State.kvHeld (s : State) (p : Nat) : List (Nat × Nat) :=
  (if s.inService p then (s.cfg.part p).extents else [])
    ++ (s.seqs.filter fun q => q.2.bound && q.2.part == p).map fun q => (q.2.table, q.2.tableLen)

/-- The partition whose key-value-held range meets the bytes. -/
def State.kvHit (s : State) (a n : Nat) : Option Nat :=
  partsAll.find? fun p => (s.kvHeld p).any fun r => overlaps a n r.1 r.2

/-- A tally entry as bytes (Table 8.15). -/
def TEntry.bytes (e : TEntry) : List Byte :=
  leBytes 8 e.seq.toNat ++ [e.ini, e.part] ++ leBytes 2 e.queue.toNat ++ [e.opcode, e.status] ++ leBytes 2 e.clamp.toNat
    ++ leBytes 4 e.step.toNat ++ leBytes 4 e.ringIdx.toNat ++ [e.pans, e.panFirst, e.flags] ++ List.replicate 5 0

-- ## Saltern SRAM and the reserve's working areas (R116, R303)

/-- Where debug finds the Saltern core's address 0 (Table 19.3). -/
def salternBase : Nat := 0x3B00000000
/-- Saltern SRAM (Table 12.2): the tally's part, and the firmware's. -/
def sramTally : Nat := salternBase + 0x10010000
def sramFirmware : Nat := salternBase + 0x10030000
def sramEnd : Nat := salternBase + 0x10060000

/-- The bytes of a range are such as no rule fixes from now on. -/
def State.forget (s : State) (a n : Nat) : State := { s with memSys := { s.memSys with known := minusRange s.memSys.known (a, n) } }

/-- Bytes written to Saltern SRAM or to a working area: debug reads them as they are. -/
def State.writeKnown (s : State) (a : Nat) (bs : List Byte) : State :=
  let s := (s.write a bs).forget a bs.length
  { s with memSys := { s.memSys with known := s.memSys.known ++ [(a, bs.length)] } }

/-- The byte of tally SRAM at an offset, while the entry that belongs there is held: entries stand by their number modulo 4,096
(R234, R303; DEDUCED [log 75]). -/
def State.sramTallyByte (s : State) (o : Nat) : Option Byte :=
  ((s.tally.entries.drop (s.tally.entries.length - 4096)).find? fun e => e.seq.toNat % 4096 == o / 32).map
    fun e => e.bytes.getD (o % 32) 0

/-- A byte of Saltern ROM, SRAM or registers, or of a working area, where some rule fixes it. -/
def State.looseByte (s : State) (a : Nat) : Option Byte :=
  if sramTally ≤ a && a < sramFirmware then s.sramTallyByte (a - sramTally)
  else if s.memSys.known.any fun r => r.1 ≤ a && a < r.1 + r.2 then some (Tab.look s.mem 0 a) else none

/-- Bytes of Saltern ROM, SRAM or registers, or of a working area: what no rule fixes is a free value. -/
def State.looseBytes (s : State) (a n : Nat) : List Byte × State :=
  let (f, s) := s.freeBytes n
  ((List.range n).map fun i => (s.looseByte (a + i)).getD (f.getD i 0), s)

/-- Pan memories are not kept in DOZE, and a wake zeroes them at its end: what they hold from the entry until then no rule says (R278;
DESIGN CHOICE [log 68]). -/
def State.panLost (s : State) : Bool := s.power.sleep == .doze || s.power.sleep == .waking

/-- Bytes of a pan's memories as an access finds them. -/
def State.panBytes (s : State) (a n : Nat) : List Byte × State := if s.panLost then s.freeBytes n else (s.read a n, s)

-- ## The free list's ring (R116, R153)

/-- The 128 KiB of the Saltern reserve that hold a partition's ring of 65,536 two-byte entries, partitions ascending, entry 0 first
(DEDUCED [log 75]). -/
def freeRing (p : Nat) : Nat := reserveBase + 0xC00000 + p * 0x20000

/-- A page joins the ring at its tail. -/
def State.putPage (s : State) (p i : Nat) : State :=
  let k := (s.part p).freeTail % 65536
  (s.engineWrite (freeRing p + 2 * k) (leBytes 2 i)).modPart p fun v => { v with freeList := v.freeList ++ [i], freeTail := (k + 1) % 65536 }

/-- A pool takes effect: the ring holds its pages in ascending order from entry 0 on. -/
def State.fillPool (s : State) (p n : Nat) : State :=
  let s := if n = 0 then s else s.write (freeRing p) ((List.range n).flatMap (leBytes 2))
  s.modPart p fun v => { v with freeList := List.range n, freeTail := n % 65536 }

-- ## The tally (R232 to R235)

/-- D: the depth of the spill ring in entries (Table 8.17). -/
def Tally.depth (t : Tally) : Nat := if t.spill = 0 then 0 else 2 ^ (11 + t.spill.toNat)

/-- Retained entries: 4,096 and D (R234). -/
def Tally.keep (t : Tally) : Nat := 4096 + t.depth

/-- Where the spill ring in the Saltern reserve holds an entry: the entry's number modulo D (R116, R234; DEDUCED [log 75]). -/
def Tally.spillAt (t : Tally) (e : TEntry) : Nat := reserveBase + 0x1000000 + e.seq.toNat % 2 ^ 40 % (max 1 t.depth) * 32

/-- An entry that lies in the spill ring is written there. -/
def State.spillEntry (s : State) (e : TEntry) : State :=
  if s.tally.depth = 0 then s else s.write (s.tally.spillAt e) e.bytes

/-- The next entry is written; the one that leaves Saltern SRAM moves to the spill ring. -/
def State.tallyPut (s : State) (e : TEntry) : State :=
  let es := s.tally.entries ++ [{ e with seq := s.tally.head }]
  let m := match es.reverse[4096]? with | some x => s.spillEntry x | none => s
  { s with
    mem := m.mem
    poison := m.poison
    tally := { s.tally with entries := es.drop (es.length - s.tally.keep), head := s.tally.head + 1, since := s.tally.since + 1 } }

/-- The next entry is written; none is before the boot's first entry, nor between hand-over and READY (R431). -/
def State.tallyAdd (s : State) (e : TEntry) : State :=
  if !s.tally.begun || s.boot.stage != .done then s else s.tallyPut e

/-- An event entry, complete from the start (R235). -/
def evEntry (ini : Ini) (code part : Byte) (panFirst : Byte) (status : Byte) (clamp : BitVec 16) : TEntry :=
  { seq := 0, ini, part, queue := 0x8000, opcode := code, status, clamp, step := 0, ringIdx := 0, pans := 0, panFirst
    flags := 1 }

def evBoot : Byte := 0x80
def evCleared : Byte := 0x81
def evBunded : Byte := 0x82
def evDebug : Byte := 0x83
def evEpoch : Byte := 0x84
def evCheckpoint : Byte := 0x85

def State.event (s : State) (ini : Ini) (code part : Byte) (panFirst : Byte := 0) (status : Byte := 0)
    (clamp : BitVec 16 := 0) : State := s.tallyAdd (evEntry ini code part panFirst status clamp)

/-- An entry changed in place by its sequence number, wherever it lies (R234). -/
def State.tallyMod (s : State) (seq : DWord) (f : TEntry → TEntry) : State :=
  let es := s.tally.entries.map fun e => if e.seq = seq then f e else e
  let m := (es.reverse.drop 4096).foldl (fun s e => if e.seq = seq then s.spillEntry e else s) s
  { s with mem := m.mem, poison := m.poison, tally := { s.tally with entries := es } }

-- ## Error records (R433, R445, R446)

/-- Classes of Table 18.1. -/
def ePoison : Nat := 0
def eBund : Nat := 1
def eWithheld : Nat := 2
def eLink : Nat := 3
def eFatal : Nat := 4

/-- Who met an error: a partition and the sequence number of its command. -/
structure Met where
  part : Option Nat := none
  seq : Option DWord := none
  deriving DecidableEq, Repr

/-- A record is written, unless a FATAL one was since PORST_N (R445). -/
def State.record (s : State) (cls src unit addr : Nat) (met : Met) : State :=
  if s.errs.fatalNow then s else
    let lo := addr / 16 * 16 * 2 ^ 24 + (met.part.getD 0) * 2 ^ 16 + b2n met.part.isSome * 2 ^ 15 + unit * 2 ^ 8
      + src * 16 + cls
    let hi : DWord := met.seq.getD (if s.tally.begun then s.tally.head else 0)
    { s with errs := { s.errs with
        recs := s.errs.recs.put (0, 0) (s.errs.records.toNat % 16) (BitVec.ofNat 64 lo, hi)
        records := s.errs.records + 1
        fatalNow := s.errs.fatalNow || cls == eFatal } }

/-- A FATAL error: READY and FAULT_N low, everything stopped (R18, R434). -/
def State.fatal (s : State) (cause src unit : Nat) : State :=
  let s := s.record eFatal src unit 0 {}
  { s with
    errs := { s.errs with fatal := true, fatalCause := BitVec.ofNat 4 cause }
    edge := { s.edge with ready := false, faultLow := true, stopped := true } }

/-- The device serves commands: READY is asserted and no FATAL error has stopped it (R18, R205). -/
def State.up (s : State) : Bool := s.edge.ready && !s.edge.stopped

-- ## The end of a command (R222 to R226, R110, R145, R259, R270)

/-- OPCODE byte of a command. -/
def Cmd.op (c : Cmd) : Nat := leAt c.bytes 0 1
/-- A field of the command. -/
def Cmd.f (c : Cmd) (a n : Nat) : Nat := leAt c.bytes a n

/-- The header of a head stream (Table 6.2). -/
def Seq.header (q : Seq) (h : Nat) : Nat := q.table + 16 * h

/-- A stream's OWNED bit cleared, its committed length set where the command completed: the 16 B header is written whole (R131). -/
def State.settleStream (s : State) (u : KvUse) (commit : Bool) : State :=
  let q := s.seqH u.handle
  if !u.owned || !q.bound then s else
    let a := q.header u.stream
    if s.fencedAt a 16 then s else
      let (k, s) := s.draw
      let old := s.read a 16
      s.write a ((if commit then leBytes 4 (u.base + u.added) else old.take 4) ++ slice old 4 7
        ++ leBytes 1 (leAt old 11 1 / 2 * 2) ++ leBytes 4 (freeCycles k).toNat)

/-- A pan leaves the command or request it ran. Its program counter and the loops around it stay as they are (R82). -/
def Pan.leave (v : Pan) : Pan :=
  { v with run := none, st := if v.st = .clearing then .clearing else .idle, arrival := none, append := none }

/-- The pans that run a command leave it. -/
def State.leavePans (s : State) (seq : DWord) : State :=
  pansAll.foldl (fun s p =>
    match (s.pan p).run with
    | some r => if r.seq = seq && !r.race then s.modPan p Pan.leave else s
    | none => s) s

-- ## Time locks (R267 to R270)

/-- The mesh row of the stop behind an address: a vault's, an LPDDR5X controller's, a pan's, the control region's (Table 5.2). -/
def rowOf (a : Nat) : Option Nat :=
  match vaultOf a, portOf a, panOf a with
  | some v, _, _ => some v
  | none, some k, _ => [2, 4, 6, 1, 3, 5][k]?
  | none, none, some p => some (p / 8)
  | none, none, none => if controlBase ≤ a ∧ a < controlBase + 0x500000 then some 0 else none

/-- The row in which a module, and the movers beside it, sit. -/
def modRow (module1 : Bool) : Nat := if module1 then 7 else 0

/-- A transfer between two rows uses a stop of every row between them, since routing is dimension-ordered (R119); this says whether it
uses one of a command's own pan groups. -/
def Cmd.onPath (c : Cmd) (y1 y2 : Nat) : Bool := c.pans.any fun p => min y1 y2 ≤ p / 8 && p / 8 ≤ max y1 y2

/-- The lock of a command other than `own` keeps a request that travels between two rows waiting: no effect of it shows before the lock
ends (R268, R271). -/
def State.pathHeld (s : State) (own : Option DWord) (y1 y2 : Nat) : Bool :=
  s.cmds.any fun c => c.locked && some c.seq != own && c.onPath y1 y2

/-- As `pathHeld`, for a request from a row to an address; one that no stop answers does not wait. -/
def State.addrHeld (s : State) (own : Option DWord) (y a : Nat) : Bool :=
  match rowOf a with | some r => s.pathHeld own y r | none => false

/-- As `pathHeld`, for data that travel between two addresses. -/
def State.copyHeld (s : State) (a b : Nat) : Bool :=
  match rowOf a with | some r => s.addrHeld none r b | none => false

/-- The vaults of a set of pans perform their postponed refreshes: a lock over them begins or ends (R268). -/
def State.freshRefresh (s : State) (pans : List Nat) : State :=
  { s with memSys := { s.memSys with postponed := s.memSys.postponed.filter fun x => !pans.any fun p => p / 8 = x.1 / 16 } }

/-- A time-locked command's lock ends at its first cause (R268, Table 10.8). -/
def State.lockCause (s : State) (seq : DWord) (cause : BitVec 4) : State :=
  match s.cmd? seq with
  | none => s
  | some c => if c.locked then (s.modCmd seq fun c => { c with locked := false, cause }).freshRefresh c.pans else s

/-- The locks of the commands that satisfy a test end with a cause. -/
def State.lockWhere (s : State) (f : Cmd → Bool) (cause : BitVec 4) : State :=
  s.cmds.foldl (fun s c => if f c then s.lockCause c.seq cause else s) s

/-- Something befalls a pan: the locks of the commands whose pan set holds it end, whether or not the pan still runs (Table 10.8). -/
def State.lockPan (s : State) (p : Nat) (cause : BitVec 4) : State := s.lockWhere (fun c => c.pans.contains p) cause

/-- Race-class traffic between two rows: it is served, and ends the locks whose rows it uses (Table 10.8, cause 4). -/
def State.racePath (s : State) (y1 y2 : Nat) : State := s.lockWhere (fun c => c.onPath y1 y2) 4

/-- The completion entry of a command (Table 8.12). -/
def cplBytes (c : Cmd) (x : Ctx) (status : Byte) : List Byte :=
  let depth := max 1 x.live.depth.toNat
  leBytes 4 c.idx.toNat ++ [status, BitVec.ofNat 8 (1 - x.ctail.toNat / depth % 2)] ++ leBytes 2 c.clamp.toNat
    ++ leBytes 8 c.seq.toNat

/-- The ring fields of a context are as committed. -/
def CtxCfg.sameRings (a b : CtxCfg) : Bool := a.ringBase == b.ringBase && a.cplBase == b.cplBase && a.depth == b.depth

/-- A change of ring fields in waiting takes effect once TAIL = HEAD = CTAIL; the counters restart (R209). -/
def State.settleCtx (s : State) (q : Nat) : State :=
  let x := s.ctx q
  let c := s.cfg.ctx q
  if !x.live.sameRings c && x.tail == x.head && x.head == x.ctail then
    s.setCtx q { x with live := { x.live with ringBase := c.ringBase, cplBase := c.cplBase, depth := c.depth }
                        tail := 0, head := 0, ctail := 0, chead := 0 }
  else s

/-- A RUN_PROGRAM that ends well adds its step offset to the partition's step counter (R259). -/
def State.creditSteps (s : State) (c : Cmd) (good : Bool) : State :=
  if good && c.op == 1 then
    s.modPart c.part fun v =>
      { v with stepCount := v.stepCount + BitVec.ofNat 64 ((c.ended.map fun e => e.2.toNat).foldl max 0) }
  else s

/-- A command that found no page counts in PRT_KV_FULL (R154). -/
def State.countFull (s : State) (c : Cmd) (status : Byte) : State :=
  if status = stKvFull then s.modPart c.part fun v => { v with kvFull := satAdd v.kvFull 1 } else s

/-- A command that was time-locked shows in the lock registers (R268, R270). -/
def State.noteLock (s : State) (c : Cmd) (good : Bool) : State :=
  if c.wasLocked then
    let cause := if c.locked && !good then 8 else c.cause
    let s := if c.locked then s.freshRefresh c.pans else s
    let (k, s) := s.draw
    s.modPart c.part fun v =>
      { v with detLast := BitVec.ofNat 32 (b2n (cause == 0) * 2 ^ 31 + cause.toNat), detSeq := c.seq
               detCycles := freeCycles k }
  else s

/-- The tally entry of a command shows DONE with its status (R234). -/
def State.tallyDone (s : State) (c : Cmd) (status : Byte) : State :=
  let step := BitVec.ofNat 32 (s.part c.part).stepCount.toNat
  s.tallyMod c.seq fun e =>
    { e with status, clamp := c.clamp, flags := e.flags ||| 1, step := if c.started then e.step else step }

/-- The completion entry is written as CTAIL advances; it is lost in a bunded vault, and in a sealed region, which only its mover and the
clear engine write (R135, R224, R442). -/
def State.putEntry (s : State) (c : Cmd) (status : Byte) : State :=
  let x := s.ctx c.queue
  let at' := x.live.cplBase.toNat + x.ctail.toNat % (max 1 x.live.depth.toNat) * 16
  let s := if s.fencedAt at' 16 || s.hitsSealed at' 16 then s else s.write at' (cplBytes c x status)
  s.setCtx c.queue { x with ctail := x.ctail + 1 }

/-- A command leaves the command table. -/
def State.dropCmd (s : State) (c : Cmd) : State := { s with cmds := s.cmds.filter fun d => d.seq ≠ c.seq }

/-- One command completes: stream lengths, the step counter and the lock registers first, then its tally entry shows DONE, and
the completion entry is written as CTAIL advances. -/
def State.completeOne (s : State) (c : Cmd) (status : Byte) : State :=
  let good := status == stOk || status == stTrunc
  let s := (c.kv.foldl (fun s u => s.settleStream u good) s).leavePans c.seq
  let s := ((s.creditSteps c good).countFull c status).noteLock c good
  (((s.tallyDone c status).putEntry c status).dropCmd c).settleCtx c.queue

/-- A FENCE or ABORT that is working has nothing left to wait for (R222). -/
def State.waitOver (s : State) (c : Cmd) : Bool :=
  let earlier := s.cmds.takeWhile fun d => d.seq ≠ c.seq
  if !c.working then false
  else if c.op = 9 then
    if c.f 8 1 = 0 then !earlier.any fun d => d.queue = c.queue else !earlier.any fun d => d.part = c.part
  else if c.op = 10 then
    let targets := earlier.filter fun d => d.op ≠ 10 && d.op ≠ 11
    match c.f 8 1 with
    | 0 => !targets.any fun d => d.seq.toNat = c.f 16 8
    | 1 => !targets.any fun d => d.queue = c.f 10 2
    | _ => !targets.any fun d => d.part = c.part
  else false

/-- ABORT and QUERY start at acceptance (R222, R223, R230). -/
def Cmd.exempt (c : Cmd) : Bool := c.op == 10 || c.op == 11
/-- KV_RELEASE, CLEAR_REGION, SET_SEED and COMMIT are partition-ordered (R230). -/
def Cmd.ordered (c : Cmd) : Bool := c.op == 6 || c.op == 7 || c.op == 8 || c.op == 13

/-- The command names a handle that an unfinished LOAD of its own queue creates: it waits for it, since commands of one queue run
on what earlier ones left (R216; DEDUCED [log 21]). -/
def Cmd.needsLoad (c d : Cmd) : Bool :=
  c.queue == d.queue &&
    ((c.op == 1 && d.op == 2 && c.f 8 1 == d.f 8 1) || (c.op == 4 && c.f 8 1 == 0 && d.op == 2 && c.f 9 1 == d.f 8 1)
      || (c.op == 4 && c.f 8 1 == 1 && d.op == 3 && c.f 9 1 == d.f 8 1))

/-- The order of starts lets the command start (R222, R230, R248, R462). -/
def State.canStart (s : State) (c : Cmd) : Bool :=
  let earlier := s.cmds.takeWhile fun d => d.seq ≠ c.seq
  s.up && !c.started && (c.exempt ||
    (!(s.commits.any fun m => m.waiting.contains c.part && m.below.toNat ≤ c.seq.toNat)
      && !(s.saltern.halted && (c.op == 2 || c.op == 3 || c.op == 4 || c.op == 7 || c.op == 13))
      && !(c.ordered && earlier.any fun d => d.part == c.part)
      && !earlier.any fun d => (d.part == c.part && d.ordered) || (d.queue == c.queue && !d.exempt && (!d.started || d.op == 9))
        || c.needsLoad d))

/-- The status of a command that no row runs: its slot was unreadable, or its opcode or selector is reserved (R215, R216,
R223). -/
def State.noRow (s : State) (c : Cmd) : Option Byte :=
  let w := c.f 8 1
  if c.bad ≠ 0 then some c.bad
  else if c.op = 4 || c.op = 7 || c.op = 10 then (if 2 < w then some stBadHandle else none)
  else if c.op = 13 then (if 1 < w then some stBadHandle else none)
  else if c.op = 11 then
    if w ≤ 7 then none
    else if w < 0x80 then some stBadHandle
    else if !s.isOperator c.ini then some stDenied
    else if [0x80, 0x88, 0x89, 0x8A, 0x8B, 0x8F].contains w then none else some stBadHandle
  else if 13 < c.op then some stBadHandle else none

/-- The bit ranges of a command that Table 8.5 lists, as first bit and width; the rest are reserved (R214). -/
def cmdFields (op : Nat) : List (Nat × Nat) :=
  match op with
  | 1 => [(64, 8), (72, 8), (80, 12), (96, 21), (127, 1), (128, 64), (192, 256)]
  | 2 => [(64, 8), (128, 40), (192, 64), (256, 40)]
  | 3 => [(64, 8), (128, 40), (192, 64), (256, 40)]
  | 4 => [(64, 8), (72, 8), (80, 8), (128, 40), (192, 64), (256, 40)]
  | 5 => [(64, 12), (80, 8), (88, 8), (96, 8), (104, 4), (128, 32), (192, 40), (256, 40)]
  | 6 => [(64, 12)]
  | 7 => [(64, 8), (72, 8), (128, 40), (192, 64)]
  | 8 => [(64, 64), (128, 64), (192, 2)]
  | 9 => [(64, 1)]
  | 10 => [(64, 8), (80, 16), (128, 64)]
  | 11 => [(64, 8), (72, 8), (80, 16), (128, 64), (192, 40), (256, 32)]
  | 12 => [(128, 40), (192, 64)]
  | 13 => [(64, 8)]
  | _ => []

/-- A reserved bit of the command is not zero. -/
def Cmd.rsv (c : Cmd) : Bool :=
  let v := leNat c.bytes
  c.bad == 0 && (cmdFields c.op).foldl (fun m f => m - fld v f.1 f.2 * 2 ^ f.1) (v - v % 256) != 0

/-- A command starts: its tally entry takes the step counter, and reserved bits read as zero (R214, R232). -/
def State.beginCmd (s : State) (c : Cmd) : State :=
  let s := s.tallyMod c.seq fun e => { e with step := BitVec.ofNat 32 (s.part c.part).stepCount.toNat }
  s.modCmd c.seq fun d => { d with started := true, clamp := d.clamp ||| (if c.rsv then cRsv else 0) }

/-- A command that starts and at once completes without a row. -/
def State.finishNoRow (s : State) (c : Cmd) (status : Byte) : State :=
  let s := s.beginCmd c
  match s.cmd? c.seq with
  | none => s
  | some c => s.completeOne c status

/-- What completes by itself does: FENCE and ABORT whose wait is over, and commands that no row runs. -/
def State.settle (fuel : Nat) (s : State) : State :=
  match fuel with
  | 0 => s
  | fuel + 1 =>
    match s.cmds.find? s.waitOver with
    | some c => State.settle fuel (s.completeOne c c.status)
    | none =>
      match s.cmds.find? fun c => (s.noRow c).isSome && s.canStart c with
      | some c => State.settle fuel (s.finishNoRow c ((s.noRow c).getD stOk))
      | none => s

/-- A command completes, and what waited for it. -/
def State.complete (s : State) (seq : DWord) (status : Byte) : State :=
  match s.cmd? seq with
  | none => s
  | some c => State.settle (s.cmds.length + 1) (s.completeOne c status)

/-- Nothing of a commit is still to be done at a boundary, by the clear engine or by a slot. -/
def Commit.settled (m : Commit) : Bool := m.started && m.waiting.isEmpty && m.tearing.isEmpty && m.slots.isEmpty

/-- The committed power fields, and WEIGHT and ENABLE of the contexts in the commit's scope, are in force: those of a device since a
cap-window boundary, these since a dispatcher round (R209, R221, R284). -/
def State.inForce (s : State) (m : Commit) : Bool :=
  let c := s.cfg.part m.part
  (!m.device || (s.power.cfgNow == s.cfg.pwrCfg && s.power.ceilNow == s.cfg.opCeil))
    && ((s.cfg.ctxs ++ s.ctxs.map fun x => (x.1, s.cfg.ctx x.1)).all fun x =>
      (!m.device && !(c.qbase ≤ x.1 && x.1 < c.qbase + c.qcount))
        || ((s.ctx x.1).live.weight == x.2.weight && (s.ctx x.1).live.enable == x.2.enable))

/-- A commit ends once nothing of it is left; a COMMIT command completes with its status when every field but the ring fields has taken
effect (R221, R251). -/
def State.finishCommits (s : State) : State :=
  s.commits.foldl (fun s m =>
    if m.settled && (m.seq.isNone || s.inForce m) then
      let s := { s with commits := s.commits.filter fun k => k != m }
      match m.seq with
      | some q => s.complete q m.status
      | none => s
    else s) s

/-- A running command stops with a status: its pans issue nothing more (R110). -/
def State.stopCmd (s : State) (seq : DWord) (status : Byte) : State := s.complete seq status

-- ## The end of a race request (R181 to R183, R194 to R197)

/-- A request completes with a result: COUNT advances, and RACE_SEQ, RACE_STATUS and RACE_TIME describe this request, which took the
given counts of pan and fabric cycles. -/
def Slot.finish (v : Slot) (result : BitVec 4) (pan fabric : Nat) : Slot :=
  let slow := decide (1000 < fabric)
  { v with tag := v.newTag, count := v.count + 1, late := slow, lateEver := v.lateEver || slow
           causes := if slow then v.met else 0, result
           time := BitVec.ofNat 32 (min pan 0xFFFF * 0x10000 + min fabric 0xFFFF), ended := false }

/-- A request is cut short with a result: how many cycles it had taken by then is no rule's to say. -/
def State.raceCut (s : State) (i : Nat) (st : SlotState) (result : BitVec 4) : State :=
  let (k, s) := s.draw
  let (j, s) := s.draw
  s.modSlot i fun v => { v.finish result (freeCycles k).toNat (freeCycles j).toNat with st }

/-- The pan that a slot's request runs on, or whose memories a waiting disarm clears; otherwise the slot's pan. -/
def State.reqPan (s : State) (i : Nat) : Nat := if (s.slot i).disarm then (s.slot i).clearPan else s.cfg.slotPan i

/-- A slot loses its pan: a request in progress completes with POISON, and the slot shows FAILED. A disarm that waited for the request goes
on (R192, R196). -/
def State.raceFail (s : State) (i : Nat) : State :=
  let v := s.slot i
  if v.st = .busy then s.raceCut i .failed 4
  else if v.st = .armed || v.st = .arming then s.setSlot i { v with st := .failed }
  else s

/-- What a slot shows once it has left service: FAILED lasts until a committed configuration has given it another eligible pan (R196). -/
def State.outState (s : State) (i old : Nat) : SlotState :=
  let p := s.cfg.slotPan i
  if (s.slot i).st = .failed && !(1 ≤ p && p ≤ 5 && p != old && !(s.pan p).bunded) then .failed else .disarmed

-- ## Bunding (R439 to R443)

/-- A pan is bunded: out of reach, its clock gated, its command stopped with POISON. -/
def State.bundPan (s : State) (p src : Nat) (met : Met) : State :=
  if (s.pan p).bunded then s else
    let owner := s.panPart p
    let run := (s.pan p).run
    let s := s.record eBund src p 0 met
    let s := s.modPan p fun v => { v.leave with bunded := true, st := .idle, holds := [], gated := true }
    let s := s.event 0x80 evBunded (match owner with | some q => BitVec.ofNat 8 q | none => 0xFF) (BitVec.ofNat 8 p)
    let s := s.lockPan p 8
    let s := (List.range 4).foldl (fun s i =>
      if s.reqPan i == p && ((s.slot i).st = .busy || s.slotOf p == some i) then s.raceFail i else s) s
    match run with
    | some r => if r.race then s else s.stopCmd r.seq stPoison
    | none => s

/-- The partitions whose vault share holds granules of a vault. -/
def State.vaultUsers (s : State) (v : Nat) : List Nat :=
  partsAll.filter fun p => s.inService p && fld ((s.cfg.part p).vshare.look 0 v).toNat 8 6 != 0

/-- A vault is bunded; vault 7 is FATAL (R434, R442, R443). -/
def State.bundVault (s : State) (v src addr : Nat) (met : Met) : State :=
  if s.errs.vaults.getLsbD v then s else
    let s := s.record eBund src (0x40 + v) addr met
    let s := { s with errs := { s.errs with vaults := s.errs.vaults ||| BitVec.ofNat 8 (2 ^ v) } }
    let users := s.vaultUsers v
    let s := (if users.isEmpty then [0xFF] else users).foldl
      (fun s p => s.event 0x80 evBunded (BitVec.ofNat 8 p) (BitVec.ofNat 8 (0x40 + v))) s
    let s := s.lockWhere (fun c => c.onPath v v) 8
    if v = 7 then s.fatal 5 src 0x47 else s

/-- The check pattern is left in a unit of a vault or of LPDDR5X (R435, R438). -/
def State.poisonUnit (s : State) (src addr : Nat) (met : Met) : State :=
  let u := addr / 16 * 16
  let seen := s.poison.contains u
  let unit := match vaultOf u, portOf u with
    | some v, _ => 0x40 + v
    | none, some p => 0x48 + p
    | none, none => 0x50
  let s := (s.record ePoison src unit u met).mark u
  match vaultOf u with
  | some v =>
    if seen || src != 3 then s else
      let n := (s.errs.vpoison.look 0 v).toNat + 1
      let s := { s with errs := { s.errs with vpoison := s.errs.vpoison.put 0 v (BitVec.ofNat 8 (min n 255)) } }
      if n = 16 then s.bundVault v src u met else s
  | none => s

/-- The class and unit by which coinciding errors are ordered (R445). -/
def detRank : Detection → Nat
  | .vaultArray u => 0x40 + u.toNat / vaultSize
  | .lpInline u => 0x48 + (u.toNat - lpBase) / lpStride
  | .meshData _ => 0x50
  | .meshHeader => 0x50
  | .panStore => 0x100
  | .instrMemory => 0x100
  | .accParity => 0x100
  | .bondFail u => 0x140 + u.toNat / vaultSize
  | .salternSram => 0x400
  | .bondRetry _ _ => 0x500
  | .corrected _ _ _ => 0x500

/-- Detections in the order their records are written. -/
def sortDetections (ds : List Detection) : List Detection :=
  ds.foldl (fun acc d => acc.takeWhile (fun e => detRank e ≤ detRank d) ++ d :: acc.dropWhile (fun e => detRank e ≤ detRank d)) []

/-- What one detection does to the device (Table 18.2); `pan` is the pan whose access met it. Without inline ECC a port has no check that
could meet an inline error (R114, Table 5.4). -/
def State.detect (s : State) (pan : Option Nat) (met : Met) (d : Detection) : State :=
  match d with
  | .panStore => match pan with | some p => s.bundPan p 0 met | none => s
  | .instrMemory => match pan with | some p => s.bundPan p 1 met | none => s
  | .accParity => match pan with | some p => s.bundPan p 2 met | none => s
  | .vaultArray u => if (vaultOf u.toNat).isSome then s.poisonUnit 3 u.toNat met else s
  | .bondRetry u n =>
    if (vaultOf u.toNat).isNone then s else
    { s with errs := { s.errs with bondRetry := satAdd s.errs.bondRetry n.toNat } }
  | .bondFail u =>
    match vaultOf u.toNat with
    | some v => ({ s with errs := { s.errs with bondRetry := satAdd s.errs.bondRetry 4 } }).bundVault v 4 u.toNat met
    | none => s
  | .lpInline u => if (portOf u.toNat).isSome && bitAt s.memSys.memCfg.toNat 10 then s.poisonUnit 6 u.toNat met else s
  | .meshData u => s.record ePoison 7 0x50 u.toNat met
  | .meshHeader => s.record ePoison 7 0x50 0 met
  | .salternSram => s.fatal 4 8 0x51
  | .corrected a v l =>
    { s with errs := { s.errs with panCorr := satAdd s.errs.panCorr a.toNat, vaultCorr := satAdd s.errs.vaultCorr v.toNat
                                   lpCorr := satAdd s.errs.lpCorr l.toNat } }

def State.detectAll (s : State) (pan : Option Nat) (met : Met) (ds : List Detection) : State :=
  (sortDetections ds).foldl (fun s d => s.detect pan met d) s

/-- A detection that stops the access it meets whatever memory it reads: a lost header, a bad data flit, a failed burst. -/
def detStops : Detection → Bool
  | .meshData _ | .meshHeader | .bondFail _ => true
  | .panStore | .instrMemory | .accParity | .vaultArray _ | .bondRetry _ _ | .lpInline _ | .salternSram | .corrected _ _ _ => false

-- ## Key slots (R304, R307)

def State.key (s : State) (n : Nat) : KeySlot := s.saltern.slots.look {} n
def KeySlot.type (k : KeySlot) : Nat := fld k.attr.toNat 52 4
def KeySlot.usage (k : KeySlot) : Nat := fld k.attr.toNat 48 4
def KeySlot.lcMask (k : KeySlot) : Nat := fld k.attr.toNat 42 6
def KeySlot.world (k : KeySlot) : Nat := fld k.attr.toNat 37 5
def KeySlot.initMask (k : KeySlot) : Nat := fld k.attr.toNat 64 64

/-- The messages of the contexts that satisfy a test end with ABORTED: the contexts are wiped and released (R307, R318, R349). -/
def Engines.abortCtxs (e : Engines) (f : DigestCtx → Bool) : Engines :=
  { e with ctxs := e.ctxs.filter fun c => !f c.2
           aborted := e.aborted ++ (e.ctxs.filter fun c => c.2.busy && f c.2).map fun c => (c.2.op.toNat, c.2.slot) }

/-- The PKE engine's memories are wiped; the Keccak state holds nothing between programs (R360). -/
def Engines.wipePke (e : Engines) : Engines := { e with operands := [], hidden := [], poly := [] }

/-- The program that runs is aborted: its memories are wiped, and it returns ABORTED (R360, Table 14.5). -/
def Engines.abortPke (e : Engines) : Engines :=
  if e.pke.isEmpty then e else { e.wipePke with pke := e.pke.drop 1, result := 7 }

/-- What a slot's zeroisation does to the engines: a message that holds its key, and a program that uses it, are aborted (R307, R360). -/
def Engines.dropSlot (e : Engines) (n : Nat) : Engines :=
  let e := e.abortCtxs fun c => c.slot == some n
  if (e.pke.head?.bind fun r => r.slot) = some n then e.abortPke else e

/-- Every context holds a message, so that a request needing one waits (R350). -/
def State.ctxsFull (s : State) : Bool := (List.range 4).all fun i => (s.eng.ctxs.look {} i).busy

/-- A slot is zeroised, and what uses its key ends (R307). -/
def State.zeroiseSlot (s : State) (n : Nat) : State :=
  { s with saltern := { s.saltern with slots := s.saltern.slots.put {} n {} }, eng := s.eng.dropSlot n }

/-- The slots whose record satisfies a test, zeroised (R307). -/
def State.zeroiseWhere (s : State) (f : KeySlot → Bool) : State :=
  (s.saltern.slots.filter fun k => f k.2).foldl (fun s k => s.zeroiseSlot k.1) s

/-- The partition an initiator's binding names, in service or in teardown. -/
def State.boundRaw (s : State) (ini : Ini) : Option Nat :=
  let b := s.bindOf ini
  if ini.toNat < 64 && bitAt b 8 && bitAt (s.cfg.part (fld b 0 4)).pdef.toNat 31 then some (fld b 0 4) else none

end Sys2Proof.Machine
end

