-- ==== Sys2Proof/Machine/PanExec.lean ====
section
/-! DEFINITION. How a pan executes one instruction: fetch and decode at its program counter (R77, R79, R80, R106), the errors
that stop it (R110, R436, R439), the advance through loops (R103 to R106), and the pan's memories as operands (R86). Results are
those of strictly sequential execution (R84), so an instruction takes effect whole before the pan's next one. -/
namespace Sys2Proof.Machine

/-- What an instruction's meaning is given. -/
structure PEnv where
  p : Nat
  run : PanRun
  /-- The word after replacement and stepping. -/
  w : Nat
  /-- The descriptor words held, as delivered. -/
  descs : List Nat
  deriving DecidableEq, Repr

-- ## The pan's memories (R86)

/-- Address of byte `k` of an operand: the store wraps at 2 MiB, the accumulator at 1,024 rows of 256 B. -/
def slotAddr (p : Nat) (sl : Slot22) (k : Nat) : Nat :=
  if sl.acc then accBase p + (sl.ofs * 256 + k) % 0x40000 else storeBase p + (sl.ofs + k) % 0x200000

def State.slotRead (s : State) (p : Nat) (sl : Slot22) (k n : Nat) : List Byte :=
  (List.range n).map fun i => Tab.look s.mem 0 (slotAddr p sl (k + i))

/-- Bytes from offset `a` of a memory of `size` bytes on; a run that reaches its end goes on at its start, as often as it is long. -/
def wrapWrite (fuel : Nat) (s : State) (base size a : Nat) (bs : List Byte) : State :=
  match fuel with
  | 0 => s
  | fuel + 1 =>
    if bs.length ≤ size - a then s.write (base + a) bs
    else wrapWrite fuel (s.write (base + a) (bs.take (size - a))) base size 0 (bs.drop (size - a))

/-- Size of the memory an operand lies in. -/
def Slot22.size (sl : Slot22) : Nat := if sl.acc then 0x40000 else 0x200000

/-- Bytes to an operand; a run that reaches the wrap goes on at its start. -/
def State.slotWrite (s : State) (p : Nat) (sl : Slot22) (k : Nat) (bs : List Byte) : State :=
  let base := if sl.acc then accBase p else storeBase p
  let m := wrapWrite (bs.length / sl.size + 2) s base sl.size (((if sl.acc then sl.ofs * 256 else sl.ofs) + k) % sl.size) bs
  { s with mem := m.mem, poison := m.poison }

/-- `n` elements of a format. -/
def State.slotElems (s : State) (p : Nat) (sl : Slot22) (k : Nat) (f : Fmt) (n : Nat) : List Nat :=
  unpack f (s.slotRead p sl k (cdiv (n * f.bits) 8)) n

/-- Elements written packed; the half byte beyond an odd count of 4-bit elements keeps its value. -/
def State.putElems (s : State) (p : Nat) (sl : Slot22) (k : Nat) (f : Fmt) (cs : List Nat) : State :=
  let cs := if f.bits = 4 && cs.length % 2 == 1 then
      cs ++ [fld (leNat (s.slotRead p sl (k + cs.length / 2) 1)) 4 4] else cs
  s.slotWrite p sl k (pack f cs)

/-- Sticky flags join PAN_ARITH (R55). -/
def State.addFlags (s : State) (p : Nat) (f : AFlags) : State := s.modPan p fun v => { v with arith := v.arith ||| f }

-- ## Fetch (R79, R80)

/-- Index in instruction memory of the word at a program counter. -/
def imemIndex (v : Pan) (pc : Nat) : Nat :=
  if v.streamed then 4096 + 2048 * (pc / 2048 % 2) + pc % 2048 else v.nDesc + pc

/-- The block of a streamed program that holds the program counter is there. -/
def blockHere (v : Pan) : Bool := !v.streamed || v.blocks.contains (v.pc / 2048)

/-- The pan may issue: it runs something, nothing halts, fences or stops it, its block has arrived, and no append that a MATMUL
began is still to be made (R84, R161). -/
def State.canIssue (s : State) (p : Nat) : Bool :=
  let v := s.pan p
  !s.edge.stopped && !v.bunded && v.st == .run && v.holds.isEmpty && v.run.isSome && v.append.isNone && blockHere v

def State.panDescs (s : State) (p : Nat) : List Nat :=
  (List.range (s.pan p).nDesc).map fun i => s.readN (imemBase p + 16 * i) 16

/-- An instruction whose traffic the time lock of another command keeps waiting (R268): a COPY with a remote end behind locked rows, a
GATHER while its partition's pages or the page table lie there (DESIGN CHOICE [log 79]: any of them), and a confluence of a set with
such rows between its pans. -/
def State.pathWaits (s : State) (e : PEnv) : Bool :=
  let y := e.p / 8
  let held (a : Nat) : Bool := s.addrHeld (some e.run.seq) y a
  !e.run.race && s.cmds.any (fun c => c.locked && c.seq != e.run.seq)
    && (if iClass e.w = kMove then
          iFunc e.w == 0 && (List.range (fld e.w 45 10 + 1)).any fun i =>
            held (fld e.w 55 40 + i * (if fld e.w 5 16 = 0 then (fld e.w 33 12 + 1) * 16 else fld e.w 5 16 * 16))
        else if iClass e.w = kGather then (s.kvHeld e.run.part).any fun r => held r.1 || held (r.1 + r.2 - 1)
        else iClass e.w = kConf && match s.cmd? e.run.seq with
          | some c => c.pans.any fun q => s.pathHeld (some e.run.seq) y (q / 8)
          | none => false)

/-- What the pan is to execute next. -/
def State.fetch (s : State) (p : Nat) : Option PEnv :=
  let v := s.pan p
  if !s.canIssue p then none else
    match v.run with
    | none => none
    | some run =>
      let descs := s.panDescs p
      match cleanWord descs (s.readN (imemBase p + 16 * imemIndex v v.pc) 16) with
      | none => none
      | some w =>
        let e : PEnv := { p, run, descs, w := stepWord w (v.loops.map fun l => (l.iter, l.sa, l.sb, l.sd)) }
        if s.pathWaits e then none else some e

/-- Who meets an error while the pan runs. -/
def PEnv.met (e : PEnv) : Met := { part := some e.run.part, seq := if e.run.race then none else some e.run.seq }

-- ## The end of an instruction

/-- The program counter after an instruction, through every loop body that ends there (R104). -/
def advanceLoops (next : Nat) : List LoopFrame → Nat × List LoopFrame
  | [] => (next, [])
  | f :: fs =>
    if next = f.start + f.body then
      if f.iter + 1 < f.count then (f.start, { f with iter := f.iter + 1 } :: fs) else advanceLoops next fs
    else (next, f :: fs)

/-- The pan's part in its command or request ends (R103, R110). -/
def State.endPan (s : State) (p : Nat) : State :=
  match (s.pan p).run with
  | none => s
  | some r =>
    let off := (s.pan p).stepOff
    let s := s.modPan p Pan.leave
    if r.race then s.modSlot r.slot fun v => { v with ended := true }
    else
      let s := s.modCmd r.seq fun c => { c with ended := c.ended ++ [(p, off)] }
      match s.cmd? r.seq with
      | none => s
      | some c =>
        if !c.arrived.isEmpty then s.stopCmd r.seq stAborted
        else if c.ended.length = c.pans.length then s.complete r.seq stOk
        else s

/-- The program counter moves on; past the last word the pan behaves as if it had executed END (R103). -/
def State.advance (s : State) (p : Nat) : State :=
  let v := s.pan p
  let (pc, loops) := advanceLoops (v.pc + 1) v.loops
  if pc < v.nInstr then s.modPan p fun v => { v with pc, loops }
  else (s.modPan p fun v => { v with pc := v.nInstr - 1 }).endPan p

/-- The command the pan runs stops; a race request that cannot go on fails its slot (R110, R196). -/
def State.stopPan (s : State) (e : PEnv) (status : Byte) : State :=
  if e.run.race then (s.raceFail e.run.slot).modPan e.p Pan.leave else s.stopCmd e.run.seq status

/-- Counters that a pan's instruction moves: what it issued, and the cycles of the unit it used (Tables 4.3, 19.7). PAN_CYCLE
advances by an amount no rule fixes (R54). -/
structure Cost where
  cell : Nat := 0
  vec : Nat := 0
  move : Nat := 0
  deriving DecidableEq, Repr

def State.charge (s : State) (p : Nat) (c : Cost) : State :=
  let (k, s) := s.draw
  s.modPan p fun v =>
    let v := { v with cycles := v.cycles + BitVec.ofNat 64 (freeCycles k).toNat }
    if v.freeze then v else
      { v with profIssue := v.profIssue + 1, profCell := v.profCell + BitVec.ofNat 64 c.cell
               profVec := v.profVec + BitVec.ofNat 64 c.vec, profMove := v.profMove + BitVec.ofNat 64 c.move }

/-- A pan whose clock was not gated has taken the pan cycles of the idle stretch before a new start: an amount that no rule fixes
(R54). -/
def State.idleRun (s : State) (p : Nat) : State :=
  if (s.pan p).gated then s else
    let (k, s) := s.draw
    s.modPan p fun v => { v with cycles := v.cycles + BitVec.ofNat 64 (freeCycles k).toNat }

/-- What an instruction leaves: the state, and the status its command stops with, if it stops. -/
structure Done where
  s : State
  stop : Option Byte := none
  cost : Cost := {}
  /-- The program counter has been dealt with (END, LOOP, CONFLUENCE). -/
  stay : Bool := false
  deriving DecidableEq, Repr

/-- An instruction of the given class and function at a pan's program counter, with the errors its unit's checks found. Where
the pan is not about to execute such an instruction the event has no occasion and changes nothing. -/
def panRow (cls : Nat) (func : Nat → Bool) (act : PEnv → State → Done) (p : BitVec 6) (ds : List Detection) (s : State) : State :=
  match s.fetch p.toNat with
  | none => s
  | some e =>
    if iClass e.w != cls || !func e.w then s else
      let s := s.detectAll (some e.p) e.met ds
      if (s.pan e.p).run != some e.run || s.edge.stopped then s
      else if ds.any detStops then s.stopPan e stPoison
      else
        let r := act e s
        match r.stop with
        | some st => r.s.stopPan e st
        | none =>
          let s := r.s.charge e.p r.cost
          if r.stay then s else s.advance e.p

/-- A meaning that always completes. -/
def plain (s : State) (cost : Cost) : Done := { s, cost }

/-- The function of a word is the one named. -/
def funcIs (f w : Nat) : Bool := iFunc w == f

end Sys2Proof.Machine
end

