-- ==== Sys2Proof/Machine/Matmul.lean ====
section
/-! DEFINITION. MATMUL: the fold of R40 to R43, the scaled product of R64 to R68, operand layouts (R61 to R63, R93), costs
(R50, R51); QUANT and DEQUANT (R71, R72, R97). -/
namespace Sys2Proof.Machine

-- ## Quantisation descriptors as read (Table 3.1)

inductive Gran where
  | group | row | tensor
  deriving DecidableEq, Repr

/-- A descriptor in force for an operand; none means scale 1.0 and zero point 0 (R56). -/
structure QDesc where
  fmt : Fmt
  bf16Scale : Bool
  asym : Bool
  gran : Gran
  gsize : Nat
  addr : Nat
  stride : Nat
  deriving DecidableEq, Repr

/-- The fields of a descriptor word, after its replacements. -/
def qdesc (descs : List Nat) (d : Nat) : Option QDesc :=
  if d = 0 then none else
    match cleanQuant (descAt descs d) with
    | none => none
    | some c =>
      match fmt3 (fld c 0 3) with
      | none => none
      | some fmt => some
        { fmt, bf16Scale := bitAt c 3, asym := bitAt c 4
          gran := match fld c 5 2 with | 0 => .group | 1 => .row | _ => .tensor
          gsize := fld c 8 8, addr := fld c 16 21, stride := fld c 48 16 * 16 }

/-- Groups along the reduction index. -/
def QDesc.ng (q : QDesc) (k : Nat) : Nat := if q.gran = .group then cdiv k q.gsize else 1
/-- The group that index `i` falls in. -/
def QDesc.groupOf (q : QDesc) (i : Nat) : Nat := if q.gran = .group then i / q.gsize else 0

def QDesc.scaleFmt (q : QDesc) : FFmt := if q.bf16Scale then fBf16 else fFp16

/-- The FP32 bits of a stored scale; the widening is exact (R58). -/
def QDesc.widen (q : QDesc) (c : Nat) : Nat := (Arith.go (rne32 (q.scaleFmt.decode c))).1

/-- A zero point of stored bits, at the data's width and signedness (R57). -/
def QDesc.zeroOf (q : QDesc) (c : Nat) : Int := if q.asym then q.fmt.intOf c else 0

/-- Bytes of the pan store, modulo 2 MiB. -/
def State.storeRead (s : State) (p a n : Nat) : List Byte := s.slotRead p { acc := false, ofs := a } 0 n
def State.storeN (s : State) (p a n : Nat) : Nat := leNat (s.storeRead p a n)

/-- Scale bits and zero point of an activation's row and group (R63). -/
def actMeta (s : State) (p : Nat) (q : QDesc) (k m g : Nat) : Nat × Int :=
  let rec' := q.addr + (if q.gran = .tensor then 0 else m * q.stride)
  (s.storeN p (rec' + 2 * g) 2, q.zeroOf (s.storeN p (rec' + 2 * q.ng k + g) 1))

/-- Scale bits and zero point of a weight's column and group (R62). -/
def weightMeta (s : State) (p : Nat) (q : QDesc) (n cols g : Nat) : Nat × Int :=
  if q.gran = .tensor then (s.storeN p q.addr 2, q.zeroOf (s.storeN p (q.addr + 2) 1))
  else
    let rb := if !q.asym then 128 else if q.fmt.bits = 4 then 160 else 192
    let rec' := q.addr + (g * cdiv cols 64 + n / 64) * rb
    let j := n % 64
    let z := if q.fmt.bits = 4 then fld (s.storeN p (rec' + 128 + j / 2) 1) (4 * (j % 2)) 4 else s.storeN p (rec' + 128 + j) 1
    (s.storeN p (rec' + 2 * j) 2, q.zeroOf z)

-- ## One fold step

/-- acc := rne32(acc + x × y), the product exact; a NaN that comes of no NaN sets NAN_GEN (R40, R42). -/
def accStep (acc : Nat) (x y : FV) : Arith Nat := do
  let r := (x.mul y).add (v32 acc)
  raiseIf (r.isNan && !(x.isNan || y.isNan || (v32 acc).isNan)) fNanGen
  rne32 r

/-- A fold step on operands: a NaN among them sets NAN_IN. -/
def foldStep (acc : Nat) (x y : FV) : Arith Nat := do
  raiseIf (x.isNan || y.isNan) fNanIn
  accStep acc x y

/-- The fold over pairs in ascending k. -/
def foldPairs (acc : Nat) : List (FV × FV) → Arith Nat
  | [] => pure acc
  | x :: xs => do
    let acc ← foldStep acc x.1 x.2
    foldPairs acc xs

/-- A list in pieces of `n`; `fuel` bounds their number. -/
def chunks {α : Type} (fuel n : Nat) (l : List α) : List (List α) :=
  match fuel with
  | 0 => []
  | fuel + 1 => if l.isEmpty then [] else l.take n :: chunks fuel n (l.drop n)

/-- sat32 after each partial sum, in order. -/
def satFold (acc : Int) : List Int → Arith Int
  | [] => pure acc
  | x :: xs => do
    let acc ← sat32 (acc + x)
    satFold acc xs

def Fmt.isInt (f : Fmt) : Bool := f.float.isNone
/-- An unsigned integer format enters the cells re-biased (R64). -/
def Fmt.isUnsigned (f : Fmt) : Bool := f == .uint4 || f == .uint8

/-- The unscaled integer fold: one saturation per step, whose depth is one index, two for INT4 pairs (R41), and the mode's
reduction step where an operand is unsigned (R64). -/
def intFold (fa fb : Fmt) (acc : Nat) (xs : List (Int × Int)) : Arith Nat := do
  let depth := if fa.isUnsigned || fb.isUnsigned then (rateOf fa fb).depth else if rateOf fa fb = .int4 then 2 else 1
  let parts := (chunks xs.length depth xs).map fun c => (c.map fun x => x.1 * x.2).foldl (· + ·) 0
  let r ← satFold (i32 acc) parts
  pure (ofI32 r)

-- ## Operand elements

/-- Activation codes of a row (R93). -/
def actRow (s : State) (p : Nat) (f : Fmt) (base stride m k : Nat) : List Nat :=
  s.slotElems p { acc := false, ofs := base } (m * stride) f k

/-- Weight code (k, n) in the tiles of R61. -/
def weightAt (s : State) (p : Nat) (f : Fmt) (base cols n k : Nat) : Nat :=
  let kp := if f.bits = 4 then 128 else 64
  let t := if f = .bf16 then 8192 else 4096
  let a := base + (k / kp * cdiv cols 64 + n / 64) * t
  let i := n % 64 * kp + k % kp
  if f.bits = 4 then fld (s.storeN p (a + i / 2) 1) (4 * (i % 2)) 4 else s.storeN p (a + i * f.bytes) f.bytes

/-- The value that enters a float fold: a code less its zero point, exactly (R66). -/
def floatOperand (f : Fmt) (z : Int) (c : Nat) : FV :=
  if f.isInt then let d := f.intOf c - z; .fin (decide (d < 0)) d.natAbs 0 else f.value c

/-- An operand's scale and zero point for a group index; 1.0 and 0 without a descriptor. -/
abbrev MetaFn := Nat → Nat × Int

/-- One group of a scaled product: sig × c for integers (R65), sig × p for floats (R66). -/
def groupStep (fa fb : Fmt) (acc : Nat) (sa sw : Nat × Int) (xs : List (Nat × Nat)) : Arith Nat := do
  let sig ← mul32 sa.1 sw.1
  if fa.isInt && fb.isInt then
    let c := (xs.map fun x => (fa.intOf x.1 - sa.2) * (fb.intOf x.2 - sw.2)).foldl (· + ·) 0
    accStep acc (v32 sig) (.fin (decide (c < 0)) c.natAbs 0)
  else
    let p ← foldPairs 0 (xs.map fun x => (floatOperand fa sa.2 x.1, floatOperand fb sw.2 x.2))
    accStep acc (v32 sig) (v32 p)

/-- The groups of a scaled product in ascending order (R65, R67). -/
def scaledFold (fa fb : Fmt) (ma mw : MetaFn) (size : Nat) (g : Nat) (acc : Nat) : List (List (Nat × Nat)) → Arith Nat
  | [] => pure acc
  | xs :: rest => do
    let acc ← groupStep fa fb acc (ma (g * size)) (mw (g * size)) xs
    scaledFold fa fb ma mw size (g + 1) acc rest

/-- The group size that the pair of descriptors gives a product of depth k (R67). -/
def pairGroup (qa qb : Option QDesc) (k : Nat) : Nat :=
  let size (q : Option QDesc) := match q with
    | some d => if d.gran = .group then some d.gsize else none
    | none => none
  match size qa, size qb with
  | some a, some b => min a b
  | some a, none => a
  | none, some b => b
  | none, none => max 1 k

def one32 : Nat := 0x3F800000

/-- One element of C. -/
def mmElement (s : State) (p : Nat) (fa fb : Fmt) (qa qb : Option QDesc) (bbase cols k m n acc : Nat) (row : List Nat) :
    Arith Nat :=
  let col := (List.range k).map (weightAt s p fb bbase cols n)
  match qa, qb with
  | none, none =>
    if fa.isInt && fb.isInt then intFold fa fb acc ((row.zip col).map fun x => (fa.intOf x.1, fb.intOf x.2))
    else foldPairs acc ((row.zip col).map fun x => (floatOperand fa 0 x.1, floatOperand fb 0 x.2))
  | _, _ =>
    let size := pairGroup qa qb k
    let ma : MetaFn := fun i => match qa with
      | some q => let x := actMeta s p q k m (q.groupOf i); (q.widen x.1, x.2)
      | none => (one32, 0)
    let mw : MetaFn := fun i => match qb with
      | some q => let x := weightMeta s p q n cols (q.groupOf i); (q.widen x.1, x.2)
      | none => (one32, 0)
    scaledFold fa fb ma mw size 0 acc (chunks k size (row.zip col))

/-- One accumulator row of C: row m of column block b (R93). -/
def mmRow (e : PEnv) (fa fb : Fmt) (qa qb : Option QDesc) (load : Bool) (rows cols k : Nat) (s : State) (b m : Nat) : State :=
  let astride := if fld e.w 30 10 = 0 then cdiv (k * fa.bits) 128 * 16 else fld e.w 30 10 * 16
  let row := actRow s e.p fa (fld e.w 40 17 * 16) astride m k
  let sl : Slot22 := { acc := true, ofs := fld e.w 11 10 }
  let off := (b * rows + m) * 256
  let n := min 64 (cols - 64 * b)
  let old := if load then s.slotElems e.p sl off .fp32 n else List.replicate n 0
  let r := Arith.go ((old.zipIdx).mapM fun x =>
    mmElement s e.p fa fb qa qb (fld e.w 21 9 * 4096) cols k m (64 * b + x.2) x.1 row)
  (s.putElems e.p sl off .fp32 r.1).addFlags e.p r.2

/-- R50 in tile mode, R51 in stream mode. -/
def mmCost (stream : Bool) (r : Rate) (m k n : Nat) : Nat :=
  if stream then cdiv k r.depth * cdiv n r.c + 96 else 64 + cdiv k r.depth * cdiv n 64 * max (m * r.r) 64 + 128

/-- MATMUL in either mode: the bits are the same (R41, R68). With KVAPP the rows are handed to the append path (R92). -/
def mmAct (e : PEnv) (s : State) : Done :=
  match fmt3 (fld e.w 116 3), fmt3 (fld e.w 113 3) with
  | some fa, some fb =>
    let qa := qdesc e.descs (fld e.w 105 8)
    let qb := qdesc e.descs (fld e.w 97 8)
    let rows := fld e.w 87 10 + 1
    let k := fld e.w 73 14 + 1
    let cols := fld e.w 57 16 + 1
    let cells := (List.range (cdiv cols 64)).flatMap fun b => (List.range rows).map fun m => (b, m)
    let s := cells.foldl (fun s c => mmRow e fa fb qa qb (bitAt e.w 121) rows cols k s c.1 c.2) s
    let job : AppendJob :=
      { desc := BitVec.ofNat 128 (cleanAppend (descAt e.descs (fld e.w 2 8)) cols), rows, cols, drow := fld e.w 11 10
        isInt := fa.isInt && fb.isInt && qa.isNone && qb.isNone }
    let s := if bitAt e.w 10 then s.modPan e.p fun v => { v with append := some job } else s
    plain s { cell := mmCost (bitAt e.w 120) (rateOf fa fb) rows k cols }
  | _, _ => plain s {}

def execMatmulTile (p : BitVec 6) (ds : List Detection) (s : State) : Host.Outcome State Fault Refusal :=
  .next (panRow kMatmul (fun w => !bitAt w 120) mmAct p ds s)
def execMatmulStream (p : BitVec 6) (ds : List Detection) (s : State) : Host.Outcome State Fault Refusal :=
  .next (panRow kMatmul (fun w => bitAt w 120) mmAct p ds s)

-- ## QUANT (R71)

/-- qmin and qmax of the target; a float target has its largest finite value as qmax. -/
def quantMax (f : Fmt) : Nat :=
  match f.float with
  | some ff => (Arith.go (rne32 (ff.decode ff.maxCode))).1
  | none => int32f f.range.2

/-- The largest of 0 and the elements that are not NaN, or the smallest. -/
def extreme (pick : Nat → Nat → Arith Nat) (xs : List Nat) : Nat :=
  (Arith.go ((xs.filter fun x => !(v32 x).isNan).foldlM pick 0)).1

/-- An FP32 value narrowed to a scale format, 1.0 in place of a zero. -/
def toScale (q : QDesc) (x : Nat) : Arith Nat := do
  let c ← q.scaleFmt.narrow (v32 x)
  pure (if c % q.scaleFmt.signBit = 0 then (if q.bf16Scale then 0x3F80 else 0x3C00) else c)

/-- rne32 of 1 ÷ n. -/
def recipOf (n : Int) : Nat := (Arith.go (recip32 (int32f n))).1

/-- The runtime scale and zero point of a group (the asymmetric or the symmetric branch), from mx and mn. -/
def runtimeScale (q : QDesc) (mx mn : Nat) : Arith (Nat × Int) := do
  if q.asym && q.fmt.isInt then
    let rng ← sub32 mx mn
    let k := recipOf (q.fmt.range.2 - q.fmt.range.1)
    let x ← mul32 rng k
    let s ← toScale q x
    let inv ← recip32 (q.widen s)
    let t ← mul32 mn inv
    let t ← sub32 (int32f q.fmt.range.1) t
    let z ← q.fmt.clampInt (v32 t).toInteger
    pure (s, q.fmt.intOf z)
  else
    let m ← max32 mx (Arith.go (neg32 mn)).1
    let x ← mul32 m (Arith.go (recip32 (quantMax q.fmt))).1
    let s ← toScale q x
    pure (s, 0)

/-- One element's code under a scale's reciprocal. In integer codes a NaN product gives code z with NARROW_SAT: of a NaN element by R71,
and of an element that meets a zero, infinite or NaN reciprocal by Table 2.9, which sets the flag for any NaN converted to an
integer (DEDUCED [log 70]). -/
def quantOne (f : Fmt) (inv : Nat) (z : Int) (x : Nat) : Arith Nat := do
  let y ← mul32 x inv
  match f.float with
  | some ff => ff.narrow (v32 y)
  | none =>
    if (v32 y).isNan then
      raise fNarrowSat
      f.clampInt z
    else f.clampInt ((v32 y).toInteger + z)

/-- The codes of a group, and the scale and zero point they were made with. -/
def quantGroup (q : QDesc) (learned : Option (Nat × Int)) (xs : List Nat) : Arith (List Nat × Nat × Int) := do
  let sz ← match learned with
    | some x => pure x
    | none => runtimeScale q (extreme max32 xs) (extreme min32 xs)
  let inv ← recip32 (q.widen sz.1)
  let codes ← xs.mapM (quantOne q.fmt inv sz.2)
  pure (codes, sz)

/-- QUANT input element `i` of a row as FP32 (R97). -/
def quantInput (s : State) (p : Nat) (sl : Slot22) (ifmt off k : Nat) : Arith (List Nat) :=
  match ifmt with
  | 1 => (s.slotElems p sl off .int32 k).mapM fun x => convert .int32 .fp32 x
  | 2 => pure ((s.slotElems p sl off .bf16 k).map fun x => (Arith.go (rne32 (fBf16.decode x))).1)
  | _ => pure (s.slotElems p sl off .fp32 k)

/-- The row strides of Table 4.9. 0 means packed; where a row is no multiple of 16 B, the next begins at the next whole 16 B unit
(DESIGN CHOICE [log 70]: no rule says so). -/
def qdStride (field bytes : Nat) : Nat := if field = 0 then cdiv bytes 16 * 16 else field * 16

/-- A scale and zero point to the metadata record of a row and group (R63). Bits [7:4] of the byte of a 4-bit zero point are ignored
when read, and no rule says what QUANT writes there: 0 (DESIGN CHOICE [log 70]). -/
def putMeta (s : State) (p : Nat) (q : QDesc) (k m g : Nat) (sz : Nat × Int) : State :=
  let rec' := q.addr + (if q.gran = .tensor then 0 else m * q.stride)
  let at' (a : Nat) : Slot22 := { acc := false, ofs := a }
  let s := s.slotWrite p (at' (rec' + 2 * g)) 0 (leBytes 2 sz.1)
  if q.asym then s.slotWrite p (at' (rec' + 2 * q.ng k + g)) 0 (leBytes 1 (sz.2 % 2 ^ q.fmt.bits).toNat) else s

/-- Groups of one row: pieces of GSIZE, or the whole row. -/
def rowGroups (q : QDesc) (xs : List Nat) : List (List Nat) :=
  if q.gran = .group then chunks xs.length q.gsize xs else [xs]

/-- QUANT of ROWS rows of K elements. -/
def quantAct (learned : Bool) (e : PEnv) (s : State) : Done :=
  let rows := fld e.w 99 10 + 1
  let k := fld e.w 83 16 + 1
  let cost : Cost := { vec := rows * (cdiv k 64 + 24) }
  match qdesc e.descs (fld e.w 111 8) with
  | none => plain s cost
  | some q =>
    let ifmt := fld e.w 109 2
    let esz := if ifmt = 2 then 2 else 4
    let src := slotAt e.w 61
    let dst := slotAt e.w 39
    let astride := qdStride (fld e.w 19 10) (k * esz)
    let dstride := qdStride (fld e.w 29 10) (cdiv (k * q.fmt.bits) 8)
    let ins := (List.range rows).map fun m => Arith.go (quantInput s e.p src ifmt (m * astride) k)
    let s := ins.foldl (fun s r => s.addFlags e.p r.2) s
    let meta0 (m g : Nat) : Option (Nat × Int) := if learned then some (actMeta s e.p q k m g) else none
    if q.gran = .tensor then
      let r := Arith.go (quantGroup q (meta0 0 0) (ins.map (·.1)).flatten)
      let s := (chunks rows k r.1.1).zipIdx.foldl (fun s c => s.putElems e.p dst (c.2 * dstride) q.fmt c.1) s
      let s := s.addFlags e.p r.2
      plain (if learned then s else putMeta s e.p q k 0 0 r.1.2) cost
    else
      let done := ins.zipIdx.map fun row => (row.2, (rowGroups q row.1.1).zipIdx.map fun g =>
        (g.2, Arith.go (quantGroup q (meta0 row.2 g.2) g.1)))
      let s := done.foldl (fun s row =>
        let s := s.putElems e.p dst (row.1 * dstride) q.fmt (row.2.flatMap fun g => g.2.1.1)
        row.2.foldl (fun s g =>
          let s := s.addFlags e.p g.2.2
          if learned then s else putMeta s e.p q k row.1 g.1 g.2.1.2) s) s
      plain s cost

def execQuantRuntime (p : BitVec 6) (ds : List Detection) (s : State) : Host.Outcome State Fault Refusal :=
  .next (panRow kQuant (funcIs 0) (quantAct false) p ds s)
def execQuantLearned (p : BitVec 6) (ds : List Detection) (s : State) : Host.Outcome State Fault Refusal :=
  .next (panRow kQuant (funcIs 1) (quantAct true) p ds s)

-- ## DEQUANT (R72)

/-- rne32(s × (q - z)), narrowed to BF16 when asked. -/
def dequantOne (q : QDesc) (sz : Nat × Int) (bf16 : Bool) (c : Nat) : Arith Nat := do
  let x := floatOperand q.fmt sz.2 c
  raiseIf (x.isNan || (v32 sz.1).isNan) fNanIn
  let y := (v32 sz.1).mul x
  raiseIf (y.isNan && !(x.isNan || (v32 sz.1).isNan)) fNanGen
  let r ← rne32 y
  if bf16 then fBf16.narrow (v32 r) else pure r

def dequantAct (bf16 : Bool) (e : PEnv) (s : State) : Done :=
  let rows := fld e.w 99 10 + 1
  let k := fld e.w 83 16 + 1
  let cost : Cost := { vec := rows * (cdiv k 64 + 8) }
  match qdesc e.descs (fld e.w 111 8) with
  | none => plain s cost
  | some q =>
    let astride := qdStride (fld e.w 19 10) (cdiv (k * q.fmt.bits) 8)
    let out : Fmt := if bf16 then .bf16 else .fp32
    let dstride := qdStride (fld e.w 29 10) (k * out.bytes)
    let res := (List.range rows).map fun m => Arith.go
      ((s.slotElems e.p (slotAt e.w 61) (m * astride) q.fmt k).zipIdx.mapM fun x =>
        let sz := actMeta s e.p q k m (q.groupOf x.2)
        dequantOne q (q.widen sz.1, sz.2) bf16 x.1)
    plain (res.zipIdx.foldl (fun s r => (s.putElems e.p (slotAt e.w 39) (r.2 * dstride) out r.1.1).addFlags e.p r.1.2) s) cost

def execDequantFp32 (p : BitVec 6) (ds : List Detection) (s : State) : Host.Outcome State Fault Refusal :=
  .next (panRow kDequant (funcIs 0) (dequantAct false) p ds s)
def execDequantBf16 (p : BitVec 6) (ds : List Detection) (s : State) : Host.Outcome State Fault Refusal :=
  .next (panRow kDequant (funcIs 1) (dequantAct true) p ds s)

end Sys2Proof.Machine
end

