-- ==== Sys2Proof/Machine/Move.lean ====
section
/-! DEFINITION. MOVE (R90, R91, R113, R122 to R126, R135, R150, R188, R436, R442) and the sequencer's own instructions LOOP, WAIT,
STEP and END (R101 to R104), with the block fetch of a streamed program (R80) and the gating of a waiting pan (R101, R275). -/
namespace Sys2Proof.Machine

/-- The partition's command may touch the bytes; the answer is the status it stops with (R91, R113, R442). -/
def State.rangeStatus (s : State) (part a n : Nat) : Option Byte :=
  if !within (s.ranges part) a n then some stDenied
  else if s.fencedAt a n then some stFenced else none

/-- As `rangeStatus`, for a write: sealed and key-value-held ranges refuse it too (R135, R150). -/
def State.writeStatus (s : State) (part a n : Nat) : Option Byte :=
  if !within (s.ranges part) a n || s.hitsSealed a n || (s.kvHit a n).isSome then some stDenied
  else if s.fencedAt a n then some stFenced else none

/-- A time-locked command's access outside what R269 allows ends its lock: its own vault, or a store of its pan set. -/
def State.lockAccess (s : State) (e : PEnv) (a : Nat) : State :=
  if e.run.race then s else
    match s.cmd? e.run.seq with
    | none => s
    | some c =>
      let fine := match vaultOf a, panOf a with
        | some v, _ => v == e.p / 8
        | none, some q => c.pans.contains q
        | none, none => false
      if fine then s else s.lockCause e.run.seq 7

/-- As `lockAccess`, for a run of bytes: none spans more than two vaults or stores. -/
def State.lockSpan (s : State) (e : PEnv) (a n : Nat) : State := (s.lockAccess e a).lockAccess e (a + n - 1)

/-- The window offset of a race slot that an address names (Table 7.1). -/
def raceOffset (slot a n : Nat) : Option Nat :=
  let base := controlBase + 0x20000 + slot * 0x2000
  if base ≤ a ∧ a + n ≤ base + 0x2000 then some (a - base) else none

/-- Bytes before the first marked unit of a row. -/
def State.cleanPrefix (s : State) (a n : Nat) : Nat :=
  s.poison.foldl (fun m u => if u < a + m && a < u + 16 then u - a else m) n

/-- One row of a COPY from a remote address to the pan, or back. -/
def copyRow (e : PEnv) (toRemote : Bool) (loc : Slot22) (k : Nat) (remote n : Nat) (s : State) : State × Option Byte :=
  let own := storeBase e.p ≤ remote && remote + n ≤ storeBase e.p + 0x200000
  let window := if e.run.race then raceOffset e.run.slot remote n else none
  match window with
  | some off =>
    if toRemote then
      if 0x1000 ≤ off && off + n ≤ 0x1100 then
        (s.modSlot e.run.slot fun v => { v with outBack := Tab.span v.outBack 0 (off - 0x1000) (s.slotRead e.p loc k n) }, none)
      else (s, some stDenied)
    else if off + n ≤ 0x1000 then
      (s.slotWrite e.p loc k ((List.range n).map fun i => Tab.look (s.slot e.run.slot).inBuf 0 (off + i)), none)
    else (s, some stDenied)
  | none =>
    if own then
      if toRemote then (s.write remote (s.slotRead e.p loc k n), none) else (s.slotWrite e.p loc k (s.read remote n), none)
    else if e.run.race then (s, some stDenied)
    else
      match (if toRemote then s.writeStatus e.run.part remote n else s.rangeStatus e.run.part remote n) with
      | some st => (s, some st)
      | none =>
        let s := s.lockSpan e remote n
        if toRemote then (s.write remote (s.slotRead e.p loc k n), none)
        else
          let m := s.cleanPrefix remote n
          let s := s.slotWrite e.p loc k (s.read remote m)
          (s, if m < n then some stPoison else none)

/-- Rows in order; a row that fails and every later row are not moved. -/
def copyRows (e : PEnv) (toRemote : Bool) (loc : Slot22) (lstride remote rstride n : Nat) (i : Nat) (fuel : Nat) (s : State) :
    State × Option Byte :=
  match fuel with
  | 0 => (s, none)
  | fuel + 1 =>
    match copyRow e toRemote loc (i * lstride) (remote + i * rstride) n s with
    | (s, some st) => (s, some st)
    | (s, none) => copyRows e toRemote loc lstride remote rstride n (i + 1) fuel s

/-- RANK0 is set and the pan is not rank 0: the word acts as a WAIT of no units (R90). -/
def rank0Skips (e : PEnv) : Bool := bitAt e.w 117 && e.run.rank != 0

def moveRows (w : Nat) : Nat := fld w 45 10 + 1
def moveLen (w : Nat) : Nat := (fld w 33 12 + 1) * 16
/-- A stride of 0 means the row length. -/
def moveLocalStride (w : Nat) : Nat := if fld w 21 12 = 0 then moveLen w else fld w 21 12 * 16
def moveRemoteStride (w : Nat) : Nat := if fld w 5 16 = 0 then moveLen w else fld w 5 16 * 16

/-- COPY. -/
def copyAct (e : PEnv) (s : State) : Done :=
  if rank0Skips e then plain s {} else
    let r := copyRows e (bitAt e.w 118) (slotAt e.w 95) (moveLocalStride e.w) (fld e.w 55 40) (moveRemoteStride e.w)
      (moveLen e.w) 0 (moveRows e.w) s
    { s := r.1, stop := r.2, cost := { move := moveRows e.w * moveLen e.w } }

/-- FILL of the 32-bit pattern in REMOTE[31:0]. -/
def fillAct (e : PEnv) (s : State) : Done :=
  if rank0Skips e then plain s {} else
    let pat := leBytes 4 (fld e.w 55 32)
    let row := (List.replicate (moveLen e.w / 4) pat).flatten
    plain ((List.range (moveRows e.w)).foldl (fun s i => s.slotWrite e.p (slotAt e.w 95) (i * moveLocalStride e.w) row) s)
      { move := moveRows e.w * moveLen e.w }

/-- CYCLE: PAN_CYCLE to the 8 B at LOCAL, and 8 B of zero after it. -/
def cycleAct (e : PEnv) (s : State) : Done :=
  if rank0Skips e then plain s {} else
    plain (s.slotWrite e.p (slotAt e.w 95) 0 (leBytes 8 (s.pan e.p).cycles.toNat ++ List.replicate 8 0)) { move := 16 }

def execCopy (p : BitVec 6) (ds : List Detection) (s : State) : Host.Outcome State Fault Refusal :=
  .next (panRow kMove (funcIs 0) copyAct p ds s)
def execFill (p : BitVec 6) (ds : List Detection) (s : State) : Host.Outcome State Fault Refusal :=
  .next (panRow kMove (funcIs 1) fillAct p ds s)
def execCycle (p : BitVec 6) (ds : List Detection) (s : State) : Host.Outcome State Fault Refusal :=
  .next (panRow kMove (funcIs 2) cycleAct p ds s)

-- ## The sequencer

/-- LOOP: the body that follows is executed COUNT times (R104). -/
def loopAct (e : PEnv) (s : State) : Done :=
  let v := s.pan e.p
  let f : LoopFrame :=
    { start := v.pc + 1, body := fld e.w 90 13 + 1, count := fld e.w 103 16 + 1, iter := 0
      sa := BitVec.ofNat 24 (fld e.w 66 24), sb := BitVec.ofNat 24 (fld e.w 42 24), sd := BitVec.ofNat 24 (fld e.w 18 24) }
  { s := s.modPan e.p fun v => { v with pc := v.pc + 1, loops := f :: v.loops }, stay := true }

/-- WAIT: every earlier instruction has already taken effect; the gated time is not fixed (R84, R101). -/
def waitAct (e : PEnv) (s : State) : Done :=
  let (k, s) := s.draw
  plain (s.modPan e.p fun v =>
    if v.freeze || fld e.w 116 3 == 0 then v
    else { v with profGated := v.profGated + BitVec.ofNat 64 (freeCycles k).toNat }) {}

/-- STEP adds N to the pan's step offset (R102). -/
def stepAct (e : PEnv) (s : State) : Done :=
  plain (s.modPan e.p fun v => { v with stepOff := v.stepOff + BitVec.ofNat 64 (fld e.w 103 16) }) {}

/-- END: every unit is drained, and the pan's part ends (R103). -/
def endAct (e : PEnv) (s : State) : Done := { s := s.endPan e.p, stay := true }

def execLoop (p : BitVec 6) (ds : List Detection) (s : State) : Host.Outcome State Fault Refusal :=
  .next (panRow kLoop (funcIs 0) loopAct p ds s)
def execWait (p : BitVec 6) (ds : List Detection) (s : State) : Host.Outcome State Fault Refusal :=
  .next (panRow kWait (funcIs 0) waitAct p ds s)
def execStep (p : BitVec 6) (ds : List Detection) (s : State) : Host.Outcome State Fault Refusal :=
  .next (panRow kStep (funcIs 0) stepAct p ds s)

def execEndProgram (p : BitVec 6) (ds : List Detection) (s : State) : Host.Outcome State Fault Refusal :=
  .next (panRow kEnd (funcIs 0) endAct p ds s)

/-- The words of a block of a streamed program, copied into its buffer from the sealed copy (R80). -/
def fetchBlock (s : State) (p : Nat) (r : Region) (nDesc nInstr j : Nat) : State :=
  let n := min 2048 (nInstr - 2048 * j)
  let a := r.base + 64 + 16 * (nDesc + 2048 * j)
  s.write (imemBase p + 16 * (4096 + 2048 * (j % 2))) (s.read a (16 * n))

/-- The next block of a streamed program is fetched, once the pan issues from the block before it (R80). A marked unit stops the
command with POISON, a bunded vault with FENCED (R436, R442). -/
def fetchNext (p : Nat) (ds : List Detection) (s : State) : State :=
  let v := s.pan p
  match v.run, v.held with
  | some r, some (part, h, _) =>
    let j := v.blocks.foldl max 0 + 1
    let region := (s.part part).progs.look {} h
    let a := region.base + 64 + 16 * (v.nDesc + 2048 * j)
    let n := 16 * min 2048 (v.nInstr - 2048 * j)
    if !v.streamed || v.bunded || s.edge.stopped || v.st != .run || v.nInstr ≤ 2048 * j || v.pc / 2048 + 1 != j
        || s.addrHeld (some r.seq) (p / 8) a then s else
      let e : PEnv := { p, run := r, w := 0, descs := [] }
      let s := s.detectAll (some p) e.met ds
      if (s.pan p).run != some r || s.edge.stopped then s
      else if ds.any detStops || s.marked a n then s.stopPan e stPoison
      else if s.fencedAt a n then s.stopPan e stFenced
      else
        let s := (fetchBlock s p region v.nDesc v.nInstr j).lockSpan e a n
        s.modPan p fun v =>
          { v with blocks := [j - 1, j], profMove := if v.freeze then v.profMove else v.profMove + BitVec.ofNat 64 n }
  | _, _ => s

def execProgramBlockFetch (p : BitVec 6) (ds : List Detection) (s : State) : Host.Outcome State Fault Refusal :=
  .next (fetchNext p.toNat ds s)

end Sys2Proof.Machine
end

