-- ==== Sys2Proof/Machine/Kv.lean ====
section
/-! DEFINITION. The paged key-value store: head streams as a command sees them (R144, R145), the append path (R155 to R161), the
sparse selection and the gather (R162 to R165), the free list (R153). -/
namespace Sys2Proof.Machine

-- ## Streams and pages

/-- Row bytes of a page (R148). -/
def rowBytes (f : Fmt) (hd : Nat) : Nat := cdiv (hd * f.bits) 128 * 16

/-- The page format of a sequence; only accepted codes are ever bound (R146). -/
def Seq.fmt (q : Seq) : Fmt := (fmt3 q.pfmt.toNat).getD .int8

/-- A page's address in the pool (page i lies in extent i mod NE). -/
def PartCfg.pageAddr (c : PartCfg) (i : Nat) : Nat :=
  let ne := c.extents.length
  (c.extents.getD (i % ne) (0, 0)).1 + i / ne * c.slotBytes

/-- The page-table entry of a position (R149). -/
def Seq.entryAddr (q : Seq) (h pos : Nat) : Nat := q.table + 16 * q.nh + 16 * (h * cdiv q.maxlen q.ps + pos / q.ps)

/-- A command's view of a stream: the base sampled at its first use, and what it has appended (R145). -/
def Cmd.use? (c : Cmd) (handle stream : Nat) : Option KvUse := c.kv.find? fun u => u.handle = handle && u.stream = stream

/-- The view, sampled now if this is the first use. -/
def State.sample (s : State) (seq : DWord) (handle stream : Nat) : KvUse × State :=
  match s.cmd? seq with
  | none => ({ handle, stream, base := 0, added := 0, owned := false }, s)
  | some c =>
    match c.use? handle stream with
    | some u => (u, s)
    | none =>
      let u : KvUse := { handle, stream, base := s.readN ((s.seqH handle).header stream) 4, added := 0, owned := false }
      (u, s.modCmd seq fun c => { c with kv := c.kv ++ [u] })

/-- Effective length: the larger of the base and the base plus what was appended. -/
def KvUse.len (u : KvUse) : Nat := u.base + u.added

/-- A read of key-value state: FENCED in a bunded vault, DENIED outside what the partition may address, as where a port's range is
withheld, POISON on a marked unit (R113, R436, R442, R444). -/
def State.unitStatus (s : State) (part a n : Nat) : Option Byte :=
  if s.fencedAt a n then some stFenced
  else if !within (s.ranges part) a n then some stDenied
  else if s.marked a n then some stPoison else none

/-- The handle that a program's SEQ names (R144). -/
def handleOf (run : PanRun) (sq : Nat) : Nat := (run.seqBase + sq) % 4096

-- ## The append path

/-- Runs a step unless an earlier one stopped. -/
def andThen (r : State × Option Byte) (f : State → State × Option Byte) : State × Option Byte :=
  match r.2 with
  | some _ => r
  | none => f r.1

/-- Steps over a list until one stops. -/
def runAll {α : Type} (f : α → State → State × Option Byte) : List α → State → State × Option Byte
  | [], s => (s, none)
  | x :: xs, s => andThen (f x s) (runAll f xs)

/-- The head of the free list, past pages of bunded vaults, which it discards (R153, R442). -/
def State.takePage (s : State) (part : Nat) : Option Nat × State :=
  let c := s.cfg.part part
  let free := (s.part part).freeList.dropWhile fun i => s.fencedAt (c.pageAddr i) c.slotBytes
  match free with
  | [] => (none, s.modPart part fun v => { v with freeList := [] })
  | i :: rest => (some i, s.modPart part fun v => { v with freeList := rest })

/-- What an append has settled for one sequence: its descriptor's fields after the run-time clamps (R155). -/
structure AppendPlan where
  handle : Nat
  q : Seq
  poff : Nat
  rots : Nat
  rot : Bool
  headroom : Nat
  first : Bool
  cstep : Nat
  col0 : Nat
  values : Bool
  head : Nat
  deriving DecidableEq, Repr

def planAppend (run : PanRun) (q : Seq) (d : Nat) : AppendPlan × Bool :=
  let cs := fld d 28 7
  let c0 := fld d 21 7
  let cstep := min cs (q.hd - 1)
  let col0 := min c0 (q.hd - 1)
  let rot := bitAt d 38
  let rot' := rot && cstep % 2 == 0 && col0 % 2 == 0
  ({ handle := handleOf run (fld d 0 12), q, poff := fld d 60 10, rots := fld d 39 21, rot := rot', headroom := fld d 36 2
     first := bitAt d 35, cstep, col0, values := bitAt d 20, head := fld d 12 7 },
   cstep != cs || col0 != c0 || rot' != rot)

/-- The output columns of each stream, as stream, and pairs of head column and output column (R156). -/
def planColumns (a : AppendPlan) (rank cols : Nat) : List (Nat × List (Nat × Nat)) :=
  let all := (List.range cols).map fun n => (a.col0 + rank * a.cstep + n, n)
  let streams := (all.map fun c => a.head + c.1 / a.q.hd).foldl (fun l x => if l.contains x then l else l ++ [x]) []
  streams.map fun h => (h, (all.filter fun c => a.head + c.1 / a.q.hd = h).map fun c => (c.1 % a.q.hd, c.2))

/-- Row `m`'s FP32 outputs (R93, R157). -/
def appendOutputs (s : State) (p : Nat) (job : AppendJob) (m : Nat) : Arith (List Nat) :=
  (List.range job.cols).mapM fun n =>
    let x := (s.slotElems p { acc := true, ofs := job.drow } ((n / 64 * job.rows + m) * 256 + n % 64 * 4) .fp32 1).headD 0
    if job.isInt then convert .int32 .fp32 x else pure x

/-- Rotary embedding of one head's columns: pairs 2j and 2j + 1 that are both present (R157). -/
def rotate (s : State) (p : Nat) (a : AppendPlan) (m : Nat) (xs : List (Nat × Nat)) : Arith (List (Nat × Nat)) :=
  if !a.rot then pure xs else
    xs.mapM fun cx => do
      let j := cx.1 / 2
      let other := xs.find? fun y => y.1 = (if cx.1 % 2 = 0 then cx.1 + 1 else cx.1 - 1)
      match other with
      | none => pure cx
      | some o =>
        let t := a.rots + m * 4 * a.q.hd + 8 * j
        let cos := s.storeN p t 4
        let sin := s.storeN p (t + 4) 4
        if cx.1 % 2 = 0 then
          let n ← neg32 o.2
          let y ← mul32 n sin
          let y ← fma32 cx.2 cos y
          pure (cx.1, y)
        else
          let y ← mul32 cx.2 cos
          let y ← fma32 o.2 sin y
          pure (cx.1, y)

/-- The descriptor form of a page, for the shared quantisation (R158). -/
def pageDesc (q : Seq) : QDesc :=
  { fmt := q.fmt, bf16Scale := q.sfmt, asym := q.fmt.isInt, gran := .row, gsize := 1, addr := 0, stride := 0 }

/-- x × 2^H (R158). -/
def timesPow (x h : Nat) : Arith Nat := mul32 x (int32f (2 ^ h))

/-- The scale and zero point of R71's runtime branch over the values of a page, with headroom (R158). -/
def firstScale (a : AppendPlan) (xs : List Nat) : Arith (Nat × Int) := do
  let mx ← timesPow (extreme max32 xs) a.headroom
  let mn ← timesPow (extreme min32 xs) a.headroom
  runtimeScale (pageDesc a.q) mx mn

/-- One 16 B unit of a page row: written whole, or merged, which leaves a marked unit marked (R131, R160). -/
def mergeUnit (s : State) (a : Nat) (full : Bool) (bs : List Byte) : State :=
  if !full && s.marked a 16 then s else s.write a bs

/-- The codes of some columns of a page row (R159 step 5, R160). -/
def putCodes (s : State) (f : Fmt) (hd a : Nat) (codes : List (Nat × Nat)) : State :=
  let per := 128 / f.bits
  let old := unpack f (s.read a (rowBytes f hd)) (rowBytes f hd * 8 / f.bits)
  let new := old.zipIdx.map fun x => match codes.find? fun c => c.1 = x.2 with | some c => c.2 | none => x.1
  (List.range (rowBytes f hd / 16)).foldl (fun s u =>
    let hit := (codes.filter fun c => c.1 / per = u).length
    if hit = 0 then s else mergeUnit s (a + 16 * u) (hit == per) (slice (pack f new) (16 * u) 16)) s

/-- A pan's columns of a stream span the whole head, as SMODE FIRST requires (R158). -/
def wholeHead (hd : Nat) (cols : List (Nat × Nat)) : Bool := (List.range hd).all fun j => cols.any fun c => c.1 = j

/-- One row of one stream: the steps of R159 in order. -/
def appendStream (e : PEnv) (a : AppendPlan) (job : AppendJob) (m : Nat) (h : Nat) (cols : List (Nat × Nat)) (s : State) :
    State × Option Byte :=
  let (u, s) := s.sample e.run.seq a.handle h
  let hdr := a.q.header h
  let pos := u.base + a.poff + m
  let ent := a.q.entryAddr h pos
  match s.unitStatus e.run.part hdr 16 with
  | some st => (s, some st)
  | none =>
    let owner := s.readN (hdr + 12) 4
    let mine := e.run.seq.toNat % 2 ^ 32
    if bitAt (s.readN (hdr + 11) 1) 0 && owner != mine then (s, some stDenied) else
    let s := s.write (hdr + 11) ((leBytes 1 (s.readN (hdr + 11) 1 / 2 * 2 + 1)) ++ leBytes 4 mine)
    let s := s.modCmd e.run.seq fun c => { c with kv := c.kv.map fun v =>
      if v.handle = a.handle && v.stream = h then { v with owned := true } else v }
    let s := s.lockAccess e hdr
    if a.q.maxlen ≤ pos then (s, some stKvFull) else
    match s.unitStatus e.run.part ent 16 with
    | some st => (s, some st)
    | none =>
      let flags := s.readN (ent + 2) 1
      let valid := bitAt flags 0
      let (page, s) := if valid then (some (s.readN ent 2), s) else s.takePage e.run.part
      match page with
      | none => (s, some stKvFull)
      | some page =>
        let flags := if valid then flags else 1
        let setBit := if a.values then 2 else 1
        let q := pageDesc a.q
        -- the values of every row of this append that lands in the page, for SMODE FIRST
        let rows := (List.range job.rows).filter fun r =>
          u.base + a.poff + r < a.q.maxlen && (u.base + a.poff + r) / a.q.ps = pos / a.q.ps
        let valuesOf (r : Nat) : Arith (List (Nat × Nat)) := do
          let out ← appendOutputs s e.p job r
          rotate s e.p a r (cols.map fun c => (c.1, out.getD c.2 0))
        let fresh := if valid then s.read ent 16 else leBytes 2 page ++ List.replicate 14 0
        let needs := !bitAt flags setBit
        let (sz, fl) : (Nat × Int) × AFlags :=
          if !needs then
            ((leAt fresh (if a.values then 8 else 4) 2, q.zeroOf (leAt fresh (if a.values then 10 else 6) 1)), 0)
          else if a.first && wholeHead a.q.hd cols then
            Arith.go (do
              let vs ← rows.mapM valuesOf
              firstScale a (vs.flatten.map (·.2)))
          else ((s.readN (hdr + (if a.values then 8 else 4)) 2, q.zeroOf (s.readN (hdr + (if a.values then 10 else 6)) 1)), 0)
        let s := s.addFlags e.p fl
        -- learned values are copied as they stand, the bits above a 4-bit zero point with them
        let zb := if a.first && wholeHead a.q.hd cols then (sz.2 % 2 ^ q.fmt.bits).toNat
          else s.readN (hdr + (if a.values then 10 else 6)) 1
        let entry :=
          let b := fresh.set 2 (BitVec.ofNat 8 (flags ||| (if needs then 2 ^ setBit else 0)))
          if !needs then b
          else
            let k := if a.values then 8 else 4
            ((b.set k (BitVec.ofNat 8 sz.1)).set (k + 1) (BitVec.ofNat 8 (sz.1 >>> 8))).set (k + 2) (BitVec.ofNat 8 zb)
        let s := if needs || !valid then s.write ent entry else s
        let row := (s.cfg.part e.run.part).pageAddr page
          + (if a.values then a.q.ps * rowBytes a.q.fmt a.q.hd else 0) + pos % a.q.ps * rowBytes a.q.fmt a.q.hd
        if s.fencedAt row (rowBytes a.q.fmt a.q.hd) then (s, some stFenced)
        else if !within (s.ranges e.run.part) row (rowBytes a.q.fmt a.q.hd) then (s, some stDenied) else
        let (codes, fl) := Arith.go (do
          let vs ← valuesOf m
          let inv ← recip32 (q.widen sz.1)
          vs.mapM fun cx => do
            let c ← quantOne q.fmt inv sz.2 cx.2
            pure (cx.1, c))
        let s := (putCodes s a.q.fmt a.q.hd row codes).addFlags e.p fl
        let s := s.lockAccess e row
        (s.modCmd e.run.seq fun c => { c with kv := c.kv.map fun v =>
          if v.handle = a.handle && v.stream = h then { v with added := max v.added (a.poff + m + 1) } else v }, none)

/-- The append that a MATMUL handed over (R155, R159): every row in order, and every stream of a row. -/
def appendRun (e : PEnv) (job : AppendJob) (s : State) : State × Option Byte :=
  let d := job.desc.toNat
  let q := s.seqH (handleOf e.run (fld d 0 12))
  if !q.bound || q.part != e.run.part then (s, some stBadHandle) else
    let (a, clamped) := planAppend e.run q d
    let streams := planColumns a e.run.rank job.cols
    let partial' := a.first && streams.any fun x => !wholeHead q.hd x.2
    let s := if clamped || partial' then s.clampCmd e.run.seq cProgramField else s
    if streams.any fun x => q.nh ≤ x.1 then (s, some stBadHandle) else
      runAll (fun m => runAll (fun x => appendStream e a job m x.1 x.2) streams) (List.range job.rows) s

/-- The pan's pending append is made before its next instruction. -/
def appendPending (p : Nat) (ds : List Detection) (s : State) : State :=
  let v := s.pan p
  match v.append, v.run with
  | some job, some run =>
    if s.edge.stopped || v.bunded || v.st != .run || !v.holds.isEmpty || run.race
        || (s.kvHeld run.part).any (fun r => s.addrHeld (some run.seq) (p / 8) r.1 || s.addrHeld (some run.seq) (p / 8) (r.1 + r.2 - 1))
    then s else
      let e : PEnv := { p, run, w := 0, descs := [] }
      let s := s.detectAll (some p) e.met ds
      if (s.pan p).run != some run || s.edge.stopped then s
      else if ds.any detStops then s.stopPan e stPoison
      else
        let bytes := cdiv (job.rows * job.cols * (s.seqH (handleOf run (fld job.desc.toNat 0 12))).fmt.bits) 8
        let r := appendRun e job s
        match r.2 with
        | some st => r.1.stopPan e st
        | none => r.1.modPan p fun v =>
            { v with append := none, profMove := if v.freeze then v.profMove else v.profMove + BitVec.ofNat 64 bytes }
  | _, _ => s

def execKvAppend (p : BitVec 6) (ds : List Detection) (s : State) : Host.Outcome State Fault Refusal :=
  .next (appendPending p.toNat ds s)

-- ## The gather

/-- The selection of R163 steps 2 and 3: sinks, global positions and the window below LEN, ascending, each once. -/
def selectPositions (len win nsink : Nat) (glob : List Nat) : List Nat :=
  let from' := if win = 0 then 0 else len - win
  (List.range len).filter fun i => i < nsink || glob.contains i || from' ≤ i

/-- What one copied position yields: its metadata record and its code row (R164, R165). -/
def gatherOne (s : State) (part : Nat) (q : Seq) (h : Nat) (values : Bool) (pos : Nat) : Option Byte × List Byte × List Byte :=
  let ent := q.entryAddr h pos
  let rb := rowBytes q.fmt q.hd
  match s.unitStatus part ent 16 with
  | some st => (some st, [], [])
  | none =>
    let e := s.read ent 16
    let setBit := if values then 2 else 1
    if !bitAt (leAt e 2 1) 0 || !bitAt (leAt e 2 1) setBit then
      (none, [0, 0, 0, 1] ++ leBytes 4 pos, List.replicate rb 0)
    else
      let row := (s.cfg.part part).pageAddr (leAt e 0 2) + (if values then q.ps * rb else 0) + pos % q.ps * rb
      match s.unitStatus part row rb with
      | some st => (some st, [], [])
      | none => (none, slice e (if values then 8 else 4) 3 ++ [0] ++ leBytes 4 pos, s.read row rb)

/-- GATHER (R99, R163 to R165). -/
def gatherAct (values : Bool) (e : PEnv) (s : State) : Done :=
  let pd := fld e.w 92 8
  let d := if pd = 0 then 15 * 2 ^ 52 else cleanPattern (descAt e.descs pd)
  let split := fld d 45 6 + 1
  let group := e.run.rank / split
  let handle := handleOf e.run (fld e.w 107 12)
  let q := s.seqH handle
  let stream := fld e.w 100 7 + (if bitAt d 51 then group else 0)
  let lmax := fld e.w 76 16 + 1
  if e.run.race then { s, stop := some stBadHandle }
  else if !q.bound || q.part != e.run.part || q.nh ≤ stream then { s, stop := some stBadHandle }
  else
    match s.unitStatus e.run.part (q.header stream) 16 with
    | some st => { s, stop := some st }
    | none =>
      let (u, s) := s.sample e.run.seq handle stream
      let s := s.lockAccess e (q.header stream)
      let glob := (List.range (fld d 14 7)).map fun i => s.storeN e.p (fld d 24 21 + 4 * i) 4
      let sel := selectPositions u.len (fld d 0 14) (fld d 21 3) glob
      let j := e.run.rank % split
      let lo := j * sel.length / split
      let hi := (j + 1) * sel.length / split
      let part := (sel.drop lo).take (hi - lo)
      let s := if lmax < part.length then
          (s.clampCmd e.run.seq cGather).modPart e.run.part fun v => { v with kvTrunc := satAdd v.kvTrunc 1 }
        else s
      let copied := part.drop (part.length - lmax)
      let got := copied.map (gatherOne s e.run.part q stream values)
      let s := copied.foldl (fun s pos =>
        let ent := q.entryAddr stream pos
        if bitAt (s.readN (ent + 2) 1) 0 then s.lockAccess e ((s.cfg.part e.run.part).pageAddr (s.readN ent 2)) else s) s
      match got.findSome? (·.1) with
      | some st => { s, stop := some st }
      | none =>
        let rb := rowBytes q.fmt q.hd
        let hdr := leBytes 4 copied.length ++ leBytes 4 u.len
          ++ leBytes 1 (q.pfmt.toNat + 8 * b2n q.sfmt + 16 * b2n values) ++ leBytes 1 (q.hd - 1) ++ leBytes 1 group
          ++ leBytes 1 (fld d 67 5) ++ leBytes 2 (group * fld d 57 10) ++ leBytes 1 q.ps ++ leBytes 1 (fld d 52 4)
        let dst := slotAt e.w 54
        let s := s.slotWrite e.p dst 0 (hdr ++ (got.flatMap fun g => g.2.1))
        let s := s.slotWrite e.p dst (16 + cdiv (8 * lmax) 16 * 16) (got.flatMap fun g => g.2.2)
        let s := s.modPan e.p fun v => { v with gcount := copied.length }
        plain s { move := 16 + copied.length * (16 + rb) }

def execGatherKeys (p : BitVec 6) (ds : List Detection) (s : State) : Host.Outcome State Fault Refusal :=
  .next (panRow kGather (funcIs 0) (gatherAct false) p ds s)
def execGatherValues (p : BitVec 6) (ds : List Detection) (s : State) : Host.Outcome State Fault Refusal :=
  .next (panRow kGather (funcIs 1) (gatherAct true) p ds s)

end Sys2Proof.Machine
end

