-- ==== Sys2Proof/Machine/Queue.lean ====
section
/-! DEFINITION. The dispatcher: acceptance in rounds (R227 to R229), changes of a context's rings (R209), and how an accepted
command starts (R214 to R218, R230). -/
namespace Sys2Proof.Machine

-- ## Acceptance

/-- Q_p (R228). -/
def State.quota (s : State) (p : Nat) : Nat :=
  let on := partsAll.filter s.inService
  if !s.inService p then 0 else
    64 + (4096 - 64 * on.length) * (s.cfg.part p).dweight / ((on.map fun i => (s.cfg.part i).dweight).foldl (· + ·) 0)

/-- Accepted, uncompleted commands of a partition. -/
def State.inflight (s : State) (p : Nat) : Nat := (s.cmds.filter fun c => c.part == p).length

/-- What lets the dispatcher accept from a partition at all (R227, R276). -/
def State.mayAccept (s : State) (p : Nat) : Bool :=
  s.up && s.power.sleep == .awake && s.inService p && decide (s.inflight p < s.quota p) && decide (s.cmds.length < 4096)

/-- The queue holds a command it may have accepted (R227). -/
def State.eligible (s : State) (p q : Nat) : Bool :=
  let x := s.ctx q
  s.queueOwner q == some p && x.live.enable && x.tail != x.head && decide ((x.head - x.chead).toNat < x.live.depth.toNat)

/-- Eligible queues of a partition, ascending. -/
def State.eligibles (s : State) (p : Nat) : List Nat :=
  if s.mayAccept p then (s.ctxs.map (·.1)).filter (s.eligible p) else []

/-- At a round's start WEIGHT and ENABLE take their committed values (R209). -/
def State.newRound (s : State) : State :=
  let s := s.cfg.ctxs.foldl (fun s c => s.modCtx c.1 fun x =>
    { x with live := { x.live with weight := c.2.weight, enable := c.2.enable } }) s
  s.ctxs.foldl (fun s c => if (s.cfg.ctx c.1).enable then s else s.modCtx c.1 fun x =>
    { x with live := { x.live with weight := (s.cfg.ctx c.1).weight, enable := false } }) s

/-- The first partition from `p` on whose turn is not used up and which has an eligible queue. -/
def State.nextPart (s : State) (p used : Nat) : Option (Nat × Nat) :=
  ((partsAll.filter fun i => p ≤ i).map fun i => (i, if i = p then used else 0)).find? fun i =>
    i.2 < (s.cfg.part i.1).dweight && !(s.eligibles i.1).isEmpty

/-- The queue a partition's turn serves next, and its count of consecutive acceptances with this one. -/
def State.nextQueue (s : State) (p : Nat) : Option (Nat × Nat) :=
  let es := s.eligibles p
  let last := (s.part p).lastQueue
  if es.contains last && s.tally.queueUsed < (s.ctx last).live.weight.toNat && s.tally.queueUsed != 0 then
    some (last, s.tally.queueUsed + 1)
  else
    match es.find? (fun q => last < q), es.head? with
    | some q, _ => some (q, 1)
    | none, some q => some (q, 1)
    | none, none => none

/-- The initiator whose doorbell announced the queue's next command (R232). -/
def Ctx.nextIni (x : Ctx) : Ini := match x.announced with | (_, i) :: _ => i | [] => 0
/-- One announced command is accepted. -/
def takeAnnounced : List (Nat × Ini) → List (Nat × Ini)
  | [] => []
  | (n, i) :: l => if n ≤ 1 then l else (n - 1, i) :: l

/-- Command index HEAD of a queue is accepted: the 64 B are read, the next sequence number assigned, the PENDING entry written
and HEAD advanced (R227). A slot that cannot be read gives an entry with OPCODE 0xFF (R436, R442). -/
def State.accept (s : State) (p q : Nat) : State :=
  let x := s.ctx q
  let a := x.live.ringBase.toNat + x.head.toNat % (max 1 x.live.depth.toNat) * 64
  let bad : Byte := if s.fencedAt a 64 then stFenced else if s.marked a 64 then stPoison else 0
  let bytes := if bad = 0 then s.read a 64 else List.replicate 64 0
  let seq := s.tally.head
  let clamp := if x.bellClamp then cDoorbell else 0
  let (k, s) := s.draw
  let entry : TEntry := { seq, ini := x.nextIni, part := BitVec.ofNat 8 p, queue := BitVec.ofNat 16 q
                          opcode := if bad = 0 then bytes.headD 0 else 0xFF, status := 0xFF, clamp, step := freeCycles k
                          ringIdx := x.head, pans := 0, panFirst := 0, flags := 0 }
  let s := s.tallyAdd entry
  let s := { s with tally := { s.tally with accepted := s.tally.accepted ++ [(seq, p)] } }
  let s := s.setCtx q { x with head := x.head + 1, bellClamp := false, announced := takeAnnounced x.announced, lastSeq := seq }
  let cmd : Cmd := { seq, queue := q, part := p, ini := x.nextIni, idx := x.head, bytes, bad, clamp }
  { s with cmds := s.cmds ++ [cmd] }

/-- One acceptance of the dispatcher's rounds; none where no queue is eligible. -/
def acceptNext (s : State) : State :=
  let go (s : State) (pu : Nat × Nat) : State :=
    let s := if pu.1 = s.tally.roundPart && pu.2 = s.tally.turnUsed then s
      else { s with tally := { s.tally with queueUsed := 0 } }
    match s.nextQueue pu.1 with
    | none => s
    | some (q, n) =>
      let s := s.accept pu.1 q
      let s := s.modPart pu.1 fun v => { v with lastQueue := q }
      let s := { s with tally := { s.tally with roundPart := pu.1, turnUsed := pu.2 + 1, queueUsed := n } }
      s.settle (s.cmds.length + 1)
  match s.nextPart s.tally.roundPart s.tally.turnUsed with
  | some pu => go s pu
  | none =>
    let s := s.newRound.finishCommits
    match s.nextPart 0 0 with
    | some pu => go s pu
    | none => { s with tally := { s.tally with roundPart := 0, turnUsed := 0, queueUsed := 0 } }

def execCommandAccept (s : State) : Host.Outcome State Fault Refusal := .next (acceptNext s)

/-- A change of ring fields in waiting takes effect (R209). -/
def execContextRingChange (q : BitVec 12) (s : State) : Host.Outcome State Fault Refusal := .next (s.settleCtx q.toNat)

-- ## Starting a command

/-- A command starts where the order of starts lets it: its row acts on it after the clamp of reserved bits. Where it may not start,
or another row runs it, nothing changes. -/
def startRow (op : Nat) (sel : Nat → Bool) (act : Cmd → State → State) (seq : DWord) (s : State) : State :=
  match s.cmd? seq with
  | none => s
  | some c =>
    if c.op != op || c.bad != 0 || !sel (c.f 8 1) || !s.canStart c || (s.noRow c).isSome then s else
      let s := s.beginCmd c
      match s.cmd? seq with
      | none => s
      | some c => let s := act c s; s.settle (s.cmds.length + 1)

/-- The device address in a field, bits [63:40] taken as zero (R214). -/
def Cmd.addr (c : Cmd) (a : Nat) : Nat := c.f a 5

/-- The first check that fails sets the status (R216). -/
def firstFail (l : List (Bool × Byte)) : Option Byte := (l.find? (·.1)).map (·.2)

/-- A command that passes its checks acts; one that fails completes with the status and no effect. -/
def checked (l : List (Bool × Byte)) (act : State → State) (c : Cmd) (s : State) : State :=
  match firstFail l with
  | some st => s.complete c.seq st
  | none => act s

/-- Outside what the partition may read. -/
def State.noRead (s : State) (p a n : Nat) : Bool := !within (s.ranges p) a n
/-- Outside what the partition may write: its ranges less sealed regions and key-value-held ranges (R135, R150). -/
def State.noWrite (s : State) (p a n : Nat) : Bool :=
  !within (s.ranges p) a n || s.hitsSealed a n || (s.kvHit a n).isSome

-- ## Commands that only wait (R222)

def execNop (seq : DWord) (s : State) : Host.Outcome State Fault Refusal :=
  .next (startRow 0 (fun _ => true) (fun c s => s.complete c.seq stOk) seq s)

/-- FENCE waits for what was accepted before it. -/
def fenceAct (c : Cmd) (s : State) : State := s.modCmd c.seq fun d => { d with working := true, status := stOk }

def execFenceQueue (seq : DWord) (s : State) : Host.Outcome State Fault Refusal :=
  .next (startRow 9 (fun x => x == 0) fenceAct seq s)
def execFencePartition (seq : DWord) (s : State) : Host.Outcome State Fault Refusal :=
  .next (startRow 9 (fun x => x != 0) fenceAct seq s)

-- ## ABORT (R222)

/-- The target named by sequence number is a command of the partition accepted earlier, completed or not (R222). -/
def State.abortKnows (s : State) (c : Cmd) (target : Nat) : Bool :=
  target < c.seq.toNat && s.tally.accepted.any fun x => x.1.toNat == target && x.2 == c.part

/-- What ABORT does to one target. -/
def abortOne (s : State) (d : Cmd) : State :=
  match s.cmd? d.seq with
  | none => s
  | some d =>
    if !d.started then s.completeOne d stAborted
    else if d.op == 1 && !d.pans.isEmpty then s.completeOne d stAborted
    else s

/-- The targets are handled in order of acceptance, and the ABORT completes once they have. -/
def abortAct (pick : Cmd → Cmd → Bool) (ok : Cmd → State → Bool) (c : Cmd) (s : State) : State :=
  if !ok c s then s.complete c.seq stBadHandle else
    let targets := (s.cmds.takeWhile fun d => d.seq ≠ c.seq).filter fun d => !d.exempt && pick c d
    let s := targets.foldl abortOne s
    s.modCmd c.seq fun d => { d with working := true, status := stOk }

def execAbortCommand (seq : DWord) (s : State) : Host.Outcome State Fault Refusal :=
  .next (startRow 10 (fun x => x == 0)
    (abortAct (fun c d => d.seq.toNat == c.f 16 8 && d.part == c.part) fun c s => s.abortKnows c (c.f 16 8)) seq s)
def execAbortQueue (seq : DWord) (s : State) : Host.Outcome State Fault Refusal :=
  .next (startRow 10 (fun x => x == 1)
    (abortAct (fun c d => d.queue == c.f 10 2) fun c s => s.queueOwner (c.f 10 2) == some c.part) seq s)
def execAbortPartition (seq : DWord) (s : State) : Host.Outcome State Fault Refusal :=
  .next (startRow 10 (fun x => x == 2) (abortAct (fun c d => d.part == c.part) fun _ _ => true) seq s)

-- ## SET_SEED (R258)

def setSeedAct (c : Cmd) (s : State) : State :=
  let s := s.modPart c.part fun v =>
    { v with seed := if bitAt (c.f 24 1) 0 then v.seed else BitVec.ofNat 64 (c.f 8 8)
             stepCount := if bitAt (c.f 24 1) 1 then v.stepCount else BitVec.ofNat 64 (c.f 16 8) }
  s.complete c.seq stOk

def execSetSeed (seq : DWord) (s : State) : Host.Outcome State Fault Refusal :=
  .next (startRow 8 (fun _ => true) setSeedAct seq s)

end Sys2Proof.Machine
end

