-- ==== Sys2Proof/Machine/KvCmd.lean ====
section
/-! DEFINITION. KV_BIND and KV_RELEASE (R146, R147, Tables 6.1 to 6.3). -/
namespace Sys2Proof.Machine

/-- The nearest of 16, 32 and 64, the smaller on a tie. -/
def nearPs (n : Nat) : Nat := if n ≤ 24 then 16 else if n ≤ 48 then 32 else 64

/-- Bytes of a page: a key block and a value block (R148). -/
def pageBytes (f : Fmt) (hd ps : Nat) : Nat := 2 * ps * rowBytes f hd

/-- The largest of `ps`, 32 and 16 at or below `ps` whose page fits a slot. -/
def fitPs (f : Fmt) (hd slot ps : Nat) : Option Nat :=
  ([64, 32, 16].filter fun k => k ≤ ps && pageBytes f hd k ≤ slot).head?

/-- A limit of Table 6.1. -/
def limit (lo hi x : Nat) : Nat := min hi (max lo x)

/-- A stream header (Table 6.2), from a learned-scale record. OWNER, which is not valid while OWNED is 0, is given by the caller. -/
def headerBytes (integer : Bool) (r : List Byte) (owner : Word) : List Byte :=
  let z (i : Nat) : Byte := if integer then r.getD i 0 else 0
  leBytes 4 0 ++ [r.getD 0 0, r.getD 1 0, z 2, 0, r.getD 4 0, r.getD 5 0, z 6, 0] ++ leBytes 4 owner.toNat

/-- The page-table range may hold a table: the partition's, and no sealed, pool or bound range. -/
def State.noTable (s : State) (p a n : Nat) : Bool := s.noWrite p a n

/-- KV_BIND. A handle that is bound and a format that is none end it before the clamps of Table 6.1; the ranges, whose lengths these clamps
settle, are checked after them (R146, R216; DEDUCED [log 76]). -/
def kvBindAct (c : Cmd) (s : State) : State :=
  let h := c.f 8 2 % 4096
  let f? := match fmt3 (c.f 13 1 % 8) with
    | some .int4 => some Fmt.int4
    | some .int8 => some Fmt.int8
    | some .e4m3 => some Fmt.e4m3
    | some .e5m2 => some Fmt.e5m2
    | some .bf16 => some Fmt.bf16
    | _ => none
  match f? with
  | none => s.complete c.seq stBadHandle
  | some f => if (s.seqH h).bound then s.complete c.seq stBadHandle else
    let nh := limit 1 128 (c.f 10 1)
    let hd0 := limit 1 128 (c.f 11 1)
    let hd := if f = .int4 then hd0 + hd0 % 2 else hd0
    let maxlen := limit 1 131072 (c.f 16 4)
    let slot := (s.cfg.part c.part).slotBytes
    let ps0 := nearPs (c.f 12 1)
    let ps := (fitPs f hd slot ps0).getD 16
    let clamped := nh != c.f 10 1 || hd != c.f 11 1 || maxlen != c.f 16 4 || ps != c.f 12 1
    let table := c.addr 24 / 4096 * 4096
    let q : Seq := { bound := true, part := c.part, nh, hd, ps, pfmt := BitVec.ofNat 3 (c.f 13 1), sfmt := bitAt (c.f 13 1) 3
                     maxlen, table }
    let scales := c.addr 32
    let s := s.clampCmd c.seq ((if clamped then cKvParam else 0) ||| (if c.addr 24 % 4096 = 0 then 0 else cAlign))
    checked [((fitPs f hd slot ps0).isNone, stDenied),
      (s.noTable c.part table q.tableLen || s.noWrite c.part scales (8 * nh), stDenied),
      (s.fencedAt table q.tableLen || s.fencedAt scales (8 * nh), stFenced), (s.marked scales (8 * nh), stPoison)] (fun s =>
        let integer := f == .int4 || f == .int8
        let (k, s) := s.draw
        let heads := (List.range nh).flatMap fun i => headerBytes integer (s.read (scales + 8 * i) 8) (freeCycles k)
        let s := (s.write table heads).zero (table + 16 * nh) (q.tableLen - 16 * nh)
        (s.setSeq h q).complete c.seq stOk) c s

def execKvBind (seq : DWord) (s : State) : Host.Outcome State Fault Refusal :=
  .next (startRow 5 (fun _ => true) kvBindAct seq s)

/-- The allocated pages of a sequence, in ascending stream and entry; an entry that a marked unit hides gives none. -/
def State.pagesOf (s : State) (q : Seq) : List Nat :=
  (List.range (q.nh * cdiv q.maxlen q.ps)).filterMap fun i =>
    let a := q.table + 16 * q.nh + 16 * i
    if !s.marked a 16 && bitAt (s.readN (a + 2) 1) 0 then some (s.readN a 2) else none

/-- A sequence is released (R147). -/
def State.releaseSeq (s : State) (h : Nat) : State :=
  let q := s.seqH h
  let s := (s.pagesOf q).foldl (fun s i => s.putPage q.part i) s
  (s.zero q.table q.tableLen).setSeq h {}

def kvReleaseAct (c : Cmd) (s : State) : State :=
  let h := c.f 8 2 % 4096
  let q := s.seqH h
  checked [(!q.bound || q.part != c.part, stBadHandle), (s.fencedAt q.table q.tableLen, stFenced)]
    (fun s => (s.releaseSeq h).complete c.seq stOk) c s

def execKvRelease (seq : DWord) (s : State) : Host.Outcome State Fault Refusal :=
  .next (startRow 6 (fun _ => true) kvReleaseAct seq s)

end Sys2Proof.Machine
end

