-- ==== Sys2Proof/Machine/Link.lean ====
section
/-! DEFINITION. Requests of the host port as every window sees them: which are served, and how they are answered (R201 to R206,
Table 8.2). -/
namespace Sys2Proof.Machine

-- Transaction statuses (Table 8.2).
def rOk : BitVec 4 := 0
def rUnmapped : BitVec 4 := 1
def rPoisoned : BitVec 4 := 2
def rDenied : BitVec 4 := 3
def rNotReady : BitVec 4 := 4
def rMalformed : BitVec 4 := 5

def State.link (s : State) (module1 : Bool) : Link := if module1 then s.edge.ucie1 else s.edge.ucie0
def Link.isUp (l : Link) : Bool := l == .up32 || l == .up16

/-- The response of a request is sent (R203). -/
def State.respond (s : State) (r : Req) (status : BitVec 4) (data : List Byte) : State :=
  { s with sent := s.sent ++ [{ module1 := r.module1, ini := r.ini, tag := r.tag, status, data }] }

/-- Whether the control region, in row 0, waits for a time lock before it serves a module (R268). -/
def State.ctlHeld (s : State) (module1 : Bool) : Bool := s.pathHeld none (modRow module1) 0

/-- A request to a window that opens with READY: no link or a stopped device takes none, an initiator outside the port's is refused,
and before READY it is answered NOT_READY without effect (R18, R202, R205, R206). -/
def State.serve (s : State) (r : Req) (early : State → State) (act : State → BitVec 4 × State) : State :=
  if !(s.link r.module1).isUp || s.edge.stopped then s
  else if 64 ≤ r.ini.toNat then s.respond r rMalformed []
  else if !s.edge.ready then (early s).respond r rNotReady []
  else if s.ctlHeld r.module1 then s
  else let (st, s) := act s; s.respond r st []

/-- A request to a race window: race class, which no lock holds and which ends the locks whose rows it uses (R121, R179, R268). -/
def State.serveRace (s : State) (r : Req) (early : State → State) (act : State → BitVec 4 × State) : State :=
  if !(s.link r.module1).isUp || s.edge.stopped then s
  else if 64 ≤ r.ini.toNat then s.respond r rMalformed []
  else if !s.edge.ready then (early s).respond r rNotReady []
  else let (st, s) := act (s.racePath (modRow r.module1) 0); s.respond r st []

end Sys2Proof.Machine
end

