-- ==== Sys2Proof/Machine/Hash.lean ====
section
/-! DEFINITION. The hash and keyed-hash functions the device uses, as their standards give them (PRESUMED [log 20]): SHA-256,
SHA-384 and SHA-512 (FIPS 180-4), HMAC (FIPS 198-1), counter-mode key derivation (SP 800-108) and HMAC_DRBG (SP 800-90A). The
spec names the standards (R308, R350, R362) and does not repeat them. -/
namespace Sys2Proof.Machine

/-- Right rotation of a `w`-bit word. -/
def rotr (w x n : Nat) : Nat := (x >>> n) ||| ((x <<< (w - n)) % 2 ^ w)

/-- The parameters in which SHA-256 and SHA-512 differ. -/
structure Sha where
  /-- Word width in bits. -/
  w : Nat
  k : List Nat
  /-- Rotations and last shift of the two schedule functions. -/
  s0 : Nat × Nat × Nat
  s1 : Nat × Nat × Nat
  /-- Rotations of the two round functions. -/
  b0 : Nat × Nat × Nat
  b1 : Nat × Nat × Nat
  deriving DecidableEq, Repr

/-- The 64-bit words that a number packs, most significant first. -/
def quads (n x : Nat) : List Nat := (List.range n).map fun i => x >>> (64 * (n - 1 - i)) % 2 ^ 64

/-- The fractional bits of the cube roots of the first 80 primes, as the standard lists them, four to a row. -/
def cubeRoots : List Nat :=
  [0x428a2f98d728ae227137449123ef65cdb5c0fbcfec4d3b2fe9b5dba58189dbbc,
   0x3956c25bf348b53859f111f1b605d019923f82a4af194f9bab1c5ed5da6d8118,
   0xd807aa98a303024212835b0145706fbe243185be4ee4b28c550c7dc3d5ffb4e2,
   0x72be5d74f27b896f80deb1fe3b1696b19bdc06a725c71235c19bf174cf692694,
   0xe49b69c19ef14ad2efbe4786384f25e30fc19dc68b8cd5b5240ca1cc77ac9c65]
  ++ [0x2de92c6f592b02754a7484aa6ea6e4835cb0a9dcbd41fbd476f988da831153b5,
   0x983e5152ee66dfaba831c66d2db43210b00327c898fb213fbf597fc7beef0ee4,
   0xc6e00bf33da88fc2d5a79147930aa72506ca6351e003826f142929670a0e6e70,
   0x27b70a8546d22ffc2e1b21385c26c9264d2c6dfc5ac42aed53380d139d95b3df,
   0x650a73548baf63de766a0abb3c77b2a881c2c92e47edaee692722c851482353b]
  ++ [0xa2bfe8a14cf10364a81a664bbc423001c24b8b70d0f89791c76c51a30654be30,
   0xd192e819d6ef5218d69906245565a910f40e35855771202a106aa07032bbd1b8,
   0x19a4c116b8d2d0c81e376c085141ab532748774cdf8eeb9934b0bcb5e19b48a8,
   0x391c0cb3c5c95a634ed8aa4ae3418acb5b9cca4f7763e373682e6ff3d6b2b8a3,
   0x748f82ee5defb2fc78a5636f43172f6084c87814a1f0ab728cc702081a6439ec]
  ++ [0x90befffa23631e28a4506cebde82bde9bef9a3f7b2c67915c67178f2e372532b,
   0xca273eceea26619cd186b8c721c0c207eada7dd6cde0eb1ef57d4f7fee6ed178,
   0x06f067aa72176fba0a637dc5a2c898a6113f9804bef90dae1b710b35131c471b,
   0x28db77f523047d8432caab7b40c724933c9ebe0a15c9bebc431d67c49c100d4c,
   0x4cc5d4becb3e42b6597f299cfc657e2a5fcb6fab3ad6faec6c44198c4a475817]

/-- The round constants: SHA-256 takes the upper halves of the first 64. -/
def kWide : List Nat := cubeRoots.flatMap (quads 4)
def kNarrow : List Nat := (kWide.take 64).map (· / 2 ^ 32)

def shaNarrow : Sha :=
  { w := 32, k := kNarrow, s0 := (7, 18, 3), s1 := (17, 19, 10), b0 := (2, 13, 22), b1 := (6, 11, 25) }
def shaWide : Sha :=
  { w := 64, k := kWide, s0 := (1, 8, 7), s1 := (19, 61, 6), b0 := (28, 34, 39), b1 := (14, 18, 41) }

/-- Initial values, from the square roots of the first eight primes, and of the next eight for SHA-384. -/
def h512 : List Nat :=
  quads 4 0x6a09e667f3bcc908bb67ae8584caa73b3c6ef372fe94f82ba54ff53a5f1d36f1
    ++ quads 4 0x510e527fade682d19b05688c2b3e6c1f1f83d9abfb41bd6b5be0cd19137e2179
def h384 : List Nat :=
  quads 4 0xcbbb9d5dc1059ed8629a292a367cd5079159015a3070dd17152fecd8f70e5939
    ++ quads 4 0x67332667ffc00b318eb44a8768581511db0c2e0d64f98fa747b5481dbefa4fa4
def h256 : List Nat := h512.map (· / 2 ^ 32)

def Sha.small (h : Sha) (r : Nat × Nat × Nat) (x : Nat) : Nat := rotr h.w x r.1 ^^^ rotr h.w x r.2.1 ^^^ (x >>> r.2.2)
def Sha.big (h : Sha) (r : Nat × Nat × Nat) (x : Nat) : Nat := rotr h.w x r.1 ^^^ rotr h.w x r.2.1 ^^^ rotr h.w x r.2.2

/-- One round; the schedule window holds the next sixteen words, and yields its first. -/
def Sha.round (h : Sha) (sv : List Nat × List Nat) (k : Nat) : List Nat × List Nat :=
  let m := 2 ^ h.w
  match sv with
  | ([a, b, c, d, e, f, g, i], w) =>
    let w0 := w.getD 0 0
    let pick := g ^^^ (e &&& (f ^^^ g))
    let most := (a &&& (b ||| c)) ||| (b &&& c)
    let t1 := i + k + w0 + pick + h.big h.b1 e
    let t2 := most + h.big h.b0 a
    let nw := (h.small h.s1 (w.getD 14 0) + w.getD 9 0 + h.small h.s0 (w.getD 1 0) + w0) % m
    ([(t1 + t2) % m, a, b, c, (d + t1) % m, e, f, g], w.drop 1 ++ [nw])
  | sv => sv

/-- One block of sixteen words. -/
def Sha.block (h : Sha) (st : List Nat) (ws : List Nat) : List Nat :=
  let r := h.k.foldl h.round (st, ws)
  (st.zip r.1).map fun x => (x.1 + x.2) % 2 ^ h.w

/-- Words of a padded message, most significant byte first. -/
def beWords (fuel n : Nat) (l : List Byte) : List Nat :=
  match fuel with
  | 0 => []
  | fuel + 1 => if l.isEmpty then [] else beNat (l.take n) :: beWords fuel n (l.drop n)

/-- Blocks in order. -/
def Sha.blocks (h : Sha) (fuel : Nat) (st : List Nat) (ws : List Nat) : List Nat :=
  match fuel with
  | 0 => st
  | fuel + 1 => if ws.isEmpty then st else Sha.blocks h fuel (h.block st (ws.take 16)) (ws.drop 16)

/-- The padded message: a one bit, zeros, and the bit length. -/
def Sha.pad (h : Sha) (m : List Byte) : List Byte :=
  let bs := h.w * 2
  let lf := h.w / 4
  let z := (2 * bs - (m.length + 1 + lf) % bs) % bs
  m ++ [0x80] ++ List.replicate z 0 ++ beBytes lf (8 * m.length)

def Sha.hash (h : Sha) (iv : List Nat) (out : Nat) (m : List Byte) : List Byte :=
  let p := h.pad m
  let ws := beWords p.length (h.w / 8) p
  ((h.blocks ws.length iv ws).flatMap fun x => beBytes (h.w / 8) x).take out

def sha256 (m : List Byte) : List Byte := shaNarrow.hash h256 32 m
def sha384 (m : List Byte) : List Byte := shaWide.hash h384 48 m
def sha512 (m : List Byte) : List Byte := shaWide.hash h512 64 m

/-- The compare unit: its one result says whether two strings agree in their first LEN bytes, LEN being taken within 1 to 64 (R354). -/
def sameBytes (len : Nat) (a b : List Byte) : Bool := slice a 0 (min 64 (max 1 len)) == slice b 0 (min 64 (max 1 len))

/-- A digest of 48 bytes that stands somewhere, if one does, is the given one. -/
def sameDigest (named : Option (List Byte)) (d : List Byte) : Bool := match named with | some n => sameBytes 48 n d | none => false

/-- HMAC over a hash with blocks of `bs` bytes. -/
def hmac (hash : List Byte → List Byte) (bs : Nat) (key m : List Byte) : List Byte :=
  let k := if bs < key.length then hash key else key
  let k := k ++ List.replicate (bs - k.length) 0
  hash ((k.map (· ^^^ 0x5C)) ++ hash ((k.map (· ^^^ 0x36)) ++ m))

def hmac256 (key m : List Byte) : List Byte := hmac sha256 64 key m
def hmac384 (key m : List Byte) : List Byte := hmac sha384 128 key m
def hmac512 (key m : List Byte) : List Byte := hmac sha512 128 key m

-- ## HMAC_DRBG with SHA-384 (R362)

/-- K and V. -/
abbrev DrbgKV := List Byte × List Byte

/-- HMAC_DRBG_Update. -/
def drbgUpdate (kv : DrbgKV) (data : List Byte) : DrbgKV :=
  let k := hmac384 kv.1 (kv.2 ++ [0x00] ++ data)
  let v := hmac384 k kv.2
  if data.isEmpty then (k, v) else
    let k := hmac384 k (v ++ [0x01] ++ data)
    (k, hmac384 k v)

/-- Instantiation from the seed material. -/
def drbgSeed (material : List Byte) : DrbgKV :=
  drbgUpdate (List.replicate 48 0x00, List.replicate 48 0x01) material

/-- Output blocks until enough bytes are out. -/
def drbgOut (fuel : Nat) (kv : DrbgKV) (n : Nat) (acc : List Byte) : List Byte × DrbgKV :=
  match fuel with
  | 0 => (acc.take n, kv)
  | fuel + 1 =>
    if n ≤ acc.length then (acc.take n, kv)
    else let v := hmac384 kv.1 kv.2; drbgOut fuel (kv.1, v) n (acc ++ v)

/-- One generate of `n` bytes. -/
def drbgBytes (kv : DrbgKV) (n : Nat) : List Byte × DrbgKV :=
  let r := drbgOut (n / 48 + 1) kv n []
  (r.1, drbgUpdate r.2 [])

-- ## Byte strings for derivations

/-- A 16-byte word as bytes, lowest first. -/
def qbytes (x : QWord) : List Byte := leBytes 16 x.toNat

end Sys2Proof.Machine
end

