-- ==== Sys2Proof/Machine/Measure.lean ====
section
/-! DEFINITION. Measurement registers and the event log (R400 to R405), the digests of programs and weights (R353, R406), and the
commands LOAD_PROGRAM, LOAD_WEIGHTS, MEASURE and CLEAR_REGION with the ends of their work (R73 to R78, R133 to R139, R217, R402,
R407, R408, R442). -/
namespace Sys2Proof.Machine

-- ## Extends

def zeros48 : List Byte := List.replicate 48 0
def failedValue : List Byte := List.replicate 48 0xFF
def State.mr (s : State) (i : Nat) : List Byte := s.attest.mrs.look zeros48 i

/-- Where entry `i` of the event log lies (R404). -/
def logBase : Nat := reserveBase + 0x3C00000

/-- An event-log entry as bytes (Table 16.2). -/
def LogEntry.bytes (e : LogEntry) (i : Nat) : List Byte :=
  leBytes 4 i ++ leBytes 8 e.seq.toNat ++ [e.mr, e.kind, e.flags, e.handle] ++ e.value

/-- An entry joins the log; a full log sets LOG_OVERFLOW instead. The bytes stand in the reserve once its boot clear has ended. -/
def State.logAdd (s : State) (e : LogEntry) : State :=
  let n := s.attest.log.length
  if 65536 ≤ n then { s with attest := { s.attest with overflow := true } } else
    let s := { s with attest := { s.attest with log := s.attest.log ++ [e] } }
    if s.boot.cleared then s.write (logBase + 64 * n) (e.bytes n) else s

/-- The sequence number an entry carries: the command's, or GLB_TALLY_HEAD, or 0 before the tally starts. -/
def State.logSeq (s : State) (seq : Option DWord) : DWord := seq.getD (if s.tally.begun then s.tally.head else 0)

/-- An extend with its log entry (R401); no value means that the input failed. -/
def State.extend (s : State) (mr kind : Nat) (handle : Byte) (v : Option (List Byte)) (seq : Option DWord := none)
    (mismatch : Bool := false) : State :=
  let value := v.getD failedValue
  let flags : Byte := BitVec.ofNat 8 (b2n v.isNone + 2 * b2n mismatch)
  let e := sha384 ([BitVec.ofNat 8 mr, BitVec.ofNat 8 kind, flags, handle] ++ value)
  let s := { s with attest := { s.attest with mrs := s.attest.mrs.put zeros48 mr (sha384 (s.mr mr ++ e))
                                              mrFailed := s.attest.mrFailed || v.isNone } }
  s.logAdd { seq := s.logSeq seq, mr := BitVec.ofNat 8 mr, kind := BitVec.ofNat 8 kind, flags, handle, value }

/-- MR(8 + k) returns to zero with a RESET entry (R403). -/
def State.resetMr (s : State) (k : Nat) : State :=
  let s := { s with attest := { s.attest with mrs := s.attest.mrs.put zeros48 (8 + k) zeros48 } }
  s.logAdd { seq := s.logSeq none, mr := BitVec.ofNat 8 (8 + k), kind := 0x20, flags := 0, handle := 0, value := zeros48 }

-- ## Digests (R353)

def chunkDigests (fuel : Nat) (l : List Byte) : List Byte :=
  match fuel with
  | 0 => []
  | fuel + 1 => if l.isEmpty then [] else sha384 (l.take 0x100000) ++ chunkDigests fuel (l.drop 0x100000)

/-- The weight digest: SHA-384 over the digests of the 1 MiB chunks. -/
def weightDigest (l : List Byte) : List Byte := sha384 (chunkDigests (l.length / 0x100000 + 1) l)

def up64k (n : Nat) : Nat := cdiv n 0x10000 * 0x10000

/-- GLB_DIGEST_COUNTS (R351). -/
def State.countShort (s : State) : State := { s with eng := { s.eng with shorts := satAdd s.eng.shorts 1 } }
def State.countTrunc (s : State) : State := { s with eng := { s.eng with truncs := satAdd s.eng.truncs 1 } }

-- ## Regions by handle

def State.region (s : State) (weights : Bool) (p h : Nat) : Region :=
  if weights then (s.part p).wgts.look {} h else (s.part p).progs.look {} h
def State.setRegion (s : State) (weights : Bool) (p h : Nat) (r : Region) : State :=
  s.modPart p fun v => if weights then { v with wgts := v.wgts.put {} h r } else { v with progs := v.progs.put {} h r }

/-- A handle that names a sealed region whose load has ended. -/
def Region.loaded (r : Region) : Bool := r.used && r.closed

-- ## LOAD_PROGRAM and LOAD_WEIGHTS

/-- The checks of a load before any byte is read (R133, R216). The destination is checked with PLEN, since no byte of the image has
been read (DEDUCED [log 22]). -/
def loadChecks (weights : Bool) (s : State) (c : Cmd) (plen : Nat) : List (Bool × Byte) :=
  let src := c.addr 16
  let dest := c.addr 32 / 0x10000 * 0x10000
  let len := max 0x10000 (up64k plen)
  [((s.region weights c.part (c.f 8 1)).used, stBadHandle),
   (s.noRead c.part src plen, stDenied),
   (!within (s.cfg.part c.part).vaultRanges dest len, stDenied),
   (s.hitsSealed dest len || overlaps dest len reserveBase granule, stDenied),
   ((s.kvHit dest len).isSome, stDenied),
   (s.fencedAt src plen || s.fencedAt dest len, stFenced)]

/-- A load that ends with SHORT extends the failed value and leaves no handle (R134, R402). -/
def State.loadFailed (s : State) (weights : Bool) (c : Cmd) : State :=
  let r := s.region weights c.part (c.f 8 1)
  let s := if r.used && !r.closed && r.loadSeq == c.seq then s.setRegion weights c.part (c.f 8 1) {} else s
  let s := s.extend (8 + c.part) (if weights then 0x11 else 0x10) (BitVec.ofNat 8 (c.f 8 1)) none (some c.seq)
  s.complete c.seq stShort

/-- The parts of a range outside bunded vaults. -/
def State.unfenced (s : State) (a n : Nat) : List (Nat × Nat) :=
  (List.range 8).filterMap (fun v =>
    let lo := max a (v * vaultSize)
    let hi := min (a + n) ((v + 1) * vaultSize)
    if lo < hi && !s.errs.vaults.getLsbD v then some (lo, hi - lo) else none)
    ++ (if 8 * vaultSize < a + n then [(max a (8 * vaultSize), a + n - max a (8 * vaultSize))] else [])

/-- A range is handed to the clear engine for a command, which waits for it. -/
def State.startClear (s : State) (c : Cmd) (a n : Nat) : State :=
  let job : ClearJob := { whole := false, part := c.part, seq := c.seq, ranges := s.unfenced a n, pans := 0 }
  { s with memSys := { s.memSys with clears := s.memSys.clears ++ [job] } }.modCmd c.seq
    fun d => { d with working := true, status := stOk }

/-- The data end early: the input counts as SHORT, and an open region is cleared by the clear engine and released before the completion
entry is written (R134, R351). -/
def State.loadShort (s : State) (weights : Bool) (c : Cmd) : State :=
  let r := s.region weights c.part (c.f 8 1)
  let s := s.countShort
  if r.used && !r.closed && r.loadSeq == c.seq then s.startClear c r.base r.len else s.loadFailed weights c

/-- The region is closed to every writer but the mover while the copy runs (R134). -/
def State.openRegion (s : State) (weights : Bool) (c : Cmd) (len plen : Nat) (prog : ProgInfo) (status : Byte) : State :=
  let s := s.setRegion weights c.part (c.f 8 1)
    { used := true, base := c.addr 32 / 0x10000 * 0x10000, len := up64k len, plen := BitVec.ofNat 64 plen, loadSeq := c.seq, prog }
  s.modCmd c.seq fun d => { d with working := true, status }

def alignClamp (a m : Nat) : BitVec 16 := if a % m = 0 then 0 else cAlign

/-- The header's checks and clamps (R74): descriptor and instruction counts, pan limits, and whether something was clamped. -/
structure Header where
  nDesc : Nat
  nInstr : Nat
  pmin : Nat
  pmax : Nat
  cycles : Nat
  flags : Nat
  clamped : Bool
  deriving DecidableEq, Repr

def readHeader (h : List Byte) : Option Header :=
  if leAt h 0 4 ≠ 0x4E345047 ∨ leAt h 4 2 ≠ 2 then none else
    let n := leAt h 8 4
    let nInstr := min 65536 (max 1 n)
    let lim (x : Nat) := min 64 (max 1 x)
    let pmin := lim (leAt h 0x10 1)
    let pmax := max pmin (lim (leAt h 0x11 1))
    some { nDesc := leAt h 6 1, nInstr, pmin, pmax, cycles := leAt h 0xC 4, flags := leAt h 0x12 2
           clamped := nInstr != n || pmin != leAt h 0x10 1 || pmax != leAt h 0x11 1 || leAt h 7 1 != 0 || leAt h 0x14 12 != 0 }

/-- Bytes the header asks for (R217). -/
def Header.need (h : Header) : Nat := 64 + 16 * (h.nDesc + h.nInstr)

/-- 16 B words of memory as numbers. -/
def State.words (s : State) (a n : Nat) : List Nat := (List.range n).map fun i => s.readN (a + 16 * i) 16

def loadProgramAct (c : Cmd) (s : State) : State :=
  let plen := c.f 24 8
  let src := c.addr 16
  let s := s.clampCmd c.seq (alignClamp (c.addr 32) 0x10000)
  checked (loadChecks false s c plen) (fun s =>
    if plen < 64 ∨ s.marked src 64 then s.loadShort false c else
      match readHeader (s.read src 64) with
      | none => s.complete c.seq stBadHandle
      | some h =>
        if plen < h.need ∨ s.marked src h.need then s.loadShort false c else
          match checkProgram (s.words (src + 64) h.nDesc) (s.words (src + 64 + 16 * h.nDesc) h.nInstr) with
          | none => s.complete c.seq stBadHandle
          | some k =>
            let s := s.clampCmd c.seq ((if h.clamped || h.flags != k.flags then cHeader else 0)
              ||| (if k.clamped = 0 then 0 else cProgramField))
            let prog : ProgInfo := { nInstr := h.nInstr, nDesc := h.nDesc, flags := BitVec.ofNat 8 k.flags, pansMin := h.pmin
                                     pansMax := h.pmax, staticCycles := BitVec.ofNat 32 h.cycles, clampedWords := k.clamped
                                     firstClamped := k.first }
            s.openRegion false c h.need plen prog (if h.need < plen then stTrunc else stOk)) c s

def loadWeightsAct (c : Cmd) (s : State) : State :=
  let plen := max 1 (c.f 24 8)
  let s := s.clampCmd c.seq (alignClamp (c.addr 32) 0x10000 ||| (if c.f 24 8 = 0 then cLength else 0))
  checked (loadChecks true s c plen) (fun s => s.openRegion true c plen plen {} stOk) c s

def execLoadProgram (seq : DWord) (s : State) : Host.Outcome State Fault Refusal :=
  .next (startRow 2 (fun _ => true) loadProgramAct seq s)
def execLoadWeights (seq : DWord) (s : State) : Host.Outcome State Fault Refusal :=
  .next (startRow 3 (fun _ => true) loadWeightsAct seq s)

/-- The mover's copy ends (R133 steps 5 and 6): the data and the zero tail stand in the region, the digest is extended and recorded,
and the load completes. Staging data that a marked unit, a failed transfer or a bunded vault cuts short ends it with SHORT (R351,
R436); a destination whose vault was bunded on the way ends it with FENCED (DEDUCED [log 23]). The data copied are those that stand in
the staging range now, while the words were decoded when the load started: a write to the range in between seals words that no check
saw (DESIGN CHOICE [log 73]: R77 and R78 do not order the two). While a time lock keeps the data from travelling, the copy is not done
(R268): the report then says nothing. -/
def copyDone (seq : DWord) (ds : List Detection) (s : State) : State :=
  match s.cmd? seq with
  | none => s
  | some c =>
    if !c.working || s.edge.stopped || s.saltern.halted || !(c.op == 2 || c.op == 3)
      || s.memSys.clears.any (fun j => !j.whole && j.seq == seq) then s else
      let weights := c.op == 3
      if s.copyHeld (c.addr 16) (s.region weights c.part (c.f 8 1)).base then s else
      let s := s.detectAll none { part := some c.part, seq := some seq } ds
      if s.edge.stopped then s else
      let h := c.f 8 1
      let r := s.region weights c.part h
      let n := if weights then r.plen.toNat else 64 + 16 * (r.prog.nDesc + r.prog.nInstr)
      let src := c.addr 16
      if s.marked src n || s.fencedAt src n || ds.any detStops then s.loadShort weights c
      else if s.fencedAt r.base r.len then (s.setRegion weights c.part h {}).complete seq stFenced
      else
        let data := s.read src n
        let s := (s.write r.base data).zero (r.base + n) (r.len - n)
        let digest := if weights then weightDigest data else sha384 data
        let s := s.setRegion weights c.part h { r with closed := true, digest, status := 0 }
        let s := if c.status = stTrunc then s.countTrunc else s
        let s := s.extend (8 + c.part) (if weights then 0x11 else 0x10) (BitVec.ofNat 8 h) (some digest) (some seq)
        s.complete seq c.status

def execSealedCopyDone (seq : DWord) (ds : List Detection) (s : State) : Host.Outcome State Fault Refusal :=
  .next (copyDone seq ds s)

-- ## MEASURE (R407, R408)

/-- The region is hashed again; a digest that differs, or an input that fails, makes it MISMATCH. -/
def measureAct (weights : Bool) (c : Cmd) (s : State) : State :=
  let h := c.f 9 1
  let r := s.region weights c.part h
  let res := c.addr 32
  checked [(!r.loaded, stBadHandle), (s.noWrite c.part res 48, stDenied), (s.fencedAt res 48, stFenced)] (fun s =>
    let n := if weights then r.plen.toNat else 64 + 16 * (r.prog.nDesc + r.prog.nInstr)
    let kind := if weights then 0x13 else 0x12
    if s.marked r.base n || s.fencedAt r.base n then
      let s := (s.setRegion weights c.part h { r with status := 3 }).countShort
      let s := s.extend (8 + c.part) kind (BitVec.ofNat 8 h) none (some c.seq) true
      s.complete c.seq stPoison
    else
      let data := s.read r.base n
      let digest := if weights then weightDigest data else sha384 data
      let same := digest == r.digest
      let s := s.engineWrite res digest
      let s := s.setRegion weights c.part h { r with status := if same then 2 else 3 }
      let s := s.extend (8 + c.part) kind (BitVec.ofNat 8 h) (some digest) (some c.seq) (!same)
      s.complete c.seq (if same then stOk else stPoison)) c s

def execMeasureProgram (seq : DWord) (s : State) : Host.Outcome State Fault Refusal :=
  .next (startRow 4 (fun x => x == 0) (measureAct false) seq s)
def execMeasureWeights (seq : DWord) (s : State) : Host.Outcome State Fault Refusal :=
  .next (startRow 4 (fun x => x == 1) (measureAct true) seq s)

/-- Owner data, for operator initiators. -/
def measureOwnerAct (c : Cmd) (s : State) : State :=
  let mr := c.f 10 1
  let src := c.addr 16
  let n := c.f 24 8
  let res := c.addr 32
  checked [(!s.isOperator c.ini, stDenied), (mr < 24 || 31 < mr, stBadHandle),
    (s.noRead c.part src n || s.noWrite c.part res 48, stDenied), (s.fencedAt src n || s.fencedAt res 48, stFenced)] (fun s =>
    if s.marked src n then (s.countShort.extend mr 0x14 0 none (some c.seq)).complete c.seq stPoison
    else
      let digest := sha384 (s.read src n)
      ((s.engineWrite res digest).extend mr 0x14 0 (some digest) (some c.seq)).complete c.seq stOk) c s

/-- The hash takes a Saltern context, and waits while every context holds a message (R350, R408). -/
def execMeasureOwner (seq : DWord) (s : State) : Host.Outcome State Fault Refusal :=
  .next (match s.cmd? seq with
    | some c => if s.ctxsFull && s.isOperator c.ini && 24 ≤ c.f 10 1 && c.f 10 1 ≤ 31 then s
        else startRow 4 (fun x => x == 2) measureOwnerAct seq s
    | none => s)

-- ## CLEAR_REGION (R136, R442)

def clearHandleAct (weights : Bool) (c : Cmd) (s : State) : State :=
  let r := s.region weights c.part (c.f 9 1)
  checked [(!r.loaded, stBadHandle)] (fun s => s.startClear c r.base r.len) c s

def clearRangeAct (c : Cmd) (s : State) : State :=
  let a := c.addr 16 / 4096 * 4096
  let n := cdiv (c.f 24 8) 4096 * 4096
  let s := s.clampCmd c.seq (alignClamp (c.addr 16) 4096 ||| alignClamp (c.f 24 8) 4096)
  checked [(!within (s.ranges c.part) a n || s.hitsSealed a n, stDenied), (s.fencedAt a n, stFenced)]
    (fun s => s.startClear c a n) c s

def execClearRegionProgram (seq : DWord) (s : State) : Host.Outcome State Fault Refusal :=
  .next (startRow 7 (fun x => x == 0) (clearHandleAct false) seq s)
def execClearRegionWeights (seq : DWord) (s : State) : Host.Outcome State Fault Refusal :=
  .next (startRow 7 (fun x => x == 1) (clearHandleAct true) seq s)
def execClearRegionRange (seq : DWord) (s : State) : Host.Outcome State Fault Refusal :=
  .next (startRow 7 (fun x => x == 2) clearRangeAct seq s)

-- ## What verification finds (R139, R444)

/-- Which memories a set of ranges touches: vaults and ports. -/
def touchedVaults (rs : List (Nat × Nat)) : List Nat :=
  (List.range 8).filter fun v => rs.any fun r => overlaps r.1 r.2 (v * vaultSize) vaultSize
def touchedPorts (rs : List (Nat × Nat)) : List Nat :=
  (List.range 6).filter fun p => rs.any fun r => overlaps r.1 r.2 (lpBase + p * lpStride) lpStride

/-- A range of a port whose clear failed is withheld from its base to its end. -/
def State.withhold (s : State) (port src : Nat) (r : Nat × Nat) (met : Met) : State :=
  let s := s.record eWithheld src (0x48 + port) r.1 met
  { s with memSys := { s.memSys with withheld := s.memSys.withheld ++ [r] }
           errs := { s.errs with lpWithheld := s.errs.lpWithheld ||| BitVec.ofNat 6 (2 ^ port) } }

/-- The positions at which vaults and ports are verified come from the DRBG: how many requests that takes no rule states, so the DRBG's
state and its count are free afterwards. In ERROR it gives nothing, and every granule is verified (R138, R363, R365). -/
def State.drawPositions (s : State) : State :=
  if s.eng.drbg != .ready then s else
    let (b, s) := s.freeBytes 96
    let (k, s) := s.draw
    { s with eng := { s.eng with drbgK := b.take 48, drbgV := b.drop 48, drbgCount := (freeCycles k).toNat % 65537 } }

/-- A clear that verifies vaults or ports waits for its positions until the DRBG is instantiated (R364), and any clear for the time locks
between the clear engine, in row 0, and what it clears (R268). -/
def State.clearWaits (s : State) (rs : List (Nat × Nat)) (pans : List Nat := []) : Bool :=
  (s.eng.drbg == .uninstantiated && !((touchedVaults rs).isEmpty && (touchedPorts rs).isEmpty))
    || (touchedVaults rs).any (fun v => s.pathHeld none 0 v)
    || (touchedPorts rs).any (fun k => s.addrHeld none 0 (lpBase + k * lpStride))
    || pans.any fun p => s.pathHeld none 0 (p / 8)

/-- The ranges are zeroed and verified: what failed twice is bunded or withheld. Answers whether all passed. -/
def State.verify (s : State) (v : ClearVerdict) (rs : List (Nat × Nat)) (pans : List Nat) (met : Met) : Bool × State :=
  let vs := touchedVaults rs
  let ps := touchedPorts rs
  let s := if vs.isEmpty && ps.isEmpty then s else s.drawPositions
  let s := rs.foldl (fun s r => s.zero r.1 r.2) s
  let s := pans.foldl (fun s p => ((s.zero (storeBase p) 0x200000).zero (accBase p) 0x40000).zero (imemBase p) 0x20000) s
  let badV := vs.filter fun i => v.retryVaults.getLsbD i && v.failVaults.getLsbD i
  let badP := ps.filter fun i => v.retryPorts.getLsbD i && v.failPorts.getLsbD i
  let badQ := pans.filter fun i => v.retryPans.getLsbD i && v.failPans.getLsbD i
  let retried := vs.any (fun i => v.retryVaults.getLsbD i) || ps.any (fun i => v.retryPorts.getLsbD i)
    || pans.any (fun i => v.retryPans.getLsbD i)
  let ok := badV.isEmpty && badP.isEmpty && badQ.isEmpty
  let s := { s with memSys := { s.memSys with sampleRetry := s.memSys.sampleRetry || retried
                                              sampleFail := s.memSys.sampleFail || !ok } }
  let s := badQ.foldl (fun s p => s.bundPan p 9 met) s
  let s := badV.foldl (fun s i => s.bundVault i 9 0 met) s
  let s := badP.foldl (fun s i => (rs.filter fun r => overlaps r.1 r.2 (lpBase + i * lpStride) lpStride).foldl
    (fun s r => s.withhold i 9 r met) s) s
  (ok, s)

/-- The clear engine has done what a command asked for: the handle is released and the command completes. A CLEAR_REGION whose clear
failed completes with POISON (R136, R139); a LOAD whose copy was short completes with SHORT (R134). -/
def clearRegionDone (seq : DWord) (v : ClearVerdict) (s : State) : State :=
  match s.cmd? seq, s.memSys.clears.find? (fun j => !j.whole && j.seq == seq) with
  | some c, some j =>
    if s.edge.stopped || s.saltern.halted || !c.working || s.clearWaits j.ranges then s else
      let (ok, s) := s.verify v j.ranges [] { part := some c.part, seq := some seq }
      if s.edge.stopped then s else
      let s := { s with memSys := { s.memSys with clears := s.memSys.clears.filter fun k => k != j } }
      if c.op == 7 then
        let s := if c.f 8 1 ≤ 1 then s.setRegion (c.f 8 1 == 1) c.part (c.f 9 1) {} else s
        s.complete seq (if ok then c.status else stPoison)
      else s.loadFailed (c.op == 3) c
  | _, _ => s

def execClearRegionDone (seq : DWord) (v : ClearVerdict) (s : State) : Host.Outcome State Fault Refusal :=
  .next (clearRegionDone seq v s)

end Sys2Proof.Machine
end

