-- ==== Sys2Proof/Machine/Mldsa.lean ====
section
/-! DEFINITION. ML-DSA-65 as FIPS 204 defines it, and the SHAKE of FIPS 202 it uses (R310, R356 to R358). The spec names the
standard; the algorithm is the standard's (PRESUMED [log 20]). -/
namespace Sys2Proof.Machine

-- ## Keccak

def keccakRc : List Nat :=
  [0x0000000000000001, 0x0000000000008082, 0x800000000000808A, 0x8000000080008000, 0x000000000000808B, 0x0000000080000001,
   0x8000000080008081, 0x8000000000008009, 0x000000000000008A, 0x0000000000000088, 0x0000000080008009, 0x000000008000000A]
  ++ [0x000000008000808B, 0x800000000000008B, 0x8000000000008089, 0x8000000000008003, 0x8000000000008002, 0x8000000000000080,
   0x000000000000800A, 0x800000008000000A, 0x8000000080008081, 0x8000000000008080, 0x0000000080000001, 0x8000000080008008]

/-- Rotation of lane `x + 5y`. -/
def keccakRho : List Nat := [0, 1, 62, 28, 27, 36, 44, 6, 55, 20, 3, 10, 43, 25, 39, 41, 45, 15, 21, 8, 18, 2, 61, 56, 14]

def rotl64 (x n : Nat) : Nat := ((x <<< n) % 2 ^ 64) ||| (x >>> (64 - n))

/-- One round of Keccak-f[1600] on 25 lanes, lane `x + 5y`. -/
def keccakRound (a : Array Nat) (rc : Nat) : Array Nat :=
  let g (a : Array Nat) (i : Nat) := a.getD i 0
  let c := (List.range 5).map (fun x => g a x ^^^ g a (x + 5) ^^^ g a (x + 10) ^^^ g a (x + 15) ^^^ g a (x + 20)) |>.toArray
  let d := (List.range 5).map (fun x => g c ((x + 4) % 5) ^^^ rotl64 (g c ((x + 1) % 5)) 1) |>.toArray
  let t := (List.range 25).map (fun i => rotl64 (g a i ^^^ g d (i % 5)) (keccakRho.getD i 0)) |>.toArray
  -- lane (x, y) of the result of pi is lane (x + 3y, x)
  let b := (List.range 25).map (fun i => g t ((i % 5 + 3 * (i / 5)) % 5 + 5 * (i % 5))) |>.toArray
  let x := (List.range 25).map (fun i =>
    let y := 5 * (i / 5)
    g b i ^^^ ((2 ^ 64 - 1 - g b (y + (i + 1) % 5)) &&& g b (y + (i % 5 + 2) % 5)))
  (x.zipIdx.map fun vi => if vi.2 = 0 then vi.1 ^^^ rc else vi.1).toArray

def keccakF (a : Array Nat) : Array Nat := keccakRc.foldl keccakRound a

def xorBlock (a : Array Nat) (block : List Byte) : Array Nat :=
  ((List.range 25).map fun i => a.getD i 0 ^^^ leAt block (8 * i) 8).toArray

def absorb (fuel rate : Nat) (a : Array Nat) (m : List Byte) : Array Nat :=
  match fuel with
  | 0 => a
  | fuel + 1 => if m.isEmpty then a else absorb fuel rate (keccakF (xorBlock a (m.take rate))) (m.drop rate)

def squeeze (fuel rate : Nat) (a : Array Nat) : List Byte :=
  match fuel with
  | 0 => []
  | fuel + 1 => (a.toList.flatMap (leBytes 8)).take rate ++ squeeze fuel rate (keccakF a)

/-- SHAKE with a rate in bytes: the first `n` bytes of output. -/
def shake (rate : Nat) (m : List Byte) (n : Nat) : List Byte :=
  let padLen := rate - m.length % rate
  let pad : List Byte := if padLen = 1 then [0x9F] else 0x1F :: (List.replicate (padLen - 2) 0x00 ++ [0x80])
  let msg := m ++ pad
  (squeeze (n / rate + 1) rate (absorb (msg.length / rate + 1) rate (List.replicate 25 0).toArray msg)).take n

def shake128 : List Byte → Nat → List Byte := shake 168
def shake256 : List Byte → Nat → List Byte := shake 136

-- ## The ring

def mq : Nat := 8380417
/-- A polynomial: 256 coefficients below q. -/
abbrev Poly := List Nat

/-- The powers of 1753, by exponent below 512. -/
def zetas : Array Nat := ((List.range 511).foldl (fun (a : Array Nat) _ => a.push (a.back! * 1753 % mq)) #[1])
def zetaPow (e : Nat) : Nat := zetas.getD (e % 512) 0

/-- Evaluation at the 256 roots in the standard's order, by halving; `e` is the exponent of the present modulus. -/
def ntt (lvl e : Nat) (l : Poly) : Poly :=
  match lvl with
  | 0 => l
  | n + 1 =>
    let h := 2 ^ n
    let z := zetaPow (e / 2)
    let a := l.take h
    let t := (l.drop h).map fun x => x * z % mq
    ntt n (e / 2) (List.zipWith (fun x y => (x + y) % mq) a t)
      ++ ntt n (e / 2 + 256) (List.zipWith (fun x y => (x + mq - y) % mq) a t)

def nttInv (lvl e : Nat) (l : Poly) : Poly :=
  match lvl with
  | 0 => l
  | n + 1 =>
    let h := 2 ^ n
    let x := nttInv n (e / 2) (l.take h)
    let y := nttInv n (e / 2 + 256) (l.drop h)
    let half := (mq + 1) / 2
    let zi := zetaPow (512 - e / 2)
    List.zipWith (fun x y => (x + y) * half % mq) x y ++ List.zipWith (fun x y => (x + mq - y) * half % mq * zi % mq) x y

def toNtt (l : Poly) : Poly := ntt 8 256 l
def ofNtt (l : Poly) : Poly := nttInv 8 256 l
def pAdd (a b : Poly) : Poly := List.zipWith (fun x y => (x + y) % mq) a b
def pSub (a b : Poly) : Poly := List.zipWith (fun x y => (x + mq - y) % mq) a b
def pMul (a b : Poly) : Poly := List.zipWith (fun x y => x * y % mq) a b
def pZero : Poly := List.replicate 256 0
def pNeg (a : Poly) : Poly := a.map fun x => (mq - x) % mq
/-- The sum of products of a row with a vector, in the evaluated domain. -/
def pDot (r v : List Poly) : Poly := (List.zipWith pMul r v).foldl pAdd pZero
/-- The absolute value of a coefficient's residue nearest zero. -/
def cAbs (x : Nat) : Nat := min x (mq - x)
def normLt (v : List Poly) (b : Nat) : Bool := v.all fun p => p.all fun x => cAbs x < b

-- ## Rounding

/-- Power2Round with d = 13: the high part, and the low part mod q. -/
def power2Round (x : Nat) : Nat × Nat :=
  let r := x % 8192
  let r0 : Int := if r ≤ 4096 then r else (r : Int) - 8192
  ((((x : Int) - r0) / 8192).toNat, (r0 % mq).toNat)

def gamma2 : Nat := 261888

/-- Decompose with alpha = 2 gamma2. -/
def decompose (x : Nat) : Nat × Nat :=
  let a := 2 * gamma2
  let r := x % a
  let r0 : Int := if r ≤ gamma2 then r else (r : Int) - a
  if (x : Int) - r0 = mq - 1 then (0, ((r0 - 1) % mq).toNat) else ((((x : Int) - r0) / a).toNat, (r0 % mq).toNat)

def useHint (h : Bool) (x : Nat) : Nat :=
  let d := decompose x
  if !h then d.1
  else if 0 < d.2 ∧ d.2 ≤ mq / 2 then (d.1 + 1) % 16 else (d.1 + 15) % 16

-- ## Packing

/-- Values of `n` bits as bytes, first value lowest. -/
def packBits (n : Nat) (l : List Nat) : List Byte :=
  let rec go (l : List Nat) (acc k : Nat) (out : List Byte) : List Byte :=
    match l with
    | [] => out.reverse
    | x :: l =>
      let acc := acc + x * 2 ^ k
      let k := k + n
      go l (acc >>> (k / 8 * 8)) (k % 8) ((leBytes (k / 8) acc).reverse ++ out)
  go l 0 0 []

def unpackBits (n count : Nat) (l : List Byte) : List Nat :=
  let bs := l.toArray
  (List.range count).map fun i =>
    let lo := i * n
    let v := (List.range (n / 8 + 2)).foldl (fun m k => m + (bs.getD (lo / 8 + k) 0).toNat * 2 ^ (8 * k)) 0
    fld v (lo % 8) n

/-- `c - x` for a coefficient, packed in `n` bits; and its inverse. -/
def packDiff (n c : Nat) (p : Poly) : List Byte := packBits n (p.map fun x => (c + mq - x) % mq)
def unpackDiff (n c : Nat) (l : List Byte) : Poly := (unpackBits n 256 l).map fun x => (c + mq - x) % mq

def mlChunks (n count : Nat) (l : List Byte) : List (List Byte) := (List.range count).map fun i => slice l (n * i) n

-- ## Sampling

/-- Coefficients below q from three bytes each, until 256. -/
def rejNtt (fuel : Nat) (l : List Byte) (acc : List Nat) : Poly :=
  match fuel, l with
  | 0, _ => acc.reverse
  | fuel + 1, a :: b :: c :: l =>
    if 256 ≤ acc.length then acc.reverse else
      let x := a.toNat + b.toNat * 256 + (c.toNat % 128) * 65536
      rejNtt fuel l (if x < mq then x :: acc else acc)
  | _ + 1, _ => acc.reverse

def expandA (rho : List Byte) : List (List Poly) :=
  (List.range 6).map fun r => (List.range 5).map fun s =>
    rejNtt 1000 (shake128 (rho ++ [BitVec.ofNat 8 s, BitVec.ofNat 8 r]) 2016) []

/-- Coefficients from -4 to 4 from half bytes below 9, until 256. -/
def rejBounded (l : List Byte) : Poly :=
  let hs := l.flatMap fun b => [b.toNat % 16, b.toNat / 16]
  ((hs.filter fun h => h < 9).take 256).map fun h => (4 + mq - h) % mq

def expandS (rho : List Byte) : List Poly × List Poly :=
  let one (i : Nat) := rejBounded (shake256 (rho ++ leBytes 2 i) 680)
  ((List.range 5).map one, (List.range 6).map fun i => one (i + 5))

def expandMask (rho : List Byte) (kappa : Nat) : List Poly :=
  (List.range 5).map fun i => unpackDiff 20 524288 (shake256 (rho ++ leBytes 2 (kappa + i)) 640)

/-- 49 coefficients of 1 or -1. -/
def sampleInBall (seed : List Byte) : Poly :=
  let out := shake256 seed 1088
  let h := leAt out 0 8
  let rec go (i : Nat) (fuel : Nat) (l : List Byte) (c : Array Nat) : Array Nat :=
    match fuel, l with
    | 0, _ => c
    | _, [] => c
    | fuel + 1, j :: l =>
      if 256 ≤ i then c
      else if i < j.toNat then go i fuel l c
      else
        let sign := if bitAt h (i + 49 - 256) then mq - 1 else 1
        go (i + 1) fuel l ((c.setIfInBounds i (c.getD j.toNat 0)).setIfInBounds j.toNat sign)
  (go (256 - 49) 1080 (out.drop 8) (List.replicate 256 0).toArray).toList

-- ## Keys, signatures, verification

structure MlKey where
  rho : List Byte
  key : List Byte
  tr : List Byte
  pub : List Byte
  s1 : List Poly
  s2 : List Poly
  t0 : List Poly
  deriving DecidableEq, Repr

/-- ML-DSA.KeyGen_internal of a seed. -/
def mlKey (seed : List Byte) : MlKey :=
  let h := shake256 (seed ++ [6, 5]) 128
  let rho := slice h 0 32
  let (s1, s2) := expandS (slice h 32 64)
  let v := s1.map toNtt
  let t := List.zipWith (fun row e => pAdd (ofNtt (pDot row v)) e) (expandA rho) s2
  let r := t.map fun p => p.map power2Round
  let pub := rho ++ r.flatMap fun p => packBits 10 (p.map (·.1))
  { rho, key := slice h 96 32, tr := shake256 pub 64, pub, s1, s2, t0 := r.map fun p => p.map (·.2) }

def hintBytes (h : List (List Bool)) : List Byte :=
  let idx := h.map fun p => (p.zipIdx.filter (·.1)).map (·.2)
  let all := idx.flatMap fun l => l
  let ends := (List.range 6).map fun i => ((idx.take (i + 1)).map (·.length)).foldl (· + ·) 0
  (all ++ List.replicate (55 - all.length) 0 ++ ends).map fun n => BitVec.ofNat 8 n

/-- The hint of an encoding; none where it is malformed. -/
def readHint (y : List Byte) : Option (List (List Bool)) :=
  let n := y.map (·.toNat)
  let ends := n.drop 55
  let starts := 0 :: ends.take 5
  let ok := (List.zip starts ends).all fun ab => ab.1 ≤ ab.2 && ab.2 ≤ 55
  let parts := (List.zip starts ends).map fun ab => (n.drop ab.1).take (ab.2 - ab.1)
  let rising := parts.all fun l => (List.zip l (l.drop 1)).all fun ab => ab.1 < ab.2
  let zeros := ((n.take 55).drop (ends.getLastD 0)).all (· == 0)
  if ok && rising && zeros then some (parts.map fun l => (List.range 256).map fun i => l.contains i) else none

/-- One attempt after another until one is accepted. -/
def mlAttempts (fuel : Nat) (k : MlKey) (a : List (List Poly)) (mu rho2 : List Byte) (kappa : Nat) : Option (List Byte) :=
  match fuel with
  | 0 => none
  | fuel + 1 =>
    let y := expandMask rho2 kappa
    let yh := y.map toNtt
    let w := a.map fun row => ofNtt (pDot row yh)
    let w1 := w.map fun p => p.map fun x => (decompose x).1
    let ct := shake256 (mu ++ w1.flatMap (packBits 4)) 48
    let c := toNtt (sampleInBall ct)
    let times (v : List Poly) := v.map fun p => ofNtt (pMul c (toNtt p))
    let z := List.zipWith pAdd y (times k.s1)
    let r := List.zipWith pSub w (times k.s2)
    let r0 := r.map fun p => p.map fun x => (decompose x).2
    if !normLt z (524288 - 196) || !normLt r0 (gamma2 - 196) then mlAttempts fuel k a mu rho2 (kappa + 5) else
      let ct0 := times k.t0
      let h := List.zipWith (fun p t => List.zipWith (fun x y => (decompose x).1 != (decompose ((x + y) % mq)).1) p t) r ct0
      let ones := (h.map fun p => (p.filter id).length).foldl (· + ·) 0
      if !normLt ct0 gamma2 || 55 < ones then mlAttempts fuel k a mu rho2 (kappa + 5)
      else some (ct ++ z.flatMap (packDiff 20 524288) ++ hintBytes h)

/-- ML-DSA.Sign with an empty context string; the engine sets no limit on attempts, and the model's 2^20 are never reached. -/
def mlSign (seed msg rnd : List Byte) : Option (List Byte) :=
  let k := mlKey seed
  let mu := shake256 (k.tr ++ [0, 0] ++ msg) 64
  mlAttempts (2 ^ 20) k (expandA k.rho) mu (shake256 (k.key ++ rnd ++ mu) 64) 0

/-- ML-DSA.Verify with an empty context string. -/
def mlVerify (pub msg sig : List Byte) : Bool :=
  if pub.length ≠ 1952 ∨ sig.length ≠ 3309 then false else
    match readHint (slice sig 3248 61) with
    | none => false
    | some h =>
      let rho := slice pub 0 32
      let t1 := (mlChunks 320 6 (pub.drop 32)).map (unpackBits 10 256)
      let ct := slice sig 0 48
      let z := (mlChunks 640 5 (sig.drop 48)).map (unpackDiff 20 524288)
      let mu := shake256 (shake256 pub 64 ++ [0, 0] ++ msg) 64
      let c := toNtt (sampleInBall ct)
      let zh := z.map toNtt
      let w := List.zipWith (fun row t => ofNtt (pSub (pDot row zh) (pMul c (toNtt (t.map fun x => x * 8192 % mq)))))
        (expandA rho) t1
      let w1 := List.zipWith (fun p hs => List.zipWith (fun x b => useHint b x) p hs) w h
      normLt z (524288 - 196) && shake256 (mu ++ w1.flatMap (packBits 4)) 48 == ct

/-- The public key of a seed. -/
def mlPublic (seed : List Byte) : List Byte := (mlKey seed).pub

end Sys2Proof.Machine
end

