-- ==== Sys2Proof/Machine/Mbx.lean ====
section
/-! DEFINITION. The mailbox channels (R321 to R324) and the requests and replies of the Saltern's service channels (R325, R327). -/
namespace Sys2Proof.Machine

-- ## Channels and sides

def Chan.valid (v : Chan) : Bool := v.bind.getLsbD 31
def Chan.sideA (v : Chan) : Nat := fld v.bind.toNat 8 8
def Chan.sideB (v : Chan) : Nat := fld v.bind.toNat 0 8

/-- The side an initiator is of a VALID channel: false for A, true for B (R322). -/
def Chan.side (v : Chan) (ini : Ini) : Option Bool :=
  if !v.valid then none
  else if ini.toNat = v.sideA then some false
  else if ini.toNat = v.sideB then some true else none

/-- The queue a side reads, and the queue it writes. -/
def Chan.incoming (v : Chan) (b : Bool) : List Word := if b then v.aToB else v.bToA
def Chan.outgoing (v : Chan) (b : Bool) : List Word := if b then v.bToA else v.aToB
def Chan.setIn (v : Chan) (b : Bool) (q : List Word) : Chan := if b then { v with aToB := q } else { v with bToA := q }
def Chan.setOut (v : Chan) (b : Bool) (q : List Word) : Chan := if b then { v with bToA := q } else { v with aToB := q }
def Chan.over (v : Chan) (b : Bool) (x : Bool) : Chan := if b then { v with overB := x } else { v with overA := x }
def Chan.under (v : Chan) (b : Bool) (x : Bool) : Chan := if b then { v with underB := x } else { v with underA := x }

/-- A push by a side: a full queue, or a write that is not one of the whole word, sets OVERRUN. The Saltern drops a word that it
still has to discard (R323, R325). -/
def Chan.push (v : Chan) (b : Bool) (w : Word) (whole : Bool) : Chan :=
  let full := 8 ≤ (v.outgoing b).length
  if !whole || full then v.over b true
  else if !b && v.sideB = 0x80 && v.discard ≠ 0 then { v with discard := v.discard - 1 }
  else v.setOut b (v.outgoing b ++ [w])

/-- A pop by a side: an empty queue gives 0 and sets UNDERRUN (R323). -/
def Chan.pop (v : Chan) (b : Bool) : Word × Chan :=
  match v.incoming b with
  | [] => (0, v.under b true)
  | w :: q => (w, v.setIn b q)

/-- MBX_STATUS as a side sees it (Table 12.12). -/
def Chan.status (v : Chan) (b : Bool) : Nat :=
  let n := min 8 (v.incoming b).length
  let room := 8 - min 8 (v.outgoing b).length
  n * 2 ^ 16 + room * 2 ^ 12 + b2n (if b then v.underB else v.underA) * 8 + b2n (if b then v.overB else v.overA) * 4
    + b2n (decide (0 < room)) * 2 + b2n (decide (0 < n))

/-- MBX_PEER as a side sees it. -/
def Chan.peer (v : Chan) (b : Bool) : Nat := b2n b * 256 + (if b then v.sideA else v.sideB)

-- ## Requests and replies (R325)

/-- A service request at the head of a channel's queue. -/
structure SvcReq where
  code : Nat
  len : Nat
  tag : BitVec 16
  words : List Word
  deriving DecidableEq, Repr

/-- Words a service needs after the header; none for a reserved code (Tables 12.13, 13.6, 14.6, 16.8, R398). `w` is word 1, which
says whether KEY_DERIVE has a fourth word. -/
def svcNeed (code : Nat) (w : Nat) : Option Nat :=
  match code with
  | 0x01 => some 1
  | 0x02 => some (if bitAt w 9 then 4 else 3)
  | 0x03 => some 3
  | 0x04 => some 3
  | 0x05 => some 6
  | 0x06 => some 6
  | 0x07 => some 4
  | 0x08 => some 1
  | 0x09 => some 3
  | 0x10 => some 2
  | 0x11 => some 2
  | 0x12 => some 1
  | 0x18 => some 6
  | 0x19 => some 7
  | 0x1A => some 1
  | 0x20 => some 7
  | 0x21 => some 4
  | 0x22 => some 3
  | 0x23 => some 1
  | 0x40 => some 4
  | _ => none

/-- The request at the head of a service channel. -/
def Chan.request (v : Chan) : Option SvcReq :=
  if !v.valid || v.sideB ≠ 0x80 then none else
    match v.aToB with
    | [] => none
    | h :: q => some { code := fld h.toNat 24 8, len := fld h.toNat 16 8, tag := BitVec.ofNat 16 h.toNat
                       words := q.take (fld h.toNat 16 8) }

/-- Words the request still needs; a reserved code needs none. -/
def SvcReq.need (r : SvcReq) : Nat := (svcNeed r.code ((r.words.map (·.toNat)).headD 0)).getD 0

/-- Every word the service needs has arrived. -/
def SvcReq.whole (r : SvcReq) : Bool := r.need ≤ r.words.length

/-- The request leaves the queue; words of it that have not arrived are still to be discarded. -/
def Chan.take (v : Chan) (r : SvcReq) : Chan :=
  { v with aToB := v.aToB.drop (1 + r.words.length), discard := r.len - r.words.length }

/-- A reply: the header and its words (R325). Words beyond the queue's eight wait in Saltern SRAM. -/
def State.reply (s : State) (c : Nat) (tag : BitVec 16) (status : Nat) (clamp : Bool) (ws : List Word) : State :=
  let h : Word := BitVec.ofNat 32 ((status + b2n clamp * 0x80) * 2 ^ 24 + ws.length * 2 ^ 16 + tag.toNat)
  s.modChan c fun v => { v with bToA := v.bToA ++ h :: ws }

-- Service statuses (Tables 12.14, 13.7, 14.7, 16.8, R398).
def svOk : Nat := 0x00
def svAbsent : Nat := 0x01
def svUsage : Nat := 0x02
def svLifecycle : Nat := 0x03
def svWorld : Nat := 0x04
def svNoSlot : Nat := 0x05
def svRange : Nat := 0x06
def svBadService : Nat := 0x07
def svBadParam : Nat := 0x08
def svAborted : Nat := 0x09
def svLocked : Nat := 0x0A
def svNoVpp : Nat := 0x0B
def svProgFail : Nat := 0x0C
def svNotOperator : Nat := 0x0D
def svTampered : Nat := 0x0E
def svInvalid : Nat := 0x0F
def svLockConflict : Nat := 0x10
def svMismatch : Nat := 0x11
def svEntropy : Nat := 0x12
def svInput : Nat := 0x13
def svRefused : Nat := 0x14
def svFlash : Nat := 0x15
def svSmall : Nat := 0x16

/-- A programming request of the channel has not ended, so that its reply comes first (R327, R337). -/
def State.chanBusy (s : State) (c : Nat) : Bool :=
  (s.otp.job.toList ++ s.otp.waiting).any fun j => match j.purpose with
    | .program ch _ _ _ _ => ch == c
    | .lock ch _ _ _ _ => ch == c

/-- The channel has a request that the Saltern can serve now. -/
def State.servable (s : State) (c : Nat) : Bool :=
  match (s.chan c).request with
  | some r => r.whole && !s.chanBusy c
  | none => false

/-- The channel whose request the Saltern takes next: ascending order, one request per channel per turn (R327). -/
def State.nextService (s : State) : Option Nat :=
  if s.saltern.halted || !s.up || s.power.sleep == .slack then none
  else
    match (List.range 32).find? fun c => s.saltern.turn ≤ c && s.servable c with
    | some c => some c
    | none => (List.range 32).find? s.servable

/-- A request leaves its channel and the turn passes on. -/
def State.takeRequest (s : State) (c : Nat) (r : SvcReq) : State :=
  let s := s.modChan c fun v => v.take r
  { s with saltern := { s.saltern with turn := (c + 1) % 32 } }

/-- Requests with a reserved code are answered BAD_SERVICE as their turn comes (R325). -/
def State.settleServices (fuel : Nat) (s : State) : State :=
  match fuel with
  | 0 => s
  | fuel + 1 =>
    match s.nextService with
    | none => s
    | some c =>
      match (s.chan c).request with
      | none => s
      | some r =>
        if (svcNeed r.code 0).isSome then s
        else State.settleServices fuel ((s.takeRequest c r).reply c r.tag svBadService false [])

def State.settleMbx (s : State) : State := s.settleServices 300

-- ## The window of one channel (R322 to R324)

/-- A read of `n` bytes at an offset of the channel by a side: a range from offset 0 pops one word, and the status is the one after
that pop. -/
def mbxRead (c : Nat) (b : Bool) (off n : Nat) (s : State) : List Byte × State :=
  let (w, s) := if off = 0 then
      let (w, v) := (s.chan c).pop b
      (w, s.modChan c fun _ => v)
    else (0, s)
  let v := s.chan c
  let byteAt (k : Nat) : Byte :=
    let word := match k / 4 with
      | 0 => w.toNat
      | 4 => v.status b
      | 6 => v.peer b
      | _ => 0
    BitVec.ofNat 8 (word >>> (8 * (k % 4)))
  ((List.range n).map fun k => byteAt (off + k), s)

/-- A write of the enabled bytes (offset, byte) of a channel by a side; `data` says that its range takes in the MBX_DATA unit, `first` that
this would be the first unit of the WR, where alone a push stands. -/
def mbxWrite (c : Nat) (b data first : Bool) (bs : List (Nat × Byte)) (s : State) : State :=
  let at' (k : Nat) : Option Byte := (bs.find? fun x => x.1 == k).map (·.2)
  let s := if data then
      let whole := first && (List.range 4).all fun k => (at' k).isSome
      let w : Word := BitVec.ofNat 32 (leNat ((List.range 4).map fun k => (at' k).getD 0))
      s.modChan c fun v => v.push b w whole
    else s
  let s := match at' 0x10 with
    | some x => s.modChan c fun v =>
        let v := if x.getLsbD 2 then v.over b false else v
        if x.getLsbD 3 then v.under b false else v
    | none => s
  let s := match at' 0x14 with
    | some x => if x.getLsbD 0 then s.modChan c fun v => v.setIn b ((v.incoming b).drop 8) else s
    | none => s
  s.settleMbx

end Sys2Proof.Machine
end

