-- ==== Sys2Proof/Machine/Otp.lean ====
section
/-! DEFINITION. The fuses: the map (R332, R333), pairs and thermometers (R335), the boot read and healing (R341 to R343),
programming (R337, R338), locks (R339, R340), and what the fuses say of life cycle and owner (R312, R313). -/
namespace Sys2Proof.Machine

-- ## Words

/-- The shadow's word; UDS words read zero once the UDS_READ lock is set (R331). -/
def State.otpWord (s : State) (w : Nat) : Nat :=
  if s.saltern.locks.getLsbD 0 && 0x40 ≤ w && w < 0x60 then 0 else (s.otp.shadow.look 0 w).toNat

/-- Logical bit `i` of a field of pairs that starts at a word (R335). -/
def pairAt (word : Nat → Nat) (first i : Nat) : Bool :=
  let w := word (first + i / 16)
  bitAt w (2 * (i % 16)) || bitAt w (2 * (i % 16) + 1)

/-- The value of a thermometer of `n` positions: its highest programmed position (R335). -/
def therm (word : Nat → Nat) (first n : Nat) : Nat :=
  (List.range n).foldl (fun m i => if pairAt word first i then i + 1 else m) 0

/-- The life-cycle code (R312). -/
def State.lcState (s : State) : Nat := therm s.otpWord 0x100 5
/-- The owner epoch (R313). -/
def State.epoch (s : State) : Nat := therm s.otpWord 0x280 32

/-- Bytes of `n` words, each little-endian (R308, R331). -/
def otpBytes (word : Nat → Nat) (first n : Nat) : List Byte := (List.range n).flatMap fun i => leBytes 4 (word (first + i))

def ownerWord (r : Nat) : Nat := 0x282 + 13 * (r - 1)
/-- The owner records, 1 to 9. -/
def ownerRecords : List Nat := (List.range 9).map (· + 1)
/-- A record counts as used when any of its 13 words has a bit programmed. -/
def State.recordUsed (s : State) (r : Nat) : Bool := (List.range 13).any fun i => s.otpWord (ownerWord r + i) != 0
def State.recordsLeft (s : State) : Nat := 9 - (ownerRecords.filter s.recordUsed).length

/-- The epoch of a record's start word where its halves agree (R313). -/
def State.recordStart (s : State) (r : Nat) : Option Nat :=
  let w := s.otpWord (ownerWord r + 12)
  if fld w 0 16 + fld w 16 16 = 0xFFFF then some (fld w 0 16) else none

/-- The current owner record: the largest valid start that does not exceed the epoch (R313). -/
def State.ownerRecord (s : State) : Option Nat :=
  (ownerRecords.foldl (fun (best : Option (Nat × Nat)) r =>
    match s.recordStart r with
    | none => best
    | some e => if s.epoch < e then best else
        match best with
        | none => some (e, r)
        | some b => if b.1 < e then some (e, r) else best) none).map (·.2)

def State.ownerDigest (s : State) : Option (List Byte) := s.ownerRecord.map fun r => otpBytes s.otpWord (ownerWord r) 12

-- ## Regions (Table 13.1)

/-- Index of a word's region. -/
def regionIndex (w : Nat) : Nat :=
  if w < 0x40 then 0 else if w < 0x60 then 1 else if w < 0x100 then 2 else if w < 0x110 then 3 else if w < 0x120 then 4
  else if w < 0x200 then 5 else if w < 0x280 then 6 else if w < 0x300 then 7 else if w < 0x340 then 8 else if w < 0x380 then 9
  else 10

/-- First word and length of the region of a lock record. -/
def lockRegion (j : Nat) : Nat × Nat :=
  match j with
  | 0 => (0x000, 0x40) | 1 => (0x040, 0x20) | 2 => (0x060, 0xA0) | 3 => (0x200, 0x80) | 4 => (0x300, 0x40)
  | 5 => (0x380, 0x240) | _ => (0x5C0, 0x240)

/-- The lock record of a word's region. -/
def lockOf (w : Nat) : Option Nat := (List.range 7).find? fun j => (lockRegion j).1 ≤ w && w < (lockRegion j).1 + (lockRegion j).2

def lockWord (j : Nat) : Nat := 0x340 + 9 * j
/-- The lock digest of record `j`: SHA-384 of the region's words (R339). -/
def lockDigest (word : Nat → Nat) (j : Nat) : List Byte := sha384 (otpBytes word (lockRegion j).1 (lockRegion j).2)
/-- Its first 256 bits as the eight LDIG words. -/
def lockDigestWords (word : Nat → Nat) (j : Nat) : List Nat := (List.range 8).map fun i => leAt (lockDigest word j) (4 * i) 4

/-- The region of a lock record failed its digest (R342). -/
def State.otpInvalid (s : State) (j : Nat) : Bool := s.otp.invalid.getLsbD j

/-- A POLICY restriction applies; all do where BOOT_POLICY is invalid (R342). -/
def State.policy (s : State) (i : Nat) : Bool := s.otpInvalid 4 || pairAt s.otpWord 0x300 i
def polNoN16 : Nat := 0
def polNoRsa : Nat := 1
def polNoGolden : Nat := 2
def polRequireBind : Nat := 3

/-- Vendor key `k` is revoked. -/
def State.revoked (s : State) (k : Nat) : Bool := pairAt s.otpWord 0x110 k
/-- Kind of vendor key `k`: 0 where the entry names none or VENDOR_KEYS is invalid. -/
def State.vkeyKind (s : State) (k : Nat) : Nat :=
  if s.otpInvalid 2 then 0 else
    let v := s.otpWord (0x6C + 16 * k)
    if v ≤ 3 then v else 0
def State.vkeyDigest (s : State) (k : Nat) : List Byte := otpBytes s.otpWord (0x60 + 16 * k) 12

-- Rollback counters: first word and positions (Table 13.2).
def rbSfw : Nat × Nat := (0x120, 64)
def rbPfw : Nat × Nat := (0x124, 64)
def rbCfg : Nat × Nat := (0x128, 32)
def State.rollback (s : State) (c : Nat × Nat) : Nat := therm s.otpWord c.1 c.2

/-- The digest of FACTORY_ID (R308). -/
def State.deviceDigest (s : State) : List Byte := sha384 (otpBytes s.otpWord 0 0x40)

/-- The fused voltage code of a group at a point (Table 13.2). -/
def State.voltCode (s : State) (g k : Nat) : Nat :=
  let n := 9 * g + k
  fld (s.otpWord (0x200 + n / 4)) (8 * (n % 4)) 8
/-- Its voltage in mV; 0 where it is not provisioned (R334). -/
def State.voltOf (s : State) (g k : Nat) : Nat :=
  let v := s.voltCode g k
  if v = 0 then 0 else 498 + 2 * min v 176
/-- Halfword `n` of the fuse words from `w`. -/
def State.otpHalf (s : State) (w n : Nat) : Nat := fld (s.otpWord (w + n / 2)) (16 * (n % 2)) 16

-- ## Fuse bits

def wordBit (b : Nat) : Word := BitVec.ofNat 32 (2 ^ b)

/-- A fuse that a pulse left as said: its normal reading and whether its strict one differs. A pulse only ever turns a 0 to a 1. -/
def Otp.pulse (o : Otp) (w b : Nat) (left : FuseOutcome) : Otp :=
  let f := o.fuses.look 0 w
  let k := o.weak.look 0 w
  match left with
  | .unprogrammed => o
  | .weak => if f.getLsbD b then o else { o with fuses := o.fuses.put 0 w (f ||| wordBit b), weak := o.weak.put 0 w (k ||| wordBit b) }
  | .programmed => { o with fuses := o.fuses.put 0 w (f ||| wordBit b), weak := o.weak.put 0 w (k &&& ~~~wordBit b) }

/-- A bit that reads 1 at strict margin. -/
def Otp.strict (o : Otp) (w b : Nat) : Bool := (o.fuses.look 0 w ^^^ o.weak.look 0 w).getLsbD b

/-- A bit programmed and verified updates the shadow at once (R331). -/
def Otp.verified (o : Otp) (w b : Nat) : Otp := { o with shadow := o.shadow.put 0 w (o.shadow.look 0 w ||| wordBit b) }

/-- A bit programmed and verified. -/
def Otp.burn (o : Otp) (wb : Nat × Nat) : Otp := (o.pulse wb.1 wb.2 .programmed).verified wb.1 wb.2

/-- The bits of a word's value that the shadow does not yet hold, ascending. -/
def State.bitsFor (s : State) (w v : Nat) : List (Nat × Nat) :=
  ((List.range 32).filter fun b => bitAt v b && !(s.otp.shadow.look 0 w).getLsbD b).map fun b => (w, b)

/-- The fuses of positions `from' + 1 .. to'` of a thermometer, even then odd (R336). -/
def thermBits (first from' to' : Nat) : List (Nat × Nat) :=
  ((List.range (to' - from')).map (· + from')).flatMap fun i =>
    [(first + i / 16, 2 * (i % 16)), (first + i / 16, 2 * (i % 16) + 1)]

/-- Bits programmed by the ROM or the firmware, all verified. -/
def State.burnAll (s : State) (bs : List (Nat × Nat)) : State := { s with otp := bs.foldl Otp.burn s.otp }

-- ## The boot read (R341 to R343)

/-- The pairs of a field: every thermometer and flag that R335 stores in pairs, as first word and count. -/
def pairFields : List (Nat × Nat) :=
  [(0x100, 5), (0x110, 4), (0x120, 64), (0x124, 64), (0x128, 32), (0x280, 32), (0x300, 4)]
    ++ (List.range 7).map fun j => (lockWord j, 1)
/-- Those of them that are thermometers. -/
def thermFields : List (Nat × Nat) := [(0x100, 5), (0x120, 64), (0x124, 64), (0x128, 32), (0x280, 32)]

/-- The fuses that healing programs or pulses again: weak bits that read 1, the other fuse of a programmed pair, and positions below
a thermometer's value. -/
def Otp.toHeal (o : Otp) : List (Nat × Nat) :=
  let word (w : Nat) := (o.fuses.look 0 w).toNat
  let weak := o.weak.flatMap fun kv => (((List.range 32).filter fun b => kv.2.getLsbD b && bitAt (word kv.1) b).map fun b => (kv.1, b))
  let pos (f : Nat × Nat) (i : Nat) := [(f.1 + i / 16, 2 * (i % 16)), (f.1 + i / 16, 2 * (i % 16) + 1)]
  let halves := pairFields.flatMap fun f => ((List.range f.2).filter (pairAt word f.1)).flatMap (pos f)
  let lower := thermFields.flatMap fun f => (List.range (therm word f.1 f.2)).flatMap (pos f)
  weak ++ (halves ++ lower).filter fun wb => !bitAt (word wb.1) wb.2

/-- Lamovin test may program a word: the life cycle is BLANK or TEST, and the word lies in FACTORY_ID, UDS, VENDOR_KEYS or
VOLTAGE_TABLE, or in the lock record of one of them, and that record is not locked (R332, R340). -/
def testMay (word : Nat → Nat) (w : Nat) : Bool :=
  let j := match lockOf w with
    | some j => some j
    | none => (List.range 7).find? fun j => lockWord j ≤ w && w < lockWord j + 9
  decide (therm word 0x100 5 ≤ 1) && match j with
    | some j => decide (j < 4) && !pairAt word (lockWord j) 0
    | none => false

/-- The fuses with what Lamovin test programmed since the last boot, in the order in which it did. -/
def testBurn (l : List (Nat × Word)) (fuses : Tab Word) : Tab Word :=
  l.foldl (fun f kv => if testMay (fun w => (f.look 0 w).toNat) kv.1 then f.put 0 kv.1 (f.look 0 kv.1 ||| kv.2) else f) fuses

/-- The boot read: fuses that test programmed since the last boot join, the margins of this boot are compared (a bit that a pulse left
weak, or that was weak before, is found with those the margins now show), locks are checked, and healing runs. Healing that finds
nothing to pulse counts as verified (DEDUCED [log 26]). -/
def bootRead (env : BootEnv) (s : State) : State :=
  let o := s.otp
  let fuses := testBurn env.testFuses o.fuses
  let weak := env.strictDiff.foldl (fun (f : Tab Word) kv => if kv.1 < 2048 then f.put 0 kv.1 (f.look 0 kv.1 ||| kv.2) else f) o.weak
  let word (w : Nat) := (fuses.look 0 w).toNat
  let map := weak.foldl (fun m kv => m ||| 2 ^ regionIndex kv.1) 0
  let locked := (List.range 7).filter fun j => pairAt word (lockWord j) 0
  let bad := locked.filter fun j => !sameBytes 32 ((lockDigestWords word j).flatMap (leBytes 4)) (otpBytes word (lockWord j + 1) 8)
  let o : Otp := { o with fuses, weak, shadow := fuses, weakMap := BitVec.ofNat 11 map, vpp := env.vpp, healed := false
                          healFail := false, locked := BitVec.ofNat 7 (listMask locked), invalid := BitVec.ofNat 7 (listMask bad)
                          job := none, waiting := [] }
  let runs := therm word 0x100 5 != 5 && env.vpp && !s.saltern.tampered
  let todo := o.toHeal
  let o := if !runs then o
    else
      let good := todo.filter fun wb => !env.badFuses.contains wb
      { good.foldl Otp.burn o with healed := good.length == todo.length, healFail := good.length != todo.length }
  { s with otp := o }

-- ## Programming requests (R337)

/-- The reply of a service request that programmed fuses. -/
def State.endJob (s : State) (j : OtpJob) (status : Nat) : State :=
  let s := { s with otp := { s.otp with job := none } }
  match j.purpose with
  | .program c w v tag clamp =>
    s.reply c tag status (clamp || s.otpWord w &&& v != s.otpWord w) [BitVec.ofNat 32 (s.otpWord w), j.failed]
  | .lock c _ tag clamp _ => s.reply c tag status clamp []

/-- A request that a check refuses: nothing is programmed, and its reply has no words. -/
def State.denyJob (s : State) (j : OtpJob) (status : Nat) : State :=
  match j.purpose with
  | .program c _ _ tag clamp => s.reply c tag status clamp []
  | .lock c _ tag clamp _ => s.reply c tag status clamp []

/-- The words that OTP_PROGRAM may program: POLICY, and the CUSTOMER words; reserved words stay unprogrammed (R333). -/
def otpListed (w : Nat) : Bool := w == 0x300 || 0x380 ≤ w

/-- The states in which an operator may program a region: BOOT_POLICY in MANUFACTURED and OWNED, CUSTOMER in OWNED (R332). -/
def State.otpStateOk (s : State) (j : Nat) : Bool := s.lcState == 3 || (j == 4 && s.lcState == 2)

/-- Checks 3 to 6 of R346 for lock record `j`. -/
def State.otpRefused (s : State) (j : Nat) : Option Nat :=
  if !s.otpStateOk j then some svLifecycle
  else if pairAt s.otpWord (lockWord j) 0 then some svLocked
  else if s.saltern.tampered then some svTampered
  else if !s.otp.vpp then some svNoVpp else none

/-- LDIG_j holds a 1 where the digest needs a 0 (R339). -/
def State.lockConflict (s : State) (j : Nat) : Bool :=
  (lockDigestWords s.otpWord j).zipIdx.any fun di =>
    s.otpWord (lockWord j + 1 + di.2) &&& di.1 != s.otpWord (lockWord j + 1 + di.2)

/-- The controller handles a request: its checks are made now, on the fuses as they now stand, and so are the bits that are requested
and read 0, or the lock digest (R337, R339, R340). -/
def State.startJob (s : State) (j : OtpJob) : State :=
  let rec' := match j.purpose with
    | .program _ w _ _ _ => (lockOf w).getD 7
    | .lock _ r _ _ _ => r
  match s.otpRefused rec' with
  | some e => s.denyJob j e
  | none =>
    match j.purpose with
    | .program _ w v _ _ =>
      { s with otp := { s.otp with job := some { j with bits := if otpListed w then s.bitsFor w v else [] } } }
    | .lock _ r _ _ _ =>
      if s.lockConflict r then s.denyJob j svLockConflict
      else { s with otp := { s.otp with job := some { j with
        bits := (lockDigestWords s.otpWord r).zipIdx.flatMap fun di => s.bitsFor (lockWord r + 1 + di.2) di.1 } } }

/-- A request whose bits are all programmed: a lock's digest words are read back at strict margin and then its pair is programmed. -/
def State.jobNext (s : State) (j : OtpJob) : State :=
  match j.bits, j.purpose with
  | [], .lock c r tag clamp false =>
    let agrees := (lockDigestWords s.otpWord r).zipIdx.all fun di =>
      (List.range 32).all fun b => s.otp.strict (lockWord r + 1 + di.2) b == bitAt di.1 b
    if !agrees then s.endJob j svProgFail
    else { s with otp := { s.otp with job := some { j with purpose := .lock c r tag clamp true, bits := s.bitsFor (lockWord r) 3
                                                           pulses := 0 } } }
  | [], .lock _ r _ _ true =>
    ({ s with otp := { s.otp with locked := s.otp.locked ||| BitVec.ofNat 7 (2 ^ r) } }).endJob j svOk
  | [], .program .. => s.endJob j svOk
  | _, _ => { s with otp := { s.otp with job := some j } }

/-- The controller takes the next request when it is free, and ends those that have no bit left to program. -/
def State.settleOtp (fuel : Nat) (s : State) : State :=
  match fuel with
  | 0 => s
  | fuel + 1 =>
    match s.otp.job, s.otp.waiting with
    | some j, _ => if j.bits.isEmpty then State.settleOtp fuel (s.jobNext j) else s
    | none, j :: rest => State.settleOtp fuel ({ s with otp := { s.otp with waiting := rest } }.startJob j)
    | none, [] => s

def State.addJob (s : State) (j : OtpJob) : State :=
  let s := { s with otp := { s.otp with waiting := s.otp.waiting ++ [j] } }
  s.settleOtp (3 * s.otp.waiting.length + 4)

/-- The request acts for a partition in teardown (R327). -/
def State.jobGone (s : State) (j : OtpJob) : Bool :=
  let c := match j.purpose with
    | .program c _ _ _ _ => c
    | .lock c _ _ _ _ => c
  match s.boundRaw (BitVec.ofNat 8 (s.chan c).sideA) with | some p => (s.part p).teardown | none => false

/-- A pulse ends and the bit is read at strict margin: it is verified, pulsed again, or has failed its fourth pulse. -/
def otpPulse (left : FuseOutcome) (s : State) : State :=
  match s.otp.job with
  | none => s
  | some j =>
    match j.bits with
    | [] => s
    | (w, b) :: rest =>
      if s.edge.stopped then s
      else if s.jobGone j then
        (State.settleOtp (3 * s.otp.waiting.length + 4) (({ s with otp := s.otp.pulse w b left }).endJob j svAborted)).settleMbx
      else
        let s := { s with otp := s.otp.pulse w b left }
        let s := if s.otp.strict w b then
            ({ s with otp := s.otp.verified w b }).jobNext { j with bits := rest, pulses := 0 }
          else if j.pulses + 1 < 4 then { s with otp := { s.otp with job := some { j with pulses := j.pulses + 1 } } }
          else s.endJob { j with failed := j.failed ||| wordBit b } svProgFail
        (s.settleOtp (3 * s.otp.waiting.length + 4)).settleMbx

def execOtpPulse (left : FuseOutcome) (s : State) : Host.Outcome State Fault Refusal := .next (otpPulse left s)

/-- Every programming request stops at once: the bit under a pulse is left as said, and the requests end with a status (R318,
R338). -/
def State.stopJobs (s : State) (left : FuseOutcome) (status : Nat) : State :=
  let s := match s.otp.job with
    | some j => match j.bits with
      | (w, b) :: _ => ({ s with otp := s.otp.pulse w b left }).endJob j status
      | [] => s.endJob j status
    | none => s
  let js := s.otp.waiting
  js.foldl (fun s j => s.endJob j status) { s with otp := { s.otp with waiting := [] } }

/-- VPP_OTP leaves its range: the pulse in progress stops, and its request fails as a bit that did not verify; those that wait meet
the check of VPP_OTP as their turn comes (R338, R346; DEDUCED [log 27]). -/
def vppLoss (left : FuseOutcome) (s : State) : State :=
  let s := { s with otp := { s.otp with vpp := false } }
  match s.otp.job with
  | none => s
  | some j =>
    let s := match j.bits with
      | (w, b) :: _ => ({ s with otp := s.otp.pulse w b left }).endJob { j with failed := j.failed ||| wordBit b } svProgFail
      | [] => s.endJob j svProgFail
    (s.settleOtp (3 * s.otp.waiting.length + 4)).settleMbx

def execVppOtpLoss (left : FuseOutcome) (s : State) : Host.Outcome State Fault Refusal := .next (vppLoss left s)

end Sys2Proof.Machine
end

