-- ==== Sys2Proof/Machine/Pke.lean ====
section
/-! DEFINITION. The arithmetic of the PKE programs (R310, R357 to R359): P-256 and P-384 as FIPS 186-5 and SP 800-186 define them,
and RSA's public operation. The spec names the standards; the curves and formulas are theirs (PRESUMED [log 20]). -/
namespace Sys2Proof.Machine

-- ## Modular arithmetic

/-- `b ^ e mod m`, over at most `fuel` bits of the exponent. -/
def powMod (fuel b e m : Nat) : Nat :=
  match fuel with
  | 0 => 1 % m
  | fuel + 1 =>
    if e = 0 then 1 % m else
      let h := powMod fuel (b * b % m) (e / 2) m
      if e % 2 = 1 then b * h % m else h

def invMod (a m : Nat) : Nat := powMod 600 (a % m) (m - 2) m
def subMod (a b m : Nat) : Nat := (a % m + m - b % m) % m

-- ## Curves

/-- A short Weierstrass curve with a = -3, its base point and its order. -/
structure Curve where
  p : Nat
  b : Nat
  gx : Nat
  gy : Nat
  n : Nat
  bytes : Nat
  deriving DecidableEq, Repr

def p256 : Curve :=
  { p := 0xffffffff00000001000000000000000000000000ffffffffffffffffffffffff
    b := 0x5ac635d8aa3a93e7b3ebbd55769886bc651d06b0cc53b0f63bce3c3e27d2604b
    gx := 0x6b17d1f2e12c4247f8bce6e563a440f277037d812deb33a0f4a13945d898c296
    gy := 0x4fe342e2fe1a7f9b8ee7eb4a7c0f9e162bce33576b315ececbb6406837bf51f5
    n := 0xffffffff00000000ffffffffffffffffbce6faada7179e84f3b9cac2fc632551
    bytes := 32 }

def p384 : Curve :=
  { p := 0xfffffffffffffffffffffffffffffffffffffffffffffffffffffffffffffffeffffffff0000000000000000ffffffff
    b := 0xb3312fa7e23ee7e4988e056be3f82d19181d9c6efe8141120314088f5013875ac656398d8a2ed19d2a85c8edd3ec2aef
    gx := 0xaa87ca22be8b05378eb1c71ef320ad746e1d3b628ba79b9859f741e082542a385502f25dbf55296c3a545e3872760ab7
    gy := 0x3617de4a96262c6f5d9e98bf9292dc29f8f41dbd289a147ce9da3113b5f0b8c00a60b1ce1d7e819d7a431d7c90ea0e5f
    n := 0xffffffffffffffffffffffffffffffffffffffffffffffffc7634d81f4372ddf581a0db248b0a77aecec196accc52973
    bytes := 48 }

/-- A point: none is the point at infinity. -/
abbrev Point := Option (Nat × Nat)

def Curve.on (c : Curve) (x y : Nat) : Bool := y * y % c.p == subMod (x * x % c.p * x + c.b) (3 * x) c.p

def Curve.add (c : Curve) (a b : Point) : Point :=
  match a, b with
  | none, q => q
  | q, none => q
  | some (x1, y1), some (x2, y2) =>
    if x1 = x2 ∧ (y1 + y2) % c.p = 0 then none else
      let l := if x1 = x2 then subMod (3 * x1 * x1) 3 c.p * invMod (2 * y1) c.p % c.p
        else subMod y2 y1 c.p * invMod (subMod x2 x1 c.p) c.p % c.p
      let x := subMod (l * l) (x1 + x2) c.p
      some (x, subMod (l * subMod x1 x c.p) y1 c.p)

/-- `k` times a point, over at most `fuel` bits of `k`. -/
def Curve.mul (c : Curve) (fuel k : Nat) (q : Point) : Point :=
  match fuel with
  | 0 => none
  | fuel + 1 =>
    if k = 0 then none else
      let h := Curve.mul c fuel (k / 2) (c.add q q)
      if k % 2 = 1 then c.add h q else h

def Curve.base (c : Curve) : Point := some (c.gx, c.gy)
/-- The public key of a scalar. -/
def Curve.public (c : Curve) (d : Nat) : Nat × Nat := (c.mul 400 d c.base).getD (0, 0)

/-- A scalar from bits, by the extra-bits method (R310). -/
def Curve.scalar (c : Curve) (bits : List Byte) : Nat := beNat bits % (c.n - 1) + 1
/-- Bytes drawn for a scalar: 320 or 448 bits. -/
def Curve.extra (c : Curve) : Nat := c.bytes + 8

/-- ECDSA on a digest with a nonce; none where r or s is zero and a new nonce is drawn (R358). -/
def Curve.sign (c : Curve) (d e k : Nat) : Option (Nat × Nat) :=
  match c.mul 400 k c.base with
  | none => none
  | some (x, _) =>
    let r := x % c.n
    let s := invMod k c.n * ((e + r * d) % c.n) % c.n
    if r = 0 ∨ s = 0 then none else some (r, s)

-- Result codes (Table 14.5).
def pkOk : Nat := 0
def pkFail : Nat := 1
def pkZero : Nat := 2
def pkRange : Nat := 3
def pkNotOn : Nat := 4
def pkInfinity : Nat := 5
def pkProgram : Nat := 6
def pkAborted : Nat := 7

/-- The checks on a point: a coordinate out of range, off the curve, or both zero, in the order of R359. -/
def Curve.pointErr (c : Curve) (x y : Nat) : Option Nat :=
  if c.p ≤ x ∨ c.p ≤ y then some pkRange else if !c.on x y then some pkNotOn else if x = 0 ∧ y = 0 then some pkInfinity else none

/-- ECDSA verification: the result code. -/
def Curve.verify (c : Curve) (e r s x y : Nat) : Nat :=
  if r = 0 ∨ s = 0 then pkZero
  else if c.n ≤ r ∨ c.n ≤ s then pkRange
  else match c.pointErr x y with
    | some err => err
    | none =>
      let w := invMod s c.n
      match c.add (c.mul 400 (e * w % c.n) c.base) (c.mul 400 (r * w % c.n) (some (x, y))) with
      | none => pkInfinity
      | some (v, _) => if v % c.n = r then pkOk else pkFail

/-- The x-coordinate of a shared point, or the result code. -/
def Curve.ecdh (c : Curve) (d x y : Nat) : Except Nat Nat :=
  match c.pointErr x y with
  | some err => .error err
  | none =>
    match c.mul 400 d (some (x, y)) with
    | none => .error pkInfinity
    | some (v, _) => .ok v

-- ## Operand memory (R356)

/-- Words of a number, least significant first. -/
def wordsOf64 (n x : Nat) : List DWord := (List.range n).map fun i => BitVec.ofNat 64 (x >>> (64 * i))
/-- The number that words hold, least significant first. -/
def numOf64 (l : List DWord) : Nat := l.zipIdx.foldl (fun n w => n + w.1.toNat * 2 ^ (64 * w.2)) 0
/-- The load path with byte reversal: a big-endian number, of the words its bytes need. -/
def loadReversed (l : List Byte) : List DWord := wordsOf64 (cdiv l.length 8) (beNat l)
/-- The store path with byte reversal: `n` bytes, big-endian. -/
def storeReversed (n : Nat) (l : List DWord) : List Byte := beBytes n (numOf64 l)
/-- Bytes as words of operand registers, 128 words each. -/
def regsOf (l : List Byte) : List (List DWord) :=
  (List.range (cdiv l.length 1024)).map fun r =>
    let part := (l.drop (1024 * r)).take 1024
    (List.range (cdiv part.length 8)).map fun i => BitVec.ofNat 64 (leAt part (8 * i) 8)
/-- The number in a register at the width a program requires. -/
def atWidth (words : Nat) (v : List DWord) : Nat := numOf64 (v.take words)

-- ## Encodings

/-- r and s, or x and y, each big-endian. -/
def Curve.pair (c : Curve) (v : Nat × Nat) : List Byte := beBytes c.bytes v.1 ++ beBytes c.bytes v.2
/-- Two big-endian coordinates. -/
def Curve.unpair (c : Curve) (l : List Byte) : Nat × Nat := (beNat (slice l 0 c.bytes), beNat (slice l c.bytes c.bytes))
/-- Verification of encoded signature and key over a digest. -/
def Curve.verifyBytes (c : Curve) (pub digest sig : List Byte) : Bool :=
  let q := c.unpair pub
  let rs := c.unpair sig
  c.verify (beNat digest) rs.1 rs.2 q.1 q.2 == pkOk

-- ## RSA (R357, R359, R373)

/-- s^65537 mod n for a modulus of `bits` bits, or the result code. -/
def rsaPublic (bits n s : Nat) : Except Nat Nat :=
  if s = 0 then .error pkZero
  else if n ≤ s ∨ n % 2 = 0 ∨ n < 2 ^ (bits - 1) ∨ 2 ^ bits ≤ n then .error pkRange
  else .ok (powMod 20 s 65537 n)

/-- The DER prefix of a SHA-384 DigestInfo, of RFC 8017. -/
def sha384Info : List Byte :=
  [0x30, 0x41, 0x30, 0x0d, 0x06, 0x09, 0x60, 0x86, 0x48, 0x01, 0x65, 0x03, 0x04, 0x02, 0x02, 0x05, 0x00, 0x04, 0x30]

/-- RSASSA-PKCS1-v1_5 with SHA-384 over a message. -/
def rsaVerify (nBytes sig msg : List Byte) : Bool :=
  let k := nBytes.length
  let t := sha384Info ++ sha384 msg
  let em := [(0x00 : Byte), 0x01] ++ List.replicate (k - t.length - 3) 0xFF ++ [0x00] ++ t
  match rsaPublic (8 * k) (beNat nBytes) (beNat sig) with
  | .ok v => beBytes k v == em
  | .error _ => false

end Sys2Proof.Machine
end

