-- ==== Sys2Proof/Machine/Sample.lean ====
section
/-! DEFINITION. SAMPLE (R100): the seeded counter generator F (R261), the Gumbel variate (R262), words of the DRBG (R263, R362,
R363, R365). -/
namespace Sys2Proof.Machine

-- ## The DRBG

/-- One generate, when the DRBG is instantiated and needs no reseed first (R362). -/
def State.drbgTake (s : State) (n : Nat) : Option (List Byte × State) :=
  if s.eng.drbg != .ready || 65536 ≤ s.eng.drbgCount then none else
    let r := drbgBytes (s.eng.drbgK, s.eng.drbgV) n
    some (r.1, { s with eng := { s.eng with drbgK := r.2.1, drbgV := r.2.2, drbgCount := s.eng.drbgCount + 1 } })

/-- Words for SAMPLE from the pan entropy buffer, which is refilled by one generate of 4 KiB when it is empty (R363). -/
def State.entropyWords (s : State) (n : Nat) : Option (List Nat × State) :=
  match n with
  | 0 => some ([], s)
  | n + 1 =>
    let filled := if s.eng.entropy.isEmpty then
        (s.drbgTake 4096).map fun r => { r.2 with eng := { r.2.eng with entropy := r.1 } }
      else some s
    match filled with
    | none => none
    | some s =>
      let x := leNat (s.eng.entropy.take 4)
      match State.entropyWords { s with eng := { s.eng with entropy := s.eng.entropy.drop 4 } } n with
      | none => none
      | some r => some (x :: r.1, r.2)

-- ## F and the Gumbel variate

def add32w (a b : Nat) : Nat := (a + b) % 2 ^ 32
def rotl32 (x n : Nat) : Nat := rotr 32 x (32 - n)

/-- One of the ten rounds of F. -/
def genRound (k : Nat → Nat) (i : Nat) (x : Nat × Nat × Nat × Nat) : Nat × Nat × Nat × Nat :=
  let (a, b, c, d) := x
  let a := add32w a (k (i % 3))
  let b := add32w (add32w b (k ((i + 1) % 3))) i
  let a := add32w a b
  let d := rotl32 (d ^^^ a) 16
  let c := add32w c d
  let b := rotl32 (b ^^^ c) 12
  let a := add32w a b
  let d := rotl32 (d ^^^ a) 8
  let c := add32w c d
  let b := rotl32 (b ^^^ c) 7
  (a, b, c, d)

/-- F(seed, step, lane) of R261. -/
def genF (seed step lane : Nat) : Nat :=
  let k0 := fld seed 0 32
  let k1 := fld seed 32 32
  let k (i : Nat) : Nat := match i with | 0 => k0 | 1 => k1 | _ => k0 ^^^ k1 ^^^ 0x1BD11BDA
  let r := (List.range 10).foldl (fun x i => genRound k i x)
    (fld lane 0 32, fld step 0 32, fld step 32 16 ||| 0x4C610000, 0x9E3779B9)
  r.1 ^^^ r.2.2.1

/-- d[3] to d[0] of Table 10.4. -/
def lnCoeffs : List Nat := [0x3E638E39, 0x3E924925, 0x3ECCCCCD, 0x3F2AAAAB]

/-- ln of a positive normal FP32 number, by the procedure of R262. -/
def ln32 (x : Nat) : Arith Nat := do
  let e0 : Int := (fld x 23 8 : Int) - 127
  let m0 := fld x 0 23 + 0x3F800000
  let half := decide (0x3FB504F3 < m0)
  let m := if half then m0 - 2 ^ 23 else m0
  let e := if half then e0 + 1 else e0
  let f ← sub32 m 0x3F800000
  let t ← add32 f 0x40000000
  let t ← recip32 t
  let s ← mul32 f t
  let z ← mul32 s s
  let p ← horner 0x3E3A2E8C z lnCoeffs
  let sz ← mul32 s z
  let ss ← add32 s s
  let w ← fma32 sz p ss
  let ef := int32f e
  let r ← fma32 ef 0x35BFBE8E w
  fma32 ef 0x3F317200 r

/-- The Gumbel variate of a 32-bit word (R262). -/
def gumbel (r : Nat) : Nat :=
  let u := (Arith.go (rne32 (.fin false (2 * fld r 9 23 + 1) (-24)))).1
  (Arith.go (do
    let x ← ln32 u
    let x ← neg32 x
    let x ← ln32 x
    neg32 x)).1

-- ## SAMPLE

/-- The element with the greatest key, the lowest index among equal keys; NaN keys are never chosen (R100). -/
def bestKey (xs : List (Nat × Nat)) : Nat × Nat :=
  let pick := xs.foldl (fun b x =>
    if (v32 x.1).isNan then b else
      match b with
      | none => some x
      | some y => if (v32 x.1).le (v32 y.1) then some y else some x) (none : Option (Nat × Nat))
  match pick with
  | some x => x
  | none => (fFp32.nanCode, (xs.headD (0, 0)).2)

/-- The step value of SAMPLE: (step base + step offset) mod 2^48 (R259). -/
def sampleStep (e : PEnv) (s : State) : Nat :=
  (((s.cmd? e.run.seq).map fun c => c.stepBase.toNat).getD 0 + (s.pan e.p).stepOff.toNat) % 2 ^ 48

/-- The 16 B record at D. -/
def putSample (e : PEnv) (s : State) (best : Nat × Nat) (fl : AFlags) (cost : Nat) : Done :=
  plain ((s.slotWrite e.p (slotAt e.w 13) 0 (leBytes 4 best.1 ++ leBytes 4 best.2 ++ List.replicate 8 0)).addFlags e.p fl)
    { vec := cost }

/-- Logits and their indices. -/
def sampleInputs (e : PEnv) (s : State) : List (Nat × Nat) :=
  let v := fld e.w 79 18 + 1
  let base := fld e.w 97 20 + (if bitAt e.w 117 then e.run.rank * v else 0)
  (s.slotElems e.p (slotAt e.w 57) 0 .fp32 v).zipIdx.map fun x => (x.1, (base + x.2) % 2 ^ 32)

/-- GREEDY: keyed by the logit. -/
def greedyAct (e : PEnv) (s : State) : Done :=
  let xs := sampleInputs e s
  putSample e s (bestKey xs) (if xs.any fun x => (v32 x.1).isNan then fNanIn else 0) (cdiv xs.length 64 + 12)

/-- The keys rne32(rne32(x × t) + g). -/
def categoricalKeys (t : Nat) (xs : List ((Nat × Nat) × Nat)) : Arith (List (Nat × Nat)) :=
  xs.mapM fun x => do
    let y ← mul32 x.1.1 t
    let y ← add32 y (gumbel x.2)
    pure (y, x.1.2)

/-- CATEGORICAL, from F or, with SOURCE set, from the DRBG: a pan that finds no words waits, and stops with POISON while the
DRBG is in ERROR (R365). -/
def categoricalAct (e : PEnv) (s : State) : Done :=
  let xs := sampleInputs e s
  let t := (s.slotElems e.p (slotAt e.w 35) 0 .fp32 1).headD 0
  let words := if bitAt e.w 118 then s.entropyWords xs.length
    else some (xs.map fun x => genF (s.part e.run.part).seed.toNat (sampleStep e s) x.2, s)
  match words with
  | none => { s, stop := some stPoison }
  | some (rs, s) =>
    let r := Arith.go (categoricalKeys t (xs.zip rs))
    putSample e s (bestKey r.1) r.2 (8 * cdiv xs.length 64 + 24)

/-- A CATEGORICAL with SOURCE = ENTROPY waits while no words can come and no health test has failed. -/
def entropyWaits (p : BitVec 6) (s : State) : Bool :=
  match s.fetch p.toNat with
  | some e => iClass e.w == kSample && bitAt e.w 118 && s.eng.drbg != .error
      && (s.entropyWords (fld e.w 79 18 + 1)).isNone
  | none => false

def execGreedy (p : BitVec 6) (ds : List Detection) (s : State) : Host.Outcome State Fault Refusal :=
  .next (panRow kSample (funcIs 0) greedyAct p ds s)
def execCategorical (p : BitVec 6) (ds : List Detection) (s : State) : Host.Outcome State Fault Refusal :=
  .next (if entropyWaits p s then s else panRow kSample (funcIs 1) categoricalAct p ds s)

end Sys2Proof.Machine
end

