-- ==== Sys2Proof/Machine/Keys.lean ====
section
/-! DEFINITION. Key slots: fill, use and zeroisation (R304 to R307), the derivation tree (R308 to R311), and what keys do: public
keys, signatures and tags (R310, R352, R358). -/
namespace Sys2Proof.Machine

-- ## Slots

-- TYPE and USAGE codes (Table 12.3).
def kEmpty : Nat := 0
def kHmac256 : Nat := 1
def kHmac384 : Nat := 2
def kHmac512 : Nat := 3
def kP256 : Nat := 4
def kP384 : Nat := 5
def kMldsa : Nat := 6
def kDerive : Nat := 7
def uHmac : Nat := 0
def uSign : Nat := 1
def uEcdh : Nat := 2
def uDerive : Nat := 3

/-- The USAGE bits that suit a TYPE (R305). -/
def usageFor (type : Nat) : Nat :=
  match type with
  | 1 | 2 | 3 => 1
  | 4 => 2
  | 5 => 6
  | 6 => 2
  | 7 => 8
  | _ => 0

/-- Bits that a derivation or a generation gives a TYPE (R310, R326). -/
def typeBits (type : Nat) : Nat :=
  match type with
  | 1 => 256 | 2 => 384 | 3 => 512 | 4 => 320 | 5 => 448 | 6 => 256 | _ => 384

/-- Bytes of an imported key of a TYPE. -/
def typeBytes (type : Nat) : Nat :=
  match type with
  | 1 => 32 | 2 => 48 | 3 => 64 | 4 => 32 | 5 => 48 | 6 => 32 | _ => 48

/-- Bits as key material: scalars by the extra-bits method, the rest as they are (R310). -/
def asMaterial (type : Nat) (bits : List Byte) : List Byte :=
  if type = kP256 then beBytes 32 (p256.scalar bits) else if type = kP384 then beBytes 48 (p384.scalar bits) else bits

def attrWord (initMask type usage lcMask world origin : Nat) : QWord :=
  BitVec.ofNat 128 (initMask * 2 ^ 64 + type * 2 ^ 52 + usage * 2 ^ 48 + lcMask * 2 ^ 42 + world * 2 ^ 37 + origin * 2 ^ 35)

/-- A lock of Table 12.15, by its bit. -/
def State.lock (s : State) (bit : Nat) : Bool := s.saltern.locks.getLsbD (bit - 8)
def State.setLocks (s : State) (bits : List Nat) : State :=
  { s with saltern := { s.saltern with locks := s.saltern.locks ||| BitVec.ofNat 8 (listMask (bits.map fun b => b - 8)) } }

/-- The slot can be filled: EMPTY, no TAMPERED latch, no lock on it (R305, R318, R328). -/
def State.mayFill (s : State) (n : Nat) : Bool :=
  (s.key n).type == 0 && !s.saltern.tampered && !(n == 0 && s.lock 8) && !(n ≤ 4 && s.lock 10) && !(5 ≤ n && n ≤ 7 && s.lock 14)

/-- A fill: material and record together; a reserved TYPE or WORLD leaves the slot EMPTY (R305). -/
def State.fillSlot (s : State) (n type usage world initMask origin : Nat) (material : List Byte) : State :=
  if !s.mayFill n || type == 0 || 7 < type || 0x11 < world then s else
    let k : KeySlot := { material, attr := attrWord initMask type (usage &&& usageFor type) (2 ^ s.lcState) world origin }
    { s with saltern := { s.saltern with slots := s.saltern.slots.put {} n k } }

/-- The first free slot of 8 to 31. -/
def State.freeSlot (s : State) : Option Nat := ((List.range 24).map (· + 8)).find? fun n => (s.key n).type == 0

-- ## Use (R306)

/-- The world of a channel's requester: its partition, 0x11 for an operator bound to none, or none. -/
def State.worldOf (s : State) (ini : Ini) : Option Nat :=
  match s.boundTo ini with
  | some p => some p
  | none => if s.isOperator ini then some 0x11 else none

/-- The world check of a channel. -/
def State.worldOk (s : State) (ini : Ini) (k : KeySlot) : Bool :=
  match s.worldOf ini with
  | none => false
  | some w => k.world == w && bitAt k.initMask ini.toNat

/-- The first check that refuses a use: by the Saltern, or by a channel's requester; `bit` is the USAGE bit it needs. -/
def State.useErr (s : State) (actor : Option Ini) (n : Nat) (bit : Option Nat) : Option Nat :=
  let k := s.key n
  if k.type = 0 then some svAbsent
  else if (match bit with | some b => !bitAt k.usage b | none => false) then some svUsage
  else if !bitAt k.lcMask s.lcState then some svLifecycle
  else match actor with
    | none => if k.world = 0x10 then none else some svWorld
    | some i => if s.worldOk i k then none else some svWorld

-- ## The derivation tree

/-- Blocks 1 to `n` of the counter-mode KDF. -/
def kdf (key label context : List Byte) (bits : Nat) : List Byte :=
  ((List.range (cdiv bits 384)).flatMap fun i =>
    hmac384 key (beBytes 4 (i + 1) ++ label ++ [0x00] ++ context ++ beBytes 4 bits)).take (bits / 8)

/-- The prefix P (R308). -/
def State.prefixP (s : State) : List Byte := [BitVec.ofNat 8 s.lcState, BitVec.ofNat 8 s.epoch] ++ s.deviceDigest

/-- The UDS as the ROM reads it, before its lock. -/
def State.uds (s : State) : List Byte := otpBytes s.otpWord 0x40 8

/-- The ROM can derive keys (R311, R342). -/
def State.udsUsable (s : State) : Bool :=
  s.lcState != 0 && s.lcState != 5 && !s.otpInvalid 0 && !s.otpInvalid 1
    && ((List.range 8).any fun i => s.otpWord (0x40 + i) != 0)

/-- Bits of the keys that the ROM derives from the UDS, under a prefix (Table 12.4). -/
def deviceEccBits (uds p : List Byte) : List Byte := kdf uds (ascii "N64 DEVICE ECC") p 448
def deviceMlBits (uds p : List Byte) : List Byte := kdf uds (ascii "N64 DEVICE MLDSA") p 256
def cdiBits (uds p mr0 : List Byte) : List Byte := kdf uds (ascii "N64 CDI") (p ++ mr0) 384
def bindBits (uds p : List Byte) : List Byte := kdf uds (ascii "N64 BIND") p 384

/-- A fixed slot: world Saltern, the present state, no initiator. -/
def State.fillFixed (s : State) (n type usage origin : Nat) (bits : List Byte) : State :=
  s.fillSlot n type usage 0x10 0 origin (asMaterial type bits)

/-- DEVICE_ECC, DEVICE_MLDSA and BIND, and the UDS in slot 0 until hand-over (R309, R311). -/
def State.deriveDevice (s : State) : State :=
  if !s.udsUsable then s else
    let u := s.uds
    let p := s.prefixP
    let s := s.fillFixed 0 kDerive 8 0 u
    let s := s.fillFixed 1 kP384 2 1 (deviceEccBits u p)
    let s := s.fillFixed 2 kMldsa 2 1 (deviceMlBits u p)
    s.fillFixed 4 kHmac384 1 1 (bindBits u p)

/-- CDI, once MR0 is final. -/
def State.deriveCdi (s : State) : State :=
  if (s.key 0).type = 0 then s else s.fillFixed 3 kDerive 8 1 (cdiBits (s.key 0).material s.prefixP (s.mr 0))

/-- The alias keys and PARTITION_ROOT, by the firmware. -/
def State.deriveAlias (s : State) : State :=
  if (s.key 3).type = 0 then s else
    let c := (s.key 3).material
    let p := s.prefixP ++ s.mr 1 ++ s.mr 2
    let s := s.fillFixed 5 kP384 2 1 (kdf c (ascii "N64 ALIAS ECC") p 448)
    let s := s.fillFixed 6 kMldsa 2 1 (kdf c (ascii "N64 ALIAS MLDSA") p 256)
    s.fillFixed 7 kDerive 8 1 (kdf c (ascii "N64 PARTITION") s.prefixP 384)

-- ## The engine's result (R356, R359, R360)

/-- Operand memory with the given registers from V0 on, and every other one zero. -/
def operandTab (vs : List (List DWord)) : Tab (List DWord) := vs.zipIdx.foldl (fun t o => t.put [] o.2 o.1) []

/-- A program ends: its outputs stand in V0 and on, everything else is zero, and the result word is set. -/
def State.pkeEnd (s : State) (code : Nat) (clamp : Bool) (outs : List (List DWord)) : State :=
  { s with eng := { s.eng.wipePke with operands := operandTab outs, result := BitVec.ofNat 5 (code + 16 * b2n clamp) } }

/-- A program that gives a public key leaves it in V0 and on: coordinates as numbers, or the ML-DSA encoding. -/
def State.pkePublic (s : State) (q : List Byte) : State :=
  s.pkeEnd pkOk false (if q.length ≤ 96 then
    [loadReversed (q.take (q.length / 2)), loadReversed (q.drop (q.length / 2))] else regsOf q)

/-- The engine runs one program at a time: one that waits for the DRBG keeps the others waiting (R355). -/
def State.pkeBusy (s : State) : Bool := !s.eng.pke.isEmpty

-- ## What keys do

/-- The public key of an asymmetric key: x and y, or the ML-DSA encoding; none of the other types. -/
def publicOf (type : Nat) (m : List Byte) : Option (List Byte) :=
  if type = kP256 then some (p256.pair (p256.public (beNat m)))
  else if type = kP384 then some (p384.pair (p384.public (beNat m)))
  else if type = kMldsa then some (mlPublic m) else none

def KeySlot.public (k : KeySlot) : Option (List Byte) := publicOf k.type k.material

/-- ECDSA on a digest with nonces from the DRBG by the extra-bits method, drawing again where r or s is zero. -/
def ecdsaSign (c : Curve) (fuel : Nat) (d e : Nat) (s : State) : Option ((Nat × Nat) × State) :=
  match fuel with
  | 0 => none
  | fuel + 1 =>
    match s.drbgTake c.extra with
    | none => none
    | some (bs, s) =>
      match c.sign d e (c.scalar bs) with
      | some rs => some (rs, s)
      | none => ecdsaSign c fuel d e s

/-- What a curve's signing program leaves: r and s in V0 and V1, and the signature that the store path takes from them. -/
def ecBytes (c : Curve) (r : Option ((Nat × Nat) × State)) : Option (List Byte × State) :=
  r.map fun x =>
    let v0 := wordsOf64 (c.bytes / 8) x.1.1
    let v1 := wordsOf64 (c.bytes / 8) x.1.2
    (storeReversed c.bytes v0 ++ storeReversed c.bytes v1, x.2.pkeEnd pkOk false [v0, v1])

/-- Signature of a message by a key: SHA-256 or SHA-384 first for the curves, the message itself for ML-DSA-65. None while the DRBG
gives nothing. -/
def signMsg (type : Nat) (m : List Byte) (msg : List Byte) (s : State) : Option (List Byte × State) :=
  if type = kP256 then ecBytes p256 (ecdsaSign p256 64 (beNat m) (atWidth 4 (loadReversed (sha256 msg))) s)
  else if type = kP384 then ecBytes p384 (ecdsaSign p384 64 (beNat m) (atWidth 6 (loadReversed (sha384 msg))) s)
  else
    match s.drbgTake 32 with
    | none => none
    | some (rnd, s) => (mlSign m msg rnd).map fun g => (g, s.pkeEnd pkOk false (regsOf g))

/-- The tag of a message under an HMAC or DERIVE key (R352). -/
def tagMsg (type : Nat) (m msg : List Byte) : List Byte :=
  if type = kHmac256 then hmac256 m msg else if type = kHmac512 then hmac512 m msg else hmac384 m msg

/-- The DRBG has something to give: READY and not due for a reseed (R362 to R364). -/
def State.drbgReady (s : State) : Bool := s.eng.drbg == .ready && decide (s.eng.drbgCount < 65536)
/-- A consumer of the DRBG waits: it is neither ready nor in ERROR (R364, R365). -/
def State.drbgWaits (s : State) : Bool := !s.drbgReady && s.eng.drbg != .error

end Sys2Proof.Machine
end

