-- ==== Sys2Proof/Machine/Digest.lean ====
section
/-! DEFINITION. Digest descriptors (R349 to R352): the contexts, the input of a descriptor, its end, and the requests that wait for a
context; the Saltern core's view of memory through which descriptors name their bytes (R303). -/
namespace Sys2Proof.Machine

-- ## The core's addresses (Table 12.2)

/-- SRAM as the core sees it. -/
def inSram (a n : Nat) : Bool := 0x10000000 ≤ a && a + n ≤ 0x10060000
/-- The bridge to the device's address space. -/
def inBridge (a n : Nat) : Bool := 0x40000000 ≤ a && a + n ≤ 0x80000000
/-- The device address behind an address of the bridge. -/
def State.bridged (s : State) (a : Nat) : Nat := (s.saltern.window.toNat + (a - 0x40000000)) % 2 ^ 40

/-- What the Saltern, as initiator 0x80, reaches of the device's memory: the vaults, usable LPDDR5X, and the stores of pans that are neither
bunded nor race pans (R112, R191, R439). -/
def State.deviceRanges (s : State) : List (Nat × Nat) :=
  (0, 8 * vaultSize) :: s.lpRanges
    ++ (pansAll.filter fun p => !(s.pan p).bunded && (s.slotOf p).isNone).map fun p => (storeBase p, 0x200000)

/-- Bytes that the core reads, if no read of them is refused or POISONED; a sealed region is not the Saltern's to read, but the reserve is
(R112, R135, R351). -/
def State.coreRead (s : State) (a n : Nat) : Option (List Byte) × State :=
  if n = 0 then (some [], s)
  else if inSram a n || a + n ≤ 0x10000 then let r := s.looseBytes (salternBase + a) n; (some r.1, r.2)
  else if inBridge a n then
    let d := s.bridged a
    (if within s.deviceRanges d n && !s.hitsSealed d n && !s.marked d n && !s.fencedAt d n then some (s.read d n) else none, s)
  else (none, s)

/-- Bytes that an engine writes for the core; outside SRAM, and where the device refuses them, they go nowhere. -/
def State.coreWrite (s : State) (a : Nat) (bs : List Byte) : State :=
  let n := bs.length
  if inSram a n then s.writeKnown (salternBase + a) bs
  else if inBridge a n && within s.deviceRanges (s.bridged a) n && !s.hitsSealed (s.bridged a) n && (s.kvHit (s.bridged a) n).isNone
      && !s.fencedAt (s.bridged a) n then s.engineWrite (s.bridged a) bs
  else s

-- ## Contexts (R349, R350, R352)

/-- The hash of an OP, and of a slot TYPE for HMAC; none for a reserved OP. -/
def algOf (op type : Nat) : Option HashAlg :=
  match op with
  | 0 => some .sha256
  | 1 => some .sha384
  | 2 => some .sha512
  | 4 => some (if type = kHmac256 then .sha256 else if type = kHmac512 then .sha512 else .sha384)
  | _ => none

/-- The digest of a context's message, keyed where it is an HMAC. -/
def DigestCtx.digest (c : DigestCtx) : List Byte :=
  match c.slot, c.alg with
  | none, .sha256 => sha256 c.data
  | none, .sha384 => sha384 c.data
  | none, .sha512 => sha512 c.data
  | some _, .sha256 => hmac256 c.key c.data
  | some _, .sha384 => hmac384 c.key c.data
  | some _, .sha512 => hmac512 c.key c.data

def State.dctx (s : State) (i : Nat) : DigestCtx := s.eng.ctxs.look {} i
def State.setDctx (s : State) (i : Nat) (c : DigestCtx) : State :=
  { s with eng := { s.eng with ctxs := s.eng.ctxs.put {} i c } }

/-- The slot of a descriptor's message: HMAC has one. -/
def msgSlot (op slot : Nat) : Option Nat := if op = 4 then some slot else none

/-- The STATUS word of a descriptor. -/
def State.descStatus (s : State) (at32 code : Nat) (trunc : Bool) (ctx : Nat) : State :=
  s.coreWrite (at32 + 28) (leBytes 4 (ctx * 2 ^ 16 + b2n trunc * 2 ^ 8 + code))

/-- The open message that a descriptor goes on with: the lowest context whose OP, and for HMAC whose slot, agree (DESIGN CHOICE
[log 46]: a descriptor names no context). -/
def State.openMsg (s : State) (op slot : Nat) : Option Nat :=
  (List.range 4).find? fun i =>
    let c := s.dctx i
    c.busy && c.op.toNat == op && c.slot == msgSlot op slot

/-- A message of this OP and slot was aborted, and no descriptor has said so yet. -/
def State.wasAborted (s : State) (op slot : Nat) : Bool := s.eng.aborted.contains (op, msgSlot op slot)
def State.sayAborted (s : State) (op slot : Nat) : State :=
  { s with eng := { s.eng with aborted := s.eng.aborted.erase (op, msgSlot op slot) } }

/-- The context of a descriptor and the message as it stands, or the code that refuses it; none while a FIRST has to wait. -/
def State.descCtx (s : State) (op slot : Nat) (first : Bool) : Option (Except Nat (Nat × DigestCtx)) :=
  if !first then
    match s.openMsg op slot with
    | none => some (.error (if s.wasAborted op slot then 2 else 8))
    | some i => some (.ok (i, s.dctx i))
  else
    let k := s.key slot
    match algOf op k.type with
    | none => some (.error 8)
    | some alg =>
      match (if op = 4 then s.useErr none slot (some (if k.type = kDerive then uDerive else uHmac)) else none) with
      | some e => some (.error (e + 3))
      | none =>
        match (List.range 4).find? fun i => !(s.dctx i).busy with
        | none => none
        | some i =>
          some (.ok (i, { busy := true, alg, op := BitVec.ofNat 8 op, slot := msgSlot op slot, key := if op = 4 then k.material else [] }))

/-- A message ends in its measurement register. The KIND and HANDLE of such an extend are no field of a descriptor: free values
[log 46]. -/
def State.descExtend (s : State) (mr : Nat) (v : Option (List Byte)) : State :=
  let (k, s) := s.draw
  s.extend mr ((freeCycles k).toNat % 256) (BitVec.ofNat 8 ((freeCycles k).toNat / 256)) (v.map fun d => slice d 0 48)

-- ## A descriptor (R349, R351)

/-- What a descriptor's source delivers: a mover's stream up to its end mark, or LENGTH bytes from SRC; none where a read fails. -/
def State.descInput (s : State) (desc stream : List Byte) (n : Nat) : Option (List Byte) × State :=
  if bitAt (leAt desc 1 1) 3 then (some stream, s) else s.coreRead (leAt desc 8 4) n

/-- The input ended early: the context is wiped and released, and the register of a message with EXTEND takes the failed value. -/
def State.descShort (s : State) (at32 i : Nat) (ext : Option Nat) : State :=
  let s := (s.setDctx i {}).countShort
  let s := match ext with | some mr => s.descExtend mr none | none => s
  s.descStatus at32 1 false i

/-- The descriptor at a core address is run, as it stands in SRAM; none while it has to wait for a context. -/
def State.descRun (s : State) (at32 : Nat) (stream : List Byte) : Option State :=
  let desc := s.read (salternBase + at32) 32
  let op := leAt desc 0 1
  let fl := leAt desc 1 1
  let slot := leAt desc 2 1
  let n := min (leAt desc 16 8) (2 ^ 40 - 1)
  match s.descCtx op slot (bitAt fl 0) with
  | none => none
  | some (.error code) => some ((s.sayAborted op slot).descStatus at32 code false 0)
  | some (.ok (i, c)) =>
    let s := if bitAt fl 0 then s.sayAborted op slot else s
    let ext := if bitAt fl 2 then some (leAt desc 3 1 % 32) else c.ext
    some (match s.descInput desc stream n with
      | (none, s) => s.descShort at32 i ext
      | (some input, s) =>
        if input.length < n then s.descShort at32 i ext
        else
          let excess := n < input.length
          let s := if excess then s.countTrunc else s
          let c := { c with data := c.data ++ input.take n, trunc := c.trunc || excess, ext }
          if !bitAt fl 1 then (s.setDctx i c).descStatus at32 0 excess i
          else
            let s := (s.setDctx i {}).coreWrite (leAt desc 24 4) c.digest
            let s := if bitAt fl 2 then s.descExtend (leAt desc 3 1 % 32) (some c.digest) else s
            s.descStatus at32 0 excess i)

/-- A descriptor is run, or joins those that wait. -/
def State.descTry (s : State) (w : Nat × List Byte) : State :=
  match s.descRun w.1 w.2 with
  | some s => s
  | none => { s with eng := { s.eng with waiting := s.eng.waiting ++ [w] } }

/-- Waiting requests take the contexts that have become free, in arrival order (R350). -/
def State.settleDigests (s : State) : State :=
  s.eng.waiting.foldl State.descTry { s with eng := { s.eng with waiting := [] } }

end Sys2Proof.Machine
end

