-- ==== Sys2Proof/Machine/PkeRun.lean ====
section
/-! DEFINITION. The programs of the PKE engine as they run (R355 to R360): its microcode, the queue of programs, their operands, and
what ends them. -/
namespace Sys2Proof.Machine

/-- The engine's code is loaded, the ROM's fixed set or the signed full set, unless PKE_CODE is set (R328, R355). The words themselves are
given by no rule. -/
def State.loadCode (s : State) (full : Bool) : State :=
  if s.lock 11 then s else
    let (k, s) := s.draw
    { s with eng := { s.eng with microcode := some k, romSet := true, fullSet := s.eng.fullSet || full } }

/-- The program index is loaded, no known-answer test has failed, and no policy refuses it. -/
def State.pkeLoaded (s : State) (i : Nat) : Bool :=
  !s.eng.katFail && i < 12 && (s.eng.fullSet || (s.eng.romSet && [3, 4, 5, 7, 8, 9, 10, 11].contains i))
    && !((i == 10 || i == 11) && s.policy polNoRsa)

/-- TYPE and USAGE bit of the key that a program takes (Table 14.4, R305). -/
def pkeKey (i : Nat) : Option (Nat × Option Nat) :=
  match i with
  | 0 => some (kP256, some uSign)
  | 2 => some (kP256, none)
  | 3 => some (kP384, some uSign)
  | 5 => some (kP384, none)
  | 6 => some (kP384, some uEcdh)
  | 7 => some (kMldsa, none)
  | 8 => some (kMldsa, some uSign)
  | _ => none

/-- A program that draws from the DRBG: a nonce, or ML-DSA's rnd (R358, R363). -/
def pkeRandom (i : Nat) : Bool := i == 0 || i == 3 || i == 8

/-- The slot named with a request refuses the use, which leaves the engine untouched (R306, R356). -/
def State.pkeRefused (s : State) (r : PkeReq) : Bool :=
  match pkeKey r.prog with
  | none => false
  | some (type, bit) =>
    let n := r.slot.getD 0
    (s.useErr none n bit).isSome || (s.key n).type != type

/-- A program begins: operands stand in V0 and on, the private key in its hidden register, and an ML-DSA seed is expanded. -/
def State.pkeBegin (s : State) (r : PkeReq) : State :=
  let m := match r.slot with | some n => (s.key n).material | none => []
  { s with eng := { s.eng with operands := operandTab (r.ops ++ r.strs.flatMap regsOf), hidden := m
                               poly := if r.prog = 7 || r.prog = 8 then m else [] } }

def State.opReg (s : State) (i : Nat) : List DWord := s.eng.operands.look [] i
/-- The number in operand register `i` at the width a program requires (R356). -/
def State.opNum (s : State) (i words : Nat) : Nat := atWidth words (s.opReg i)
/-- One of the first `n` operands is not of the width required. -/
def State.misfit (s : State) (n words : Nat) : Bool := (List.range n).any fun i => (s.opReg i).length != words

-- ## The programs (Table 14.4); each runs on an engine that `pkeBegin` has set up, and none waits for the DRBG

/-- ECDSA: e in V0 gives r and s in V0 and V1. -/
def State.ecSign (s : State) (c : Curve) (w : Nat) : Option State :=
  (ecdsaSign c 64 (beNat s.eng.hidden) (s.opNum 0 w) s).map fun x =>
    x.2.pkeEnd pkOk (s.misfit 1 w) [wordsOf64 w x.1.1, wordsOf64 w x.1.2]

/-- e, r, s, x and y in V0 to V4. -/
def State.ecVerify (s : State) (c : Curve) (w : Nat) : State :=
  s.pkeEnd (c.verify (s.opNum 0 w) (s.opNum 1 w) (s.opNum 2 w) (s.opNum 3 w) (s.opNum 4 w)) (s.misfit 5 w) []

/-- x and y in V0 and V1. -/
def State.ecPublic (s : State) (c : Curve) (w : Nat) : State :=
  let q := c.public (beNat s.eng.hidden)
  s.pkeEnd pkOk false [wordsOf64 w q.1, wordsOf64 w q.2]

/-- The peer's x and y in V0 and V1 give the shared x-coordinate in V0. -/
def State.ecdhRun (s : State) : State :=
  match p384.ecdh (beNat s.eng.hidden) (s.opNum 0 6) (s.opNum 1 6) with
  | .error code => s.pkeEnd code (s.misfit 2 6) []
  | .ok x => s.pkeEnd pkOk (s.misfit 2 6) [wordsOf64 6 x]

/-- Hedged: rnd comes from the DRBG. -/
def State.mlSignRun (s : State) (msg : List Byte) : Option State :=
  match s.drbgTake 32 with
  | none => none
  | some (rnd, s) => (mlSign s.eng.hidden msg rnd).map fun g => s.pkeEnd pkOk false (regsOf g)

/-- A key or signature of another length is taken at the length the program requires. -/
def State.mlVerifyRun (s : State) (pub msg sig : List Byte) : State :=
  s.pkeEnd (if mlVerify (slice pub 0 1952) msg (slice sig 0 3309) then pkOk else pkFail)
    (pub.length != 1952 || sig.length != 3309) []

/-- The signature in V0 and the modulus in V1 give s^65537 mod n in V0. -/
def State.rsaRun (s : State) (bits : Nat) : State :=
  let w := bits / 64
  match rsaPublic bits (s.opNum 1 w) (s.opNum 0 w) with
  | .error code => s.pkeEnd code (s.misfit 2 w) []
  | .ok x => s.pkeEnd pkOk (s.misfit 2 w) [wordsOf64 w x]

/-- The program of a request; none while it has nothing from the DRBG. -/
def State.pkeProgram (s : State) (r : PkeReq) : Option State :=
  match r.prog with
  | 0 => s.ecSign p256 4
  | 1 => some (s.ecVerify p256 4)
  | 2 => some (s.ecPublic p256 4)
  | 3 => s.ecSign p384 6
  | 4 => some (s.ecVerify p384 6)
  | 5 => some (s.ecPublic p384 6)
  | 6 => some s.ecdhRun
  | 7 => some (s.pkeEnd pkOk false (regsOf (mlPublic s.eng.hidden)))
  | 8 => s.mlSignRun (r.strs.getD 0 [])
  | 9 => some (s.mlVerifyRun (r.strs.getD 0 []) (r.strs.getD 1 []) (r.strs.getD 2 []))
  | 10 => some (s.rsaRun 3072)
  | _ => some (s.rsaRun 4096)

-- ## The queue

/-- The first request is run: not loaded, it returns ERR_PROGRAM at once; a refused slot leaves the engine untouched; one that needs random
values waits for the DRBG, and fails where that is in ERROR (R306, R355, R364, R365). None while it waits. -/
def State.pkeRun (s : State) (r : PkeReq) : Option State :=
  if !s.pkeLoaded r.prog then some (s.pkeEnd pkProgram false [])
  else if s.pkeRefused r then some s
  else if pkeRandom r.prog && s.eng.drbg == .error then some (s.pkeEnd pkProgram false [])
  else if pkeRandom r.prog && s.drbgWaits then none
  else (s.pkeBegin r).pkeProgram r

/-- Programs run in the order issued, one at a time, up to one that waits; that one has begun (R355). -/
def State.settlePke (fuel : Nat) (s : State) : State :=
  match fuel, s.eng.pke with
  | 0, _ => s
  | _, [] => s
  | fuel + 1, r :: rest =>
    match s.pkeRun r with
    | none => s.pkeBegin r
    | some t => State.settlePke fuel { t with eng := { t.eng with pke := rest } }

/-- What waits in the engines goes on: programs, and FIRST descriptors. -/
def State.settleEngines (s : State) : State := (s.settlePke (s.eng.pke.length + 1)).settleDigests

/-- A request is issued. -/
def State.pkeIssue (s : State) (r : PkeReq) : State :=
  State.settlePke (s.eng.pke.length + 2) { s with eng := { s.eng with pke := s.eng.pke ++ [r] } }

end Sys2Proof.Machine
end

