-- ==== Sys2Proof/Machine/Vec.lean ====
section
/-! DEFINITION. VEC and REDUCE (R45, R46, R95, R96). Every source element is read before any result is written. -/
namespace Sys2Proof.Machine

/-- `n` source elements of 32 bits; one element serving all when `one` is set (BB, BC). -/
def vecSource (s : State) (p : Nat) (sl : Slot22) (one : Bool) (n : Nat) : List Nat :=
  if one then List.replicate n ((s.slotElems p sl 0 .fp32 1).headD 0) else s.slotElems p sl 0 .fp32 n

/-- Elements of the word's vector (R95). -/
def vecLen (w : Nat) : Nat := fld w 92 16 + 1

/-- Issue interval and latency of a VEC function (Table 2.3). -/
def vecTiming (func : Nat) : Nat × Nat :=
  match func with
  | 4 => (1, 2) | 5 => (1, 2) | 6 => (1, 2) | 7 => (1, 2) | 8 => (1, 2) | 9 => (1, 2)
  | 10 => (4, 12) | 11 => (4, 16) | 12 => (4, 20) | 13 => (8, 36) | 14 => (8, 40) | _ => (1, 4)

/-- (P - 1) × I + Λ (R88). -/
def vecCost (w : Nat) : Cost :=
  let (i, l) := vecTiming (iFunc w)
  { vec := (cdiv (vecLen w) 64 - 1) * i + l }

/-- Runs one computation per element, collecting results and flags. -/
def lanes (f : Nat → Arith Nat) (xs : List Nat) : List Nat × AFlags := Arith.go (xs.mapM f)

/-- Results to the destination slot, flags to PAN_ARITH. -/
def vecPut (e : PEnv) (s : State) (f : Fmt) (r : List Nat × AFlags) : Done :=
  plain ((s.putElems e.p (slotAt e.w 4) 0 f r.1).addFlags e.p r.2) (vecCost e.w)

/-- A unary function of A. -/
def vecUn (f : Nat → Arith Nat) (e : PEnv) (s : State) : Done :=
  vecPut e s .fp32 (lanes f (vecSource s e.p (slotAt e.w 70) false (vecLen e.w)))

/-- A binary function of A and B. -/
def vecBin (f : Nat → Nat → Arith Nat) (e : PEnv) (s : State) : Done :=
  let n := vecLen e.w
  let a := vecSource s e.p (slotAt e.w 70) false n
  let b := vecSource s e.p (slotAt e.w 48) (bitAt e.w 117) n
  vecPut e s .fp32 (Arith.go ((a.zip b).mapM fun x => f x.1 x.2))

/-- A × B + C. -/
def vecFma (e : PEnv) (s : State) : Done :=
  let n := vecLen e.w
  let a := vecSource s e.p (slotAt e.w 70) false n
  let b := vecSource s e.p (slotAt e.w 48) (bitAt e.w 117) n
  let c := vecSource s e.p (slotAt e.w 26) (bitAt e.w 116) n
  vecPut e s .fp32 (Arith.go ((a.zip (b.zip c)).mapM fun x => fma32 x.1 x.2.1 x.2.2))

/-- CONVERT between the formats SFMT and DFMT. -/
def vecConvert (e : PEnv) (s : State) : Done :=
  match fmt4 (fld e.w 112 4), fmt4 (fld e.w 108 4) with
  | some src, some dst => vecPut e s dst (lanes (convert src dst) (s.slotElems e.p (slotAt e.w 70) 0 src (vecLen e.w)))
  | _, _ => plain s (vecCost e.w)

/-- SHR by the count in bits [4:0] of the C slot. -/
def vecShr (e : PEnv) (s : State) : Done := vecUn (fun x => pure (shr32 x (fld e.w 26 5))) e s

/-- A VEC function with INT clear, or set. -/
def vecIs (func : Nat) (int : Bool) (w : Nat) : Bool := iFunc w == func && bitAt w 118 == int

/-- Runs a VEC row. -/
def vecRow (func : Nat) (int : Bool) (act : PEnv → State → Done) (p : BitVec 6) (ds : List Detection) (s : State) :
    Host.Outcome State Fault Refusal := .next (panRow kVec (vecIs func int) act p ds s)

def execAdd (p : BitVec 6) (ds : List Detection) (s : State) : Host.Outcome State Fault Refusal :=
  vecRow 0 false (vecBin add32) p ds s
def execSub (p : BitVec 6) (ds : List Detection) (s : State) : Host.Outcome State Fault Refusal :=
  vecRow 1 false (vecBin sub32) p ds s
def execMul (p : BitVec 6) (ds : List Detection) (s : State) : Host.Outcome State Fault Refusal :=
  vecRow 2 false (vecBin mul32) p ds s
def execFma (p : BitVec 6) (ds : List Detection) (s : State) : Host.Outcome State Fault Refusal :=
  vecRow 3 false vecFma p ds s
def execMax (p : BitVec 6) (ds : List Detection) (s : State) : Host.Outcome State Fault Refusal :=
  vecRow 4 false (vecBin max32) p ds s
def execMin (p : BitVec 6) (ds : List Detection) (s : State) : Host.Outcome State Fault Refusal :=
  vecRow 5 false (vecBin min32) p ds s
def execAbs (p : BitVec 6) (ds : List Detection) (s : State) : Host.Outcome State Fault Refusal :=
  vecRow 6 false (vecUn abs32) p ds s
def execNeg (p : BitVec 6) (ds : List Detection) (s : State) : Host.Outcome State Fault Refusal :=
  vecRow 7 false (vecUn neg32) p ds s
def execConvert (p : BitVec 6) (ds : List Detection) (s : State) : Host.Outcome State Fault Refusal :=
  vecRow 8 false vecConvert p ds s
def execShr (p : BitVec 6) (ds : List Detection) (s : State) : Host.Outcome State Fault Refusal :=
  vecRow 9 false vecShr p ds s
def execRecip (p : BitVec 6) (ds : List Detection) (s : State) : Host.Outcome State Fault Refusal :=
  vecRow 10 false (vecUn recip32) p ds s
def execRsqrt (p : BitVec 6) (ds : List Detection) (s : State) : Host.Outcome State Fault Refusal :=
  vecRow 11 false (vecUn rsqrt32) p ds s
def execExp (p : BitVec 6) (ds : List Detection) (s : State) : Host.Outcome State Fault Refusal :=
  vecRow 12 false (vecUn exp32) p ds s
def execSigmoid (p : BitVec 6) (ds : List Detection) (s : State) : Host.Outcome State Fault Refusal :=
  vecRow 13 false (vecUn sigmoid32) p ds s
def execSilu (p : BitVec 6) (ds : List Detection) (s : State) : Host.Outcome State Fault Refusal :=
  vecRow 14 false (vecUn silu32) p ds s
def execIadd (p : BitVec 6) (ds : List Detection) (s : State) : Host.Outcome State Fault Refusal :=
  vecRow 0 true (vecBin iadd32) p ds s
def execIsub (p : BitVec 6) (ds : List Detection) (s : State) : Host.Outcome State Fault Refusal :=
  vecRow 1 true (vecBin isub32) p ds s
def execImul (p : BitVec 6) (ds : List Detection) (s : State) : Host.Outcome State Fault Refusal :=
  vecRow 2 true (vecBin imul32) p ds s

-- ## REDUCE (R46)

/-- A float element as a lane takes it in: a NaN enters as the canonical NaN, so that no payload or sign is passed on where a lane
has nothing to combine it with (R39, R42). -/
def canon32 (x : Nat) : Arith Nat :=
  if (v32 x).isNan then do raise fNanIn; pure fFp32.nanCode else pure x

/-- A lane's elements folded in ascending index from its first, which `first` takes in. -/
def foldLane (first : Nat → Arith Nat) (op : Nat → Nat → Arith Nat) : List Nat → Arith (Option Nat)
  | [] => pure none
  | x :: xs => do
    let x ← first x
    let r ← xs.foldlM op x
    pure (some r)

/-- Adjacent results combined, the lower index on the left; a lane with no element lets its partner through. -/
def combine (op : Nat → Nat → Arith Nat) : List (Option Nat) → Arith (List (Option Nat))
  | some a :: some b :: l => do
    let r ← op a b
    let l ← combine op l
    pure (some r :: l)
  | some a :: none :: l => do
    let l ← combine op l
    pure (some a :: l)
  | none :: b :: l => do
    let l ← combine op l
    pure (b :: l)
  | [a] => pure [a]
  | [] => pure []

/-- Levels of the binary tree. -/
def tree (op : Nat → Nat → Arith Nat) : Nat → List (Option Nat) → Arith (List (Option Nat))
  | 0, l => pure l
  | n + 1, l => do
    let l ← combine op l
    tree op n l

/-- Elements `j, j + 64, …` of a vector. -/
def laneOf (xs : List Nat) (j : Nat) : List Nat := (xs.zipIdx.filter fun x => x.2 % 64 == j).map (·.1)

/-- The fixed-order reduction of a vector. -/
def reduceVec (first : Nat → Arith Nat) (op : Nat → Nat → Arith Nat) (xs : List Nat) : Arith Nat := do
  let l ← (List.range 64).mapM fun j => foldLane first op (laneOf xs j)
  let r ← tree op 6 l
  pure ((r.headD none).getD 0)

/-- REDUCE of ROWS vectors of L elements (R96). -/
def reduceAct (first : Nat → Arith Nat) (op : Nat → Nat → Arith Nat) (e : PEnv) (s : State) : Done :=
  let rows := fld e.w 108 10 + 1
  let n := vecLen e.w
  let stride := cdiv n 64 * 256
  let r := Arith.go ((List.range rows).mapM fun i => reduceVec first op (s.slotElems e.p (slotAt e.w 70) (i * stride) .fp32 n))
  plain ((s.putElems e.p (slotAt e.w 4) 0 .fp32 r.1).addFlags e.p r.2) { vec := rows * (cdiv n 64 + 12) }

/-- ADD in FP32, or in INT32 with sat32 when INT is set. -/
def reduceAddAct (e : PEnv) (s : State) : Done :=
  if bitAt e.w 118 then reduceAct pure iadd32 e s else reduceAct canon32 add32 e s

def execReduceAdd (p : BitVec 6) (ds : List Detection) (s : State) : Host.Outcome State Fault Refusal :=
  .next (panRow kReduce (funcIs 0) reduceAddAct p ds s)
def execReduceMax (p : BitVec 6) (ds : List Detection) (s : State) : Host.Outcome State Fault Refusal :=
  .next (panRow kReduce (funcIs 1) (reduceAct canon32 max32) p ds s)

end Sys2Proof.Machine
end

