-- ==== Sys2Proof/Machine/Arm.lean ====
section
/-! DEFINITION. What the device computes of a race program before it arms a slot: the words it executes (R103 to R106), their
footprints (R84), the pan-cycle count S (R83, R88, R188, R189), and the checks of Table 7.8. -/
namespace Sys2Proof.Machine

-- ## The words executed

/-- The words a run executes, in order, after replacement and stepping; execution ends at END or past the last word. -/
def walkWords (words : List Nat) (fuel pc : Nat) (loops : List LoopFrame) : List Nat :=
  match fuel with
  | 0 => []
  | fuel + 1 =>
    match words[pc]? with
    | none => []
    | some w0 =>
      let w := stepWord w0 (loops.map fun l => (l.iter, l.sa, l.sb, l.sd))
      if iClass w = kEnd then [w]
      else if iClass w = kLoop then
        let f : LoopFrame :=
          { start := pc + 1, body := fld w 90 13 + 1, count := fld w 103 16 + 1, iter := 0, sa := BitVec.ofNat 24 (fld w 66 24)
            sb := BitVec.ofNat 24 (fld w 42 24), sd := BitVec.ofNat 24 (fld w 18 24) }
        w :: walkWords words fuel (pc + 1) (f :: loops)
      else
        let n := advanceLoops (pc + 1) loops
        w :: walkWords words fuel n.1 n.2

/-- The whole run: four nested loops of 65,536 over 8,192 words bound it. -/
def runWords (words : List Nat) : List Nat := walkWords words (2 ^ 80) 0 []

-- ## Footprints (R84)

/-- `n` bytes from `a` of the pan store, or of the accumulator buffer; they wrap. -/
structure Foot where
  acc : Bool
  a : Nat
  n : Nat
  deriving DecidableEq, Repr

def Foot.size (f : Foot) : Nat := if f.acc then 0x40000 else 0x200000
/-- The pieces that do not wrap. -/
def Foot.parts (f : Foot) : List (Nat × Nat) :=
  let a := f.a % f.size
  if f.size ≤ f.n then [(0, f.size)]
  else if a + f.n ≤ f.size then [(a, f.n)] else [(a, f.size - a), (0, a + f.n - f.size)]

def Foot.meets (f g : Foot) : Bool :=
  f.acc == g.acc && f.parts.any fun x => g.parts.any fun y => overlaps x.1 x.2 y.1 y.2

/-- Bytes of an operand. -/
def Slot22.foot (sl : Slot22) (k n : Nat) : Foot := { acc := sl.acc, a := (if sl.acc then sl.ofs * 256 else sl.ofs) + k, n }

/-- The metadata records of an activation operand (R63). -/
def actFeet (q : Option QDesc) (rows k : Nat) : List Foot :=
  match q with
  | none => []
  | some q =>
    let n := 2 * q.ng k + (if q.asym then q.ng k else 0)
    if q.gran = .tensor then [{ acc := false, a := q.addr, n }]
    else (List.range rows).map fun m => { acc := false, a := q.addr + m * q.stride, n }

/-- The metadata records of a weight operand (R62). -/
def weightFeet (q : Option QDesc) (cols k : Nat) : List Foot :=
  match q with
  | none => []
  | some q =>
    if q.gran = .tensor then [{ acc := false, a := q.addr, n := if q.asym then 3 else 2 }]
    else
      let rb := if !q.asym then 128 else if q.fmt.bits = 4 then 160 else 192
      [{ acc := false, a := q.addr, n := q.ng k * cdiv cols 64 * rb }]

def rowFeet (sl : Slot22) (rows stride n : Nat) : List Foot := (List.range rows).map fun i => sl.foot (i * stride) n

/-- Read and write footprints of a word on pan `p`. -/
def footprints (p : Nat) (descs : List Nat) (w : Nat) : List Foot × List Foot :=
  let c := iClass w
  if c = kMove then
    let loc := rowFeet (slotAt w 95) (moveRows w) (moveLocalStride w) (moveLen w)
    if iFunc w = 1 then ([], loc)
    else
      let r := fld w 55 40
      let own := storeBase p ≤ r && r < storeBase p + 0x200000
      let rem := if own then rowFeet { acc := false, ofs := r - storeBase p } (moveRows w) (moveRemoteStride w) (moveLen w) else []
      if bitAt w 118 then (loc, rem) else (rem, loc)
  else if c = kMatmul then
    match fmt3 (fld w 116 3), fmt3 (fld w 113 3) with
    | some fa, some fb =>
      let rows := fld w 87 10 + 1
      let k := fld w 73 14 + 1
      let cols := fld w 57 16 + 1
      let astride := if fld w 30 10 = 0 then cdiv (k * fa.bits) 128 * 16 else fld w 30 10 * 16
      let a := rowFeet { acc := false, ofs := fld w 40 17 * 16 } rows astride (cdiv (k * fa.bits) 8)
      let kp := if fb.bits = 4 then 128 else 64
      let b : Foot := { acc := false, a := fld w 21 9 * 4096, n := cdiv k kp * cdiv cols 64 * (if fb = .bf16 then 8192 else 4096) }
      let d : Foot := { acc := true, a := fld w 11 10 * 256, n := rows * cdiv cols 64 * 256 }
      (a ++ [b] ++ actFeet (qdesc descs (fld w 105 8)) rows k ++ weightFeet (qdesc descs (fld w 97 8)) cols k
        ++ (if bitAt w 121 then [d] else []), [d])
    | _, _ => ([], [])
  else if c = kVec then
    let n := vecLen w
    let f := iFunc w
    let src := if f = 8 then (fmt4 (fld w 112 4)).getD .fp32 else .fp32
    let dst := if f = 8 then (fmt4 (fld w 108 4)).getD .fp32 else .fp32
    let b := if f ≤ 5 then [(slotAt w 48).foot 0 (4 * if bitAt w 117 then 1 else n)] else []
    let cc := if f = 3 then [(slotAt w 26).foot 0 (4 * if bitAt w 116 then 1 else n)] else []
    ([(slotAt w 70).foot 0 (cdiv (n * src.bits) 8)] ++ b ++ cc, [(slotAt w 4).foot 0 (cdiv (n * dst.bits) 8)])
  else if c = kReduce then
    let rows := fld w 108 10 + 1
    (rowFeet (slotAt w 70) rows (cdiv (vecLen w) 64 * 256) (4 * vecLen w), [(slotAt w 4).foot 0 (4 * rows)])
  else if c = kQuant || c = kDequant then
    match qdesc descs (fld w 111 8) with
    | none => ([], [])
    | some q =>
      let rows := fld w 99 10 + 1
      let k := fld w 83 16 + 1
      let codes := cdiv (k * q.fmt.bits) 8
      let recs := actFeet (some q) rows k
      let ain := if c = kDequant then codes else k * (if fld w 109 2 = 2 then 2 else 4)
      let dout := if c = kDequant then k * (if iFunc w = 1 then 2 else 4) else codes
      let a := rowFeet (slotAt w 61) rows (qdStride (fld w 19 10) ain) ain
      let d := rowFeet (slotAt w 39) rows (qdStride (fld w 29 10) dout) dout
      if c = kQuant && iFunc w == 0 then (a, d ++ recs) else (a ++ recs, d)
  else ([], [])

-- ## The schedule (R83, R84, R88, R188)

/-- The unit an instruction goes to: 0 the move port, 1 the cell array, 2 the vector unit; none for the sequencer's own. -/
def unitOf (w : Nat) : Option Nat :=
  let c := iClass w
  if c = kMove then some 0 else if c = kMatmul then some 1
  else if c = kVec || c = kReduce || c = kQuant || c = kDequant then some 2 else none

/-- Pan cycles that an instruction occupies its unit, and from its start to its completion. The move port is free again once every
row has issued (DEDUCED [log 24]: the rows are the part of the cost that grows with the bytes). -/
def timing (p slot : Nat) (w : Nat) : Nat × Nat :=
  let c := iClass w
  if c = kMove then
    let bytes := moveRows w * moveLen w
    let window := (raceOffset slot (fld w 55 40) 16).isSome
    if iFunc w = 1 then (cdiv bytes 256, cdiv bytes 256 + 4)
    else if window && !(storeBase p ≤ fld w 55 40 && fld w 55 40 < storeBase p + 0x200000) then (cdiv bytes 64, cdiv bytes 64 + 8)
    else (cdiv bytes 256, cdiv bytes 256 + 8)
  else if c = kMatmul then
    match fmt3 (fld w 116 3), fmt3 (fld w 113 3) with
    | some fa, some fb =>
      let n := mmCost (bitAt w 120) (rateOf fa fb) (fld w 87 10 + 1) (fld w 73 14 + 1) (fld w 57 16 + 1)
      (n, n)
    | _, _ => (0, 0)
  else if c = kVec then
    let il := vecTiming (iFunc w)
    let ps := cdiv (vecLen w) 64
    (ps * il.1, (ps - 1) * il.1 + il.2)
  else
    let n := if c = kReduce then (fld w 108 10 + 1) * (cdiv (vecLen w) 64 + 12)
      else (fld w 99 10 + 1) * (cdiv (fld w 83 16 + 1) 64 + (if c = kQuant then 24 else 8))
    (n, n)

/-- One instruction on a unit. -/
structure Flight where
  unit : Nat
  start : Nat
  free : Nat
  done : Nat
  reads : List Foot
  writes : List Foot
  deriving DecidableEq, Repr

def anyMeet (a b : List Foot) : Bool := a.any fun x => b.any x.meets

/-- The latest of some times and a floor. -/
def latest (t : Nat) (l : List Nat) : Nat := l.foldl max t

/-- Issues the words in order from pan cycle `t`; `fl` holds what has been issued, latest first, and a unit completes its
instructions in order. Answers the cycle at which END
completes, or one above 700 as soon as the issue is past it. -/
def schedule (p slot : Nat) (descs : List Nat) (t : Nat) (fl : List Flight) : List Nat → Nat
  | [] => latest t (fl.map (·.done))
  | w :: ws =>
    if 700 < t then t else
      match unitOf w with
      | none =>
        if iClass w = kEnd then latest t (fl.map (·.done))
        else if iClass w = kWait then
          let named := fl.filter fun f => bitAt (fld w 116 3) f.unit
          schedule p slot descs (latest t (named.map (·.done)) + 1) fl ws
        else schedule p slot descs (t + 1) fl ws
      | some u =>
        let mine := fl.filter fun f => f.unit = u
        -- a queue of 8: the eighth instruction before this one must have started
        let t := match mine[7]? with | some f => max t f.start | none => t
        let (rs, wsf) := footprints p descs w
        let waits := (fl.filter fun f => anyMeet f.writes rs || anyMeet f.writes wsf || anyMeet f.reads wsf).map (·.done)
        let start := latest t ((mine.map (·.free)) ++ waits)
        let (busy, len) := timing p slot w
        let done := latest (start + len) (mine.map (·.done))
        schedule p slot descs (t + 1) ({ unit := u, start, free := start + busy, done, reads := rs, writes := wsf } :: fl) ws

-- ## The checks of Table 7.8

/-- A form of the race set, addresses apart (R188). -/
def raceForm (w : Nat) : Bool :=
  let c := iClass w
  (c == kMatmul && !bitAt w 10) || c == kVec || c == kReduce || c == kQuant || c == kDequant || c == kLoop || c == kWait
    || c == kStep || c == kEnd || (c == kMove && iFunc w != 2)

/-- Where a COPY goes: 0 within the pan, 1 the slot's own window, 2 elsewhere. -/
def copyPlace (p slot : Nat) (w : Nat) : Nat :=
  let r := fld w 55 40
  let base := controlBase + 0x20000 + slot * 0x2000
  if storeBase p ≤ r && r + (moveRows w - 1) * moveRemoteStride w + moveLen w ≤ storeBase p + 0x200000 then 0
  else if base ≤ r && r < base + 0x2000 then 1 else 2

/-- A race-window MOVE stays within IN when reading and within OUT when writing. -/
def windowOk (slot : Nat) (w : Nat) : Bool :=
  let o := fld w 55 40 - (controlBase + 0x20000 + slot * 0x2000)
  (List.range (moveRows w)).all fun i =>
    let a := o + i * moveRemoteStride w
    if bitAt w 118 then 0x1000 ≤ a && a + moveLen w ≤ 0x1100 else a + moveLen w ≤ 0x1000

/-- W: the bytes that hold the weights (R190). -/
def Region.weightBytes (r : Region) : Nat := cdiv r.plen.toNat 16 * 16

/-- The words of a loaded program: descriptors as delivered and instructions after replacement. -/
def State.program (s : State) (r : Region) : List Nat × List Nat :=
  let descs := s.words (r.base + 64) r.prog.nDesc
  (descs, (s.words (r.base + 64 + 16 * r.prog.nDesc) r.prog.nInstr).map fun w => (cleanWord descs w).getD 0)

/-- ARM_ERR of the first check that fails, in the order of Table 7.8, or the count S. `claim` is the partition that owns the slot; a slot
that no partition owns names no program. -/
def State.armCheck (s : State) (slot : Nat) (claim : Option Nat) (progH wgtH : Nat) : Except Nat Nat :=
  match claim with
  | none => .error 1
  | some part =>
    let pan := s.cfg.slotPan slot
    let pr := s.region false part progH
    let wr := s.region true part wgtH
    if !pr.loaded then .error 1
    else if !wr.loaded then .error 2
    else if 0x180000 < wr.plen.toNat then .error 3
    else if 8192 < pr.prog.nDesc + pr.prog.nInstr then .error 4
    else
      let (descs, words) := s.program pr
      let run := runWords words
      let copies := run.filter fun w => iClass w == kMove && iFunc w == 0
      if !words.all raceForm || copies.any (fun w => copyPlace pan slot w == 2) then .error 5
      else if copies.any fun w => copyPlace pan slot w == 1 && !windowOk slot w then .error 6
      else if run.any fun w => (footprints pan descs w).2.any fun f => !f.acc && f.parts.any fun x => x.1 < wr.weightBytes && x.2 != 0
      then .error 7
      else
        let n := schedule pan slot descs 0 [] run
        if n = 0 || 700 < n then .error 8
        else if (s.slotOwner slot).isSome && (s.pan pan).bunded then .error 9
        else if (s.slotOwner slot).isNone then .error 0xA
        else .ok n

end Sys2Proof.Machine
end

