-- ==== Sys2Proof/Machine/Points.lean ====
section
/-! DEFINITION. Operating points of the pan groups: targets (R281 to R283, R295), changes of point (R284, R286, R425), the spillway
(R287 to R289), and what a change or a bubble does to a time-locked command (Table 10.8) and to a race request (R195). -/
namespace Sys2Proof.Machine

-- ## Voltages (R283, R296)

/-- The voltage of a group at a point in mV, within 500 to 850. -/
def State.pointVolt (s : State) (g k : Nat) : Nat :=
  if s.power.tableInvalid then 850
  else
    let off : Int := if s.power.monitored then 5 * (s.group g).offset else 0
    (max 500 (min 850 ((s.voltOf g k : Int) + off))).toNat

/-- The group stands at a point and at its voltage, with no increase under way. -/
def State.setPoint (s : State) (g k : Nat) : State :=
  s.modGroup g fun v =>
    { v with op := BitVec.ofNat 4 k, volt := BitVec.ofNat 10 (s.pointVolt g k), rising := none, riseWait := false }

/-- Pan groups are ungated at OP0, once the fuses have been read (R283, R424, R425). -/
def State.powerGroups (s : State) : State :=
  let bad := s.otpInvalid 3 || (List.range 8).any fun g => (List.range 8).any fun k => s.voltCode g k == 0
  let s := { s with power := { s.power with tableInvalid := bad } }
  (List.range 8).foldl (fun s g => s.setPoint g 0) s

/-- The margin mode of the configuration image; an invalid table disables MONITORED (R283, R296). -/
def State.setMargin (s : State) (monitored : Bool) : State :=
  let on := monitored && !s.power.tableInvalid
  let s := { s with power := { s.power with monitored := on } }
  if !on then s else (List.range 8).foldl (fun s g => (s.modGroup g fun v => { v with offset := 2 }).setPoint g (s.group g).op.toNat) s

-- ## What a change of point meets

/-- The running time-locked commands that use a pan of a group end their lock with a cause (R268, Table 10.8). -/
def State.lockGroup (s : State) (g : Nat) (cause : BitVec 4) : State :=
  s.lockWhere (fun c => c.onPath g g) cause

/-- Pan group 0 is held at OP0: CAUSE_SPILLWAY, and a stretch in force: CAUSE_STRETCH (R195). -/
def State.causesNow (s : State) : BitVec 3 :=
  (if s.power.spillway || s.power.tableInvalid then 1 else 0) ||| (if (s.group 0).stretching then 2 else 0)

/-- A cause that slows pan group 0 falls on every request in progress (R195). -/
def State.meetRace (s : State) : State :=
  (List.range 4).foldl (fun s i =>
    if (s.slot i).st = .busy then s.modSlot i fun v => { v with met := v.met ||| s.causesNow } else s) s

-- ## Targets (R282, R283, R295)

/-- A race slot is armed. -/
def State.anyArmed (s : State) : Bool := (List.range 4).any fun i => (s.slot i).st == .armed || (s.slot i).st == .busy
def State.armedCount (s : State) : Nat := ((List.range 4).filter fun i => (s.slot i).st == .armed || (s.slot i).st == .busy).length

/-- A pan of the group runs a command of a partition that forbids boost. -/
def State.noBoost (s : State) (g : Nat) : Bool :=
  (List.range 8).any fun i => match (s.pan (8 * g + i)).run with
    | some r => bitAt (s.cfg.part r.part).pwr.toNat 16
    | none => false

/-- The group may be at OPB: it may enter it, or, being there, may `stay` (R282; DEDUCED [log 36]). -/
def State.boostOk (s : State) (g : Nat) (stay : Bool) : Bool :=
  let v := s.group g
  !bitAt s.power.cfgNow.toNat 12 && !s.noBoost g && s.voltCode g 8 != 0
    && ((v.op == 8 && stay) || (v.cool && v.calm == 16))

/-- The target point of a group. -/
def State.target (s : State) (g : Nat) (stay : Bool) : Nat :=
  if s.power.spillway || s.power.tableInvalid then 0
  else if g = 0 && s.anyArmed then 7
  else
    let c := fld s.power.ceilNow.toNat (4 * g) 4
    if c < 8 then c else if s.boostOk g stay then 8 else 7

/-- Pan groups have their clocks: after READY and outside DOZE, SLACK and a wake (R274, R425). -/
def State.groupsOn (s : State) : Bool :=
  s.up && (s.power.sleep == .awake || s.power.sleep == .enteringDoze || s.power.sleep == .enteringSlack)

/-- A group follows its target: a decrease at once, an increase by raising its voltage first. A climb that a release scheduled waits
for its time (R284, R288). -/
def State.retarget (s : State) (g : Nat) (stay : Bool := true) : State :=
  let v := s.group g
  if !s.groupsOn || v.climbDue then s else
    let t := s.target g stay
    if t < v.op.toNat then (s.setPoint g t).lockGroup g 2
    else if t = v.op.toNat then s.modGroup g fun v => { v with rising := none, riseWait := false }
    else if v.rising = some (BitVec.ofNat 4 t) then s
    else s.modGroup g fun v => { v with rising := some (BitVec.ofNat 4 t), riseWait := false }

def State.retargetAll (s : State) (stay : Bool := true) : State := (List.range 8).foldl (fun s g => s.retarget g stay) s

-- ## The spillway (R287 to R289)

/-- The request reaches every group: each goes to the 200 MHz clock and its increase is abandoned. -/
def State.engage (s : State) : State :=
  if s.power.spillway then s else
    let s := { s with power := { s.power with spillway := true } }
    let s := (List.range 8).foldl (fun s g =>
      let s := s.modGroup g fun v => { v with spill := true, climbDue := false }
      (s.setPoint g 0).lockGroup g 2) s
    s.meetRace

end Sys2Proof.Machine
end

