-- ==== Sys2Proof/Machine/Run.lean ====
section
/-! DEFINITION. RUN_PROGRAM: its pan set (R75, R219), the program copy (R79, R80), the pans' state at the first issue (R81), and
whether it runs time-locked (R267, R268). -/
namespace Sys2Proof.Machine

-- ## The pan set (R219)

/-- The lowest `n` usable pans, and those of the mask filled up to `n`. -/
def fillSet (usable chosen : List Nat) (n : Nat) : List Nat :=
  let more := (usable.filter fun i => !chosen.contains i).take (n - chosen.length)
  usable.filter fun i => chosen.contains i || more.contains i

/-- The pan set and whether PANS is set. -/
def choosePans (usable : List Nat) (mask pans pmin pmax : Nat) : List Nat × Bool :=
  if mask = 0 then
    let n := min pmax (max pmin (min 64 (max 1 pans)))
    (usable.take n, n != pans || usable.length < n)
  else
    let named := usable.filter fun i => bitAt mask i
    let cut := named.take pmax
    (if cut.length < pmin then fillSet usable cut pmin else cut, cut.length != named.length || cut.length < pmin)

/-- The PANS field is clamped, by its own range and, where the program is there, by R75, with a PAN_MASK as without one (Table 8.5). -/
def pansFieldClamp (pans : Nat) (loaded : Bool) (prog : ProgInfo) : Bool :=
  let n := min 64 (max 1 pans)
  (if loaded then min prog.pansMax (max prog.pansMin n) else n) != pans

/-- A pan can take a new command: idle, not halted, running nothing. -/
def State.panFree (s : State) (p : Nat) : Bool :=
  let v := s.pan p
  v.st == .idle && v.run.isNone && v.holds.isEmpty && !v.bunded

-- ## The start on one pan

/-- The program stands in the pan's instruction memory: copied from the sealed copy unless the pan holds it from the same load. Of
a streamed program the descriptors and blocks 0 and 1 are fetched. -/
def State.loadPan (s : State) (p part h : Nat) (r : Region) : State :=
  let v := s.pan p
  let streamed := 8192 < r.prog.nDesc + r.prog.nInstr
  let have' := v.held == some (part, h, r.loadSeq)
  let s := if have' && !streamed then s
    else if streamed then
      let s := s.write (imemBase p) (s.read (r.base + 64) (16 * r.prog.nDesc))
      fetchBlock (fetchBlock s p r r.prog.nDesc r.prog.nInstr 0) p r r.prog.nDesc r.prog.nInstr 1
    else s.write (imemBase p) (s.read (r.base + 64) (16 * (r.prog.nDesc + r.prog.nInstr)))
  let moved := if streamed then 16 * (r.prog.nDesc + min 4096 r.prog.nInstr)
    else if have' then 0 else 16 * (r.prog.nDesc + r.prog.nInstr)
  s.modPan p fun v =>
    { v with held := some (part, h, r.loadSeq), streamed, nDesc := r.prog.nDesc, nInstr := r.prog.nInstr
             blocks := if streamed then [0, 1] else []
             profMove := if v.freeze then v.profMove else v.profMove + BitVec.ofNat 64 moved }

/-- The pan's state at the first issue (R81). -/
def Pan.begin (v : Pan) (run : PanRun) : Pan :=
  { v with run := some run, st := .run, pc := 0, loops := [], stepOff := 0, gcount := 0, arrival := none, append := none
           gated := false }

/-- ARGS written at an offset of the pan's store, which wraps. -/
def State.putArgs (s : State) (p ofs : Nat) (args : List Byte) : State := s.slotWrite p { acc := false, ofs } 0 args

-- ## Time-locked mode (R267)

/-- Fixed-frequency mode is in force for every pan group of the set at one point, and the set is whole, contiguous groups. -/
def State.lockable (s : State) (part : Nat) (pans : List Nat) : Bool :=
  let gs := (List.range 8).filter fun g => pans.any fun p => p / 8 = g
  let g0 := gs.headD 0
  bitAt (s.cfg.part part).det.toNat 0 && bitAt s.power.cfgNow.toNat 12 && !s.power.spillway && !s.power.tableInvalid
    && pans.length == 8 * gs.length && !gs.isEmpty && gs.getLastD 0 + 1 == g0 + gs.length
    && gs.all fun g => (s.group g).op == (s.group g0).op && !(s.group g).spill

/-- What ends a lock as it begins: a droop stretch in force on a group of the set, and a program that a pan fetched from a vault other
than its own (R269, Table 10.8). `fetched` are the pans that did, from the range given. -/
def State.lockStart (s : State) (c : Cmd) (set fetched : List Nat) (a n : Nat) : State :=
  let s := if set.any fun p => (s.group (p / 8)).stretching then s.lockCause c.seq 3 else s
  if fetched.any fun p => vaultOf a != some (p / 8) || vaultOf (a + n - 1) != some (p / 8) then s.lockCause c.seq 7 else s

-- ## The command

def runProgramAct (c : Cmd) (s : State) : State :=
  let h := c.f 8 1
  let r := s.region false c.part h
  let mask := c.f 16 8
  let usable := s.usable c.part
  let (set, pansClamp) := choosePans usable mask (c.f 9 1) r.prog.pansMin r.prog.pansMax
  let size := 16 * (r.prog.nDesc + (if 8192 < r.prog.nDesc + r.prog.nInstr then min 4096 r.prog.nInstr else r.prog.nInstr))
  let loaded := r.used && r.closed
  let foreign := (maskList mask 64).any fun i => !(s.pool c.part).contains i
  let fenced := (maskList mask 64).any (fun i => (s.pan i).bunded) || s.fencedAt r.base r.len
  let chosen := loaded && !foreign && !usable.isEmpty && !fenced
  let s := s.clampCmd c.seq (if c.f 12 4 % 16 = 0 then 0 else cAlign)
  let s := s.clampCmd c.seq (if pansFieldClamp (c.f 9 1) loaded r.prog || (chosen && pansClamp) then cPans else 0)
  checked [(!loaded, stBadHandle), (foreign, stDenied), (usable.isEmpty, stNotReady),
    (fenced || set.length < r.prog.pansMin, stFenced),
    (s.marked (r.base + 64) size && set.any (fun p => (s.pan p).held != some (c.part, h, r.loadSeq)), stPoison)] (fun s =>
      let fetched := set.filter fun p => 8192 < r.prog.nDesc + r.prog.nInstr || (s.pan p).held != some (c.part, h, r.loadSeq)
      let s := set.foldl (fun s p => s.loadPan p c.part h r) s
      let s := if bitAt (c.f 12 4) 31 then
          set.foldl (fun s p => s.putArgs p (fld (c.f 12 4) 4 17 * 16) (slice c.bytes 24 32)) s
        else s
      let s := set.foldl State.idleRun s
      let s := set.zipIdx.foldl (fun s pr => s.modPan pr.1 fun v =>
        v.begin { seq := c.seq, race := false, slot := 0, part := c.part, rank := pr.2, size := set.length
                  seqBase := c.f 10 2 % 4096 }) s
      let locked := s.lockable c.part set
      let s := if locked then s.freshRefresh set else s
      let s := s.retargetAll
      let s := s.tallyMod c.seq fun e =>
        { e with pans := BitVec.ofNat 8 set.length, panFirst := BitVec.ofNat 8 (set.headD 0) }
      let s := s.modCmd c.seq fun d =>
        { d with pans := set, ended := [], arrived := [], stepBase := (s.part c.part).stepCount, locked, wasLocked := locked }
      if locked then s.lockStart c set fetched (r.base + 64) size else s) c s

/-- The command's checks pass and a pan of its set is not idle: it cannot start yet (R219, R230). -/
def State.runWaits (s : State) (c : Cmd) : Bool :=
  let r := s.region false c.part (c.f 8 1)
  let usable := s.usable c.part
  let mask := c.f 16 8
  let (set, _) := choosePans usable mask (c.f 9 1) r.prog.pansMin r.prog.pansMax
  r.used && r.closed && !((maskList mask 64).any fun i => !usable.contains i) && r.prog.pansMin ≤ set.length
    && !s.fencedAt r.base r.len && set.any fun p => !s.panFree p

def execRunProgram (seq : DWord) (s : State) : Host.Outcome State Fault Refusal :=
  .next (match s.cmd? seq with
    | some c => if s.runWaits c then s else startRow 1 (fun _ => true) runProgramAct seq s
    | none => s)

end Sys2Proof.Machine
end

