-- ==== Sys2Proof/Machine/Shadow.lean ====
section
/-! DEFINITION. The staged registers: where each RWS register lies, its bits, who writes its shadow (R5, R220, R243, R247), and
the clamps that make a commit's values agree (R116, R244, R250, Tables 9.13 and 11.6). -/
namespace Sys2Proof.Machine

/-- The RWS registers of the device. -/
inductive Rws where
  | bind (i : Nat) | allow (s : Nat) | racePan (s : Nat) | raceCfg (s : Nat) | pwrCfg | opCeil
  | pdef (p : Nat) | pans (p : Nat) | queues (p : Nat) | race (p : Nat) | vshare (p v : Nat) | lpr (p n : Nat) | det (p : Nat)
  | pwr (p : Nat) | kvCfg (p : Nat) | kvExt (p n : Nat)
  deriving DecidableEq, Repr

/-- The RWS register of a partition block at an offset, and the offset within it (0 or 4). -/
def rwsOfPart (p o : Nat) : Option (Rws × Nat) :=
  if o = 0x00C then some (.pdef p, 0)
  else if o = 0x010 then some (.pans p, 0)
  else if o = 0x014 then some (.pans p, 4)
  else if o = 0x018 then some (.queues p, 0)
  else if o = 0x01C then some (.race p, 0)
  else if 0x020 ≤ o ∧ o < 0x040 then some (.vshare p ((o - 0x020) / 4), 0)
  else if 0x040 ≤ o ∧ o < 0x060 then some (.lpr p ((o - 0x040) / 8), (o - 0x040) % 8)
  else if o = 0x080 then some (.det p, 0)
  else if o = 0x0C0 then some (.pwr p, 0)
  else if o = 0x200 then some (.kvCfg p, 0)
  else if 0x240 ≤ o ∧ o < 0x2C0 then some (.kvExt p ((o - 0x240) / 8), (o - 0x240) % 8)
  else none

/-- The RWS register whose word lies at a control-region offset, and the offset of that word within it (0 or 4). -/
def rwsAt (off : Nat) : Option (Rws × Nat) :=
  let o := off / 4 * 4
  if 0x400 ≤ o ∧ o < 0x600 then some (.bind ((o - 0x400) / 8), (o - 0x400) % 8)
  else if 0x600 ≤ o ∧ o < 0x640 then
    let s := (o - 0x600) / 16
    match (o - 0x600) % 16 with
    | 0 => some (.allow s, 0)
    | 4 => some (.allow s, 4)
    | 8 => some (.racePan s, 0)
    | _ => none
  else if o = 0x800 then some (.pwrCfg, 0)
  else if o = 0x804 then some (.opCeil, 0)
  else if 0x20000 ≤ o ∧ o < 0x28000 ∧ o % 0x2000 = 0x181C then some (.raceCfg ((o - 0x20000) / 0x2000), 0)
  else if 0x100000 ≤ o ∧ o < 0x110000 then rwsOfPart ((o - 0x100000) / 0x1000) (o % 0x1000)
  else none

/-- The RWS bits of a register. -/
def Rws.mask : Rws → Nat
  | .bind _ => 0x1FFF0FFF030F
  | .allow _ => 2 ^ 64 - 1
  | .racePan _ => 0x3F
  | .raceCfg _ => 0x8000FFFF
  | .pwrCfg => 0x1FFF
  | .opCeil => 0xFFFFFFFF
  | .pdef _ => 0x800FFF00
  | .pans _ => 2 ^ 64 - 1
  | .queues _ => 0x1FFF0FFF
  | .race _ => 0xF
  | .vshare _ _ => 0x3F3F
  | .lpr _ _ => 0x3FFF00003FFF
  | .det _ => 1
  | .pwr _ => 0x103FF
  | .kvCfg _ => 0x1FFFFFF
  | .kvExt _ _ => 0x3FFF00003FFF

/-- Bytes of the register. -/
def Rws.width : Rws → Nat
  | .bind _ | .allow _ | .pans _ | .lpr _ _ | .kvExt _ _ => 8
  | .racePan _ | .raceCfg _ | .pwrCfg | .opCeil | .pdef _ | .queues _ | .race _ | .vshare _ _ | .det _ | .pwr _ | .kvCfg _ => 4

def DevCfg.get (c : DevCfg) : Rws → Nat
  | .bind i => (c.binds.look 0 i).toNat
  | .allow s => (c.raceAllow.look 0 s).toNat
  | .racePan s => (c.racePan.look 0 s).toNat
  | .raceCfg s => (c.raceCfg.look 0 s).toNat
  | .pwrCfg => c.pwrCfg.toNat
  | .opCeil => c.opCeil.toNat
  | .pdef p => (c.part p).pdef.toNat
  | .pans p => (c.part p).pans.toNat
  | .queues p => (c.part p).queues.toNat
  | .race p => (c.part p).race.toNat
  | .vshare p v => ((c.part p).vshare.look 0 v).toNat
  | .lpr p n => ((c.part p).lpr.look 0 n).toNat
  | .det p => (c.part p).det.toNat
  | .pwr p => (c.part p).pwr.toNat
  | .kvCfg p => (c.part p).kvCfg.toNat
  | .kvExt p n => ((c.part p).kvExt.look 0 n).toNat

/-- The register takes the RWS bits of a value; reserved bits stay 0 (R6). -/
def DevCfg.set (c : DevCfg) (r : Rws) (x : Nat) : DevCfg :=
  let v := x &&& r.mask
  let w := BitVec.ofNat 32 v
  let d := BitVec.ofNat 64 v
  match r with
  | .bind i => { c with binds := c.binds.put 0 i d }
  | .allow s => { c with raceAllow := c.raceAllow.put 0 s d }
  | .racePan s => { c with racePan := c.racePan.put 0 s w }
  | .raceCfg s => { c with raceCfg := c.raceCfg.put 0 s w }
  | .pwrCfg => { c with pwrCfg := w }
  | .opCeil => { c with opCeil := w }
  | .pdef p => c.setPart p { c.part p with pdef := w }
  | .pans p => c.setPart p { c.part p with pans := d }
  | .queues p => c.setPart p { c.part p with queues := w }
  | .race p => c.setPart p { c.part p with race := w }
  | .vshare p i => c.setPart p { c.part p with vshare := (c.part p).vshare.put 0 i w }
  | .lpr p i => c.setPart p { c.part p with lpr := (c.part p).lpr.put 0 i d }
  | .det p => c.setPart p { c.part p with det := w }
  | .pwr p => c.setPart p { c.part p with pwr := w }
  | .kvCfg p => c.setPart p { c.part p with kvCfg := w }
  | .kvExt p i => c.setPart p { c.part p with kvExt := (c.part p).kvExt.put 0 i d }

/-- The partition of a partition-scope register (R247). -/
def State.rwsPart (s : State) : Rws → Option Nat
  | .kvCfg p | .kvExt p _ | .pwr p => some p
  | .raceCfg i => s.slotClaim i
  | .bind _ | .allow _ | .racePan _ | .pwrCfg | .opCeil | .pdef _ | .pans _ | .queues _ | .race _ | .vshare _ _ | .lpr _ _
  | .det _ => none

/-- Who writes the shadow: operator initiators, and for partition-scope registers initiators bound to the partition. -/
def State.mayStage (s : State) (ini : Ini) (r : Rws) : Bool :=
  s.isOperator ini || match s.rwsPart r with
    | some p => s.boundTo ini == some p
    | none => false

/-- A write of some bytes of a shadow: bytes not enabled keep what the shadow holds. -/
def DevCfg.merge (c : DevCfg) (r : Rws) (sub : Nat) (value : Nat) (be : Nat → Bool) : DevCfg :=
  let old := leBytes r.width (c.get r)
  let new := (List.range r.width).map fun i =>
    if sub ≤ i && i < sub + 4 && be (i - sub) then BitVec.ofNat 8 (value >>> (8 * (i - sub))) else old.getD i 0
  c.set r (leNat new)

-- ## The clamps of a commit

/-- A configuration with the clamp bits of each partition and of none in particular. -/
structure Clamped where
  cfg : DevCfg
  marks : Tab (BitVec 16) := []
  mask : BitVec 16 := 0
  deriving DecidableEq, Repr

def Clamped.note (k : Clamped) (p : Nat) (m : BitVec 16) : Clamped :=
  { k with marks := k.marks.put 0 p (k.marks.look 0 p ||| m), mask := k.mask ||| m }

/-- A register that must read `x`: a change is a clamp of partition `p`. -/
def Clamped.force (k : Clamped) (p : Nat) (r : Rws) (x : Nat) (m : BitVec 16) : Clamped :=
  if k.cfg.get r = x then k else { k with cfg := k.cfg.set r x }.note p m

def DevCfg.on (c : DevCfg) (p : Nat) : Bool := bitAt (c.part p).pdef.toNat 31
def DevCfg.onParts (c : DevCfg) : List Nat := partsAll.filter c.on

/-- How many bytes from an address on lie in the ranges without a gap; `fuel` bounds the ranges it crosses. -/
def runLength (fuel : Nat) (rs : List (Nat × Nat)) (a : Nat) : Nat :=
  match fuel with
  | 0 => 0
  | fuel + 1 =>
    match rs.find? fun r => r.1 ≤ a && a < r.1 + r.2 with
    | none => 0
    | some r => let k := r.1 + r.2 - a; k + runLength fuel rs (a + k)

/-- The length of the usable part of an LPDDR5X range that starts at its base. Ports of 16 GiB without check bits leave no gap (R27, R114,
R244, R444). -/
def State.lpFit (s : State) (base len : Nat) : Nat :=
  let a := base * granule
  s.cutWithheld a (min (len * granule) (runLength 7 s.lpRanges a)) / granule

/-- R244 and R116 on one partition. -/
def State.clampRanges (s : State) (k : Clamped) (p : Nat) : Clamped :=
  let k := (List.range 8).foldl (fun k v =>
    let w := k.cfg.get (.vshare p v)
    let base := fld w 0 6
    let top := if v = 7 then 47 else 48
    k.force p (.vshare p v) (setFld w 8 6 (min (fld w 8 6) (top - base))) cShare) k
  let k := (List.range 4).foldl (fun k n =>
    let w := k.cfg.get (.lpr p n)
    k.force p (.lpr p n) (setFld w 32 14 (s.lpFit (fld w 0 14) (fld w 32 14))) cShare) k
  let q := k.cfg.get (.queues p)
  k.force p (.queues p) (setFld q 16 13 (min (fld q 16 13) (4096 - fld q 0 12))) cShare

/-- `[a, a + n)` cut to its part below its first element of some range. -/
def cutBelow (a n : Nat) (rs : List (Nat × Nat)) : Nat :=
  rs.foldl (fun n r => if overlaps a n r.1 r.2 then (if r.1 ≤ a then 0 else r.1 - a) else n) n

/-- The pairs of Table 9.13 on a configuration whose ranges are clamped; `ini` is the committing initiator. -/
def clampPairs (k : Clamped) (ini : Option Ini) : Clamped :=
  let lower (k : Clamped) (p : Nat) := (k.cfg.onParts).filter fun q => q < p
  -- pans and race slots that two partitions claim
  let k := k.cfg.onParts.foldl (fun k p =>
    let taken := (lower k p).foldl (fun m q => m ||| k.cfg.get (.pans q)) 0
    let k := k.force p (.pans p) (k.cfg.get (.pans p) - (k.cfg.get (.pans p) &&& taken)) cPair
    let slots := (lower k p).foldl (fun m q => m ||| k.cfg.get (.race q)) 0
    let k := k.force p (.race p) (k.cfg.get (.race p) - (k.cfg.get (.race p) &&& slots)) cPair
    -- granules and queues that two partitions hold
    let k := (List.range 8).foldl (fun k v =>
      let w := k.cfg.get (.vshare p v)
      let rs := (lower k p).map fun q => let x := k.cfg.get (.vshare q v); (fld x 0 6, fld x 8 6)
      k.force p (.vshare p v) (setFld w 8 6 (cutBelow (fld w 0 6) (fld w 8 6) rs)) cShare) k
    let k := (List.range 4).foldl (fun k n =>
      let w := k.cfg.get (.lpr p n)
      let rs := ((lower k p).flatMap fun q => (List.range 4).map fun m => (q, m)).map fun qm =>
        let x := k.cfg.get (.lpr qm.1 qm.2)
        (fld x 0 14, fld x 32 14)
      k.force p (.lpr p n) (setFld w 32 14 (cutBelow (fld w 0 14) (fld w 32 14) rs)) cShare) k
    let q := k.cfg.get (.queues p)
    let rs := (lower k p).map fun r => let x := k.cfg.get (.queues r); (fld x 0 12, fld x 16 13)
    k.force p (.queues p) (setFld q 16 13 (cutBelow (fld q 0 12) (fld q 16 13) rs)) cShare) k
  -- a higher slot that names a lower slot's pan is unassigned; race pans leave every pool
  let k := (List.range 4).foldl (fun k i =>
    let x := k.cfg.get (.racePan i)
    if 1 ≤ x && x ≤ 5 && (List.range i).any (fun j => k.cfg.get (.racePan j) == x) then
      let owner := (k.cfg.onParts.find? fun p => bitAt (k.cfg.get (.race p)) i).getD 16
      k.force owner (.racePan i) 0 cPair
    else k) k
  let racePans := (List.range 4).filterMap fun i =>
    let x := k.cfg.get (.racePan i)
    if 1 ≤ x && x ≤ 5 && k.cfg.onParts.any (fun p => bitAt (k.cfg.get (.race p)) i) then some x else none
  let k := k.cfg.onParts.foldl (fun k p =>
    k.force p (.pans p) (k.cfg.get (.pans p) - (k.cfg.get (.pans p) &&& listMask racePans.eraseDups)) cPair) k
  -- bindings: the partition named must be in service, and the queues its own
  let k := (List.range 64).foldl (fun k i =>
    let b := k.cfg.get (.bind i)
    let p := fld b 0 4
    if !bitAt b 8 then k
    else if !k.cfg.on p then k.force p (.bind i) (setFld b 8 1 0) cPair
    else
      let q := k.cfg.get (.queues p)
      let lo := max (fld q 0 12) (fld b 16 12)
      let hi := min (fld q 0 12 + fld q 16 13) (fld b 16 12 + fld b 32 13)
      if fld b 32 13 = 0 then k
      else if hi ≤ lo then k.force p (.bind i) (setFld b 32 13 0) cPair
      else k.force p (.bind i) (setFld (setFld b 16 12 lo) 32 13 (hi - lo)) cPair) k
  -- an operator initiator must remain
  match ini with
  | none => k
  | some i =>
    if (List.range 64).any (fun j => bitAt (k.cfg.get (.bind j)) 9) || 64 ≤ i.toNat then k
    else k.force 16 (.bind i.toNat) (setFld (k.cfg.get (.bind i.toNat)) 9 1 1) cPair

/-- The power fields' clamps (Tables 9.6, 11.6, R295). -/
def clampPower (k : Clamped) : Clamped :=
  let c := k.cfg.get .pwrCfg
  let c' := setFld (setFld c 0 8 (min 240 (max 32 (fld c 0 8)))) 8 4 (max 1 (fld c 8 4))
  let k := k.force 16 .pwrCfg c' cPower
  let top := if bitAt c' 12 then 7 else 8
  let o := k.cfg.get .opCeil
  let o' := (List.range 8).foldl (fun o g => setFld o (4 * g) 4 (min top (fld o (4 * g) 4))) o
  let k := k.force 16 .opCeil o' cPower
  k.cfg.onParts.foldl (fun k p =>
    let d := k.cfg.get (.pdef p)
    k.force p (.pdef p) (setFld d 8 8 (max 1 (fld d 8 8))) cPower) k

/-- Every clamp of a device-scope commit, in the order of R249. -/
def State.clampAll (s : State) (c : DevCfg) (ini : Option Ini) : Clamped :=
  let k : Clamped := { cfg := c }
  clampPower (clampPairs (partsAll.foldl s.clampRanges k) ini)

end Sys2Proof.Machine
end

