-- ==== Sys2Proof/Machine/Race.lean ====
section
/-! DEFINITION. The race slots: arming and disarming (R187, R190, R192), requests (R193 to R196), the race window's registers and
writes (R177 to R186). -/
namespace Sys2Proof.Machine

-- ## Arming and disarming

def State.setRaceCfg (s : State) (i : Nat) (f : Nat → Nat) : State :=
  { s with cfg := s.cfg.set (.raceCfg i) (f (s.cfg.get (.raceCfg i))) }
def State.setArm (s : State) (i : Nat) (on : Bool) : State := s.setRaceCfg i fun w => setFld w 31 1 (b2n on)

/-- The status a refused arming gives its COMMIT (R187). -/
def armStatus (err : Nat) : Byte := if err ≤ 2 then stBadHandle else stDenied

/-- The arming checks with the committed handles: refused with ARM_ERR, or ARMING with its count S. -/
def State.startArm (s : State) (i : Nat) : Option Byte × State :=
  let w := s.cfg.get (.raceCfg i)
  let s := s.setArm i false
  match s.armCheck i (s.slotClaim i) (fld w 0 8) (fld w 8 8) with
  | .error e => (some (armStatus e), s.modSlot i fun v =>
      { v with armErr := BitVec.ofNat 4 e, st := if v.st = .failed then .failed else .disarmed, rearm := false })
  | .ok n => (none, s.modSlot i fun v =>
      { v with st := .arming, staticCount := n, dropInput := 0, dropBusy := 0, dropDenied := 0, dropUnarmed := 0, rearm := false })

/-- The slot leaves service: no request is accepted from now on, and its pan waits for the clear engine once a request in progress
has completed (R192). -/
def State.startDisarm (s : State) (i pan : Nat) (rearm : Bool) : State :=
  let v := s.slot i
  let s := s.setArm i false
  let s := s.setSlot i { v with st := if v.st = .busy then .busy else if v.st = .failed then .failed else .disarmed
                                disarm := true, rearm, clearPan := if v.disarm then v.clearPan else pan }
  let s := s.retarget 0
  if v.st = .busy || (s.pan pan).bunded then s else s.modPan pan fun x => { x with st := .clearing }

/-- A pan's three memories are zeroed and it holds no program (R137, R192). -/
def State.wipePan (s : State) (p : Nat) : State :=
  if (s.pan p).bunded then s else
    let s := ((s.zero (storeBase p) 0x200000).zero (accBase p) 0x40000).zero (imemBase p) 0x20000
    s.modPan p fun v => { v with held := none, streamed := false, nDesc := 0, nInstr := 0, pc := 0, loops := [], blocks := []
                                 st := if v.st = .clearing then .idle else v.st }

/-- A slot's arming or disarming for a commit is over, with a status where it was refused. -/
def State.slotDone (s : State) (i : Nat) (status : Option Byte) : State :=
  let one (m : Commit) : Commit :=
    if m.slots.contains i then
      { m with slots := m.slots.filter fun j => j != i, status := if m.status = 0 then status.getD 0 else m.status }
    else m
  State.finishCommits { s with commits := s.commits.map one }

/-- The clear of a disarmed slot has ended: its pan is zeroed and verified, a pan that failed twice is bunded, and both OUT buffers and IN
are zero; an arming with new handles may follow (R139, R192). The clear engine does no work while the core that drives it is halted
(R462). -/
def raceDisarm (i : Nat) (c : ClearVerdict) (s : State) : State :=
  let v := s.slot i
  if !v.disarm || v.st == .busy || s.edge.stopped || s.saltern.halted || s.clearWaits [] [v.clearPan] then s else
    let pan := v.clearPan
    let (_, s) := s.verify c [] (if (s.pan pan).bunded then [] else [pan]) { part := s.slotClaim i }
    let s := s.wipePan pan
    let s := s.modSlot i fun v =>
      { v with disarm := false, inBuf := [], outFront := [], outBack := [], st := s.outState i pan }
    if v.rearm then
      let (st, s) := s.startArm i
      if st.isSome then s.slotDone i st else s
    else s.slotDone i none

def execRaceDisarm (d : DisarmReport) (s : State) : Host.Outcome State Fault Refusal :=
  .next (raceDisarm d.slot.toNat d.verdict s)

/-- The arming copy is over: weights below W, the program in instruction memory, and the slot ARMED (R190). A marked or bunded
source leaves it DISARMED, and the COMMIT carries POISON or FENCED (R436, R442; DEDUCED [log 25]). -/
def raceArmDone (i : Nat) (s : State) : State :=
  let v := s.slot i
  if s.edge.stopped then s
  else if v.st != .arming then (if s.commits.any fun m => m.slots.contains i && !v.disarm then s.slotDone i (some stDenied) else s)
  else
    match s.slotOwner i with
    | none => s
    | some part =>
      let w := s.cfg.get (.raceCfg i)
      let pan := s.cfg.slotPan i
      let pr := s.region false part (fld w 0 8)
      let wr := s.region true part (fld w 8 8)
      let n := 16 * (pr.prog.nDesc + pr.prog.nInstr)
      let bad := if s.fencedAt wr.base wr.weightBytes || s.fencedAt pr.base (64 + n) then some stFenced
        else if s.marked wr.base wr.weightBytes || s.marked (pr.base + 64) n then some stPoison else none
      let s := (s.racePath 0 ((vaultOf wr.base).getD 0)).racePath 0 ((vaultOf pr.base).getD 0)
      match bad with
      | some st => (s.modSlot i fun v => { v with st := .disarmed }).slotDone i (some st)
      | none =>
        let s := s.write (storeBase pan) (s.read wr.base wr.weightBytes)
        let s := s.write (imemBase pan) (s.read (pr.base + 64) n)
        let s := s.modPan pan fun x => { x with held := some (part, fld w 0 8, pr.loadSeq), streamed := false, gated := false
                                                nDesc := pr.prog.nDesc, nInstr := pr.prog.nInstr, blocks := [] }
        let s := (s.setArm i true).modSlot i fun v => { v with st := .armed }
        (s.retarget 0).slotDone i none

def execRaceArmDone (slot : BitVec 2) (s : State) : Host.Outcome State Fault Refusal := .next (raceArmDone slot.toNat s)

-- ## Requests

/-- The initiator's bit of RACE_ALLOW. -/
def State.raceAllowed (s : State) (i : Nat) (ini : Ini) : Bool :=
  decide (ini.toNat < 64) && bitAt (s.cfg.get (.allow i)) ini.toNat

/-- Who may read the whole window (R177). -/
def State.raceReader (s : State) (i : Nat) (ini : Ini) : Bool :=
  s.isOperator ini || s.raceAllowed i ini || (match s.slotOwner i with | some p => s.boundTo ini == some p | none => false)

/-- A request is accepted: BUSY, the back buffer zeroed, and the race pan about to issue (R178, R193). -/
def State.raceStart (s : State) (i : Nat) (tag : BitVec 16) : State :=
  let pan := s.cfg.slotPan i
  let s := s.idleRun pan
  let met := s.causesNow ||| (if (s.pan pan).holds.isEmpty then 0 else 4)
  let s := s.modSlot i fun v => { v with st := .busy, newTag := tag, outBack := [], ended := false, met }
  s.modPan pan fun v => v.begin { seq := 0, race := true, slot := i, part := (s.slotOwner i).getD 0, rank := 0, size := 1, seqBase := 0 }

/-- A doorbell write: the response status, and its effect (R184, R193). -/
def raceDoorbell (i : Nat) (ini : Ini) (value : DWord) (s : State) : BitVec 4 × State :=
  let v := s.slot i
  if !s.raceAllowed i ini then (3, s.modSlot i fun v => { v with dropDenied := satAdd v.dropDenied 1 })
  else if v.st = .busy then (0, s.modSlot i fun v => { v with dropBusy := satAdd v.dropBusy 1 })
  else if v.st = .armed && (s.slotOwner i).isSome then (0, s.raceStart i (BitVec.ofNat 16 value.toNat))
  else (0, s.modSlot i fun v => { v with dropUnarmed := satAdd v.dropUnarmed 1 })

/-- A write of IN bytes (offset, byte): the response status, and its effect (R179, R184). -/
def raceIn (i : Nat) (ini : Ini) (bs : List (Nat × Byte)) (s : State) : BitVec 4 × State :=
  let v := s.slot i
  if !s.raceAllowed i ini then (3, s.modSlot i fun v => { v with dropDenied := satAdd v.dropDenied 1 })
  else if v.st = .busy then (3, s.modSlot i fun v => { v with dropInput := satAdd v.dropInput 1 })
  else (0, s.modSlot i fun v =>
    { v with inBuf := bs.foldl (fun m b => if b.1 < 0x1000 then Tab.put m 0 b.1 b.2 else m) v.inBuf })

/-- Step 8 of Table 7.9: the buffers swap, RACE_SEQ, RACE_STATUS and RACE_TIME are written, and the slot is ARMED again, or leaves
service where a disarm waits (R192, R194, R195). -/
def raceComplete (i late fabric : Nat) (s : State) : State :=
  let v := s.slot i
  if v.st != .busy || !v.ended || s.edge.stopped then s else
    let s := s.setSlot i { v.finish 0 (v.staticCount + 18 + min late 2) fabric with
      st := if v.disarm then .disarmed else .armed
      outFront := v.outBack }
    let s := s.retarget 0
    if v.disarm && !(s.pan v.clearPan).bunded then s.modPan v.clearPan fun x => { x with st := .clearing } else s

def execRaceComplete (slot : BitVec 2) (late : BitVec 2) (fabric : Word) (s : State) : Host.Outcome State Fault Refusal :=
  .next (raceComplete slot.toNat late.toNat fabric.toNat s)

/-- A request in progress ends with ABORTED: its owner is torn down (R197). -/
def State.raceAbort (s : State) (i : Nat) : State :=
  if (s.slot i).st = .busy then (s.modPan (s.reqPan i) Pan.leave).raceCut i .armed 7 else s

-- ## Registers (Tables 7.2 to 7.7)

/-- RACE_STATUS.STATE. -/
def State.raceState (s : State) (i : Nat) : Nat :=
  if (s.slotOwner i).isNone then 5 else
    match (s.slot i).st with | .disarmed => 0 | .arming => 1 | .armed => 2 | .busy => 3 | .failed => 4

def State.raceStatus (s : State) (i : Nat) : Nat :=
  let v := s.slot i
  b2n v.lateEver * 0x10000 + v.armErr.toNat * 0x1000 + v.causes.toNat * 0x200 + b2n v.late * 0x100 + v.result.toNat * 0x10
    + s.raceState i

/-- A 32-bit word of the race window's registers and buffers, whoever reads. -/
def State.raceWord (s : State) (i off : Nat) : Nat :=
  let v := s.slot i
  let bytes (l : List Host.Cell) (a : Nat) := leNat ((List.range 4).map fun k => Tab.look l 0 (a + k))
  if off < 0x1000 then bytes v.inBuf off
  else if off < 0x1100 then bytes v.outFront (off - 0x1000)
  else match off with
    | 0x1808 => v.count.toNat % 2 ^ 32
    | 0x180C => v.count.toNat / 2 ^ 32 + v.tag.toNat * 0x10000
    | 0x1810 => s.raceStatus i
    | 0x1814 => v.time.toNat
    | 0x1818 => v.dropInput.toNat * 2 ^ 24 + v.dropBusy.toNat * 2 ^ 16 + v.dropDenied.toNat * 2 ^ 8 + v.dropUnarmed.toNat
    | 0x181C => s.cfg.get (.raceCfg i)
    | 0x1820 => match s.slotOwner i with
      | some p => 0x1000 + p * 0x100 + s.cfg.slotPan i
      | none => s.cfg.slotPan i
    | 0x1828 => s.cfg.get (.allow i) % 2 ^ 32
    | 0x182C => s.cfg.get (.allow i) / 2 ^ 32
    | _ => 0

end Sys2Proof.Machine
end

