-- ==== Sys2Proof/Machine/Commit.lean ====
section
/-! DEFINITION. COMMIT and the direct commits, epochs and teardown (R207, R209, R247 to R252, R256, Tables 9.13 and 9.14), and the
page pool's change (R152). -/
namespace Sys2Proof.Machine

-- ## Contexts (R207)

/-- The nearest power of two from 8 to 4,096, the smaller on a tie. -/
def nearDepth (n : Nat) : Nat :=
  ([8, 16, 32, 64, 128, 256, 512, 1024, 2048].find? fun k => n ≤ k + k / 2).getD 4096

/-- The fields after the clamps of Table 8.3. A disabled context keeps DEPTH 0 as it is, and a context whose fields are all 0 is a reset
context and stays one (DEDUCED [log 74]). -/
def CtxCfg.clamped (c : CtxCfg) : CtxCfg :=
  let low (x : DWord) : DWord := BitVec.ofNat 64 (x.toNat % 2 ^ 40 / 4096 * 4096)
  { ringBase := low c.ringBase, cplBase := low c.cplBase, enable := c.enable
    depth := if c.depth = 0 && !c.enable then 0 else BitVec.ofNat 16 (nearDepth c.depth.toNat)
    weight := if c == {} then 0 else BitVec.ofNat 8 (min 8 (max 1 c.weight.toNat)) }

/-- Both rings lie within the partition's memory and off sealed, key-value-held and reserved ranges. -/
def State.ringsFit (s : State) (p : Nat) (c : CtxCfg) : Bool :=
  let ok (a n : Nat) := within (s.memRanges p) a n && !s.hitsSealed a n && (s.kvHit a n).isNone
    && !overlaps a n reserveBase granule
  c.depth == 0 || (ok c.ringBase.toNat (c.depth.toNat * 64) && ok c.cplBase.toNat (c.depth.toNat * 16))

/-- What a partition's fields change to, with the clamps, the status and the slots still to arm or disarm. -/
structure Applied where
  s : State
  mask : BitVec 16 := 0
  status : Byte := 0
  slots : List Nat := []
  deriving DecidableEq, Repr

def Applied.note (a : Applied) (m : BitVec 16) (st : Byte := 0) : Applied :=
  { a with mask := a.mask ||| m, status := if a.status = 0 then st else a.status }

/-- One context takes its committed values, or keeps the old ones where its rings are refused. -/
def applyCtx (p : Nat) (target : DevCfg) (a : Applied) (q : Nat) : Applied :=
  let want := target.ctx q
  let now := a.s.cfg.ctx q
  if want == now then a else
    let c := want.clamped
    let a := a.note (if c == want then 0 else cContext)
    if !a.s.ringsFit p c then a.note 0 stDenied
    else { a with s := ({ a.s with cfg := a.s.cfg.setCtx q c }).settleCtx q }

/-- Queues of a partition whose committed or wanted context is not a reset one. -/
def ctxQueues (c : PartCfg) (a b : DevCfg) : List Nat :=
  ((a.ctxs ++ b.ctxs).map (·.1)).eraseDups.filter fun q => c.qbase ≤ q && q < c.qbase + c.qcount

-- ## The page pool (R152)

/-- The pool's fields after its clamps. -/
def State.clampPool (s : State) (p : Nat) (cfg : Word) (ext : Tab DWord) : Word × Tab DWord :=
  let ne := fld cfg.toNat 4 4 + 1
  let own := s.memRanges p
  let kept := (List.range ne).foldl (fun (acc : List (Nat × Nat × Nat)) e =>
    let w := (ext.look 0 e).toNat
    let a := fld w 0 14 * granule
    let n := fld w 32 14 * granule
    let bad := !within own a n || s.hitsSealed a n || overlaps a n reserveBase granule
      || (List.range ne).any fun d => d != e && overlaps a n (fld (ext.look 0 d).toNat 0 14 * granule) (fld (ext.look 0 d).toNat 32 14 * granule)
    acc ++ [(e, a, if bad then 0 else n)]) []
  let ext' := kept.foldl (fun t x =>
    let w := (ext.look 0 x.1).toNat
    t.put 0 x.1 (BitVec.ofNat 64 (setFld w 32 14 (x.2.2 / granule)))) ext
  let slot := (fld cfg.toNat 0 4 + 1) * 4096
  let pages := kept.foldl (fun m x => min m (x.2.2 / slot * ne + x.1)) (min 65536 (fld cfg.toNat 8 17))
  (BitVec.ofNat 32 (setFld cfg.toNat 8 17 pages), ext')

/-- The pool takes effect at the partition's boundary: its clamps are made and the free list holds its pages, ascending. `enters`: the
partition was out of service, so a pool it was committed with takes effect now too (R152, R153). -/
def applyPool (enters : Bool) (p : Nat) (target : DevCfg) (a : Applied) : Applied :=
  let want := target.part p
  let now := a.s.cfg.part p
  if !enters && want.kvCfg == now.kvCfg && want.kvExt == now.kvExt then a
  else if a.s.seqs.any fun q => q.2.bound && q.2.part == p then a.note cPool
  else
    let (cfg, ext) := a.s.clampPool p want.kvCfg want.kvExt
    let s := { a.s with cfg := a.s.cfg.setPart p { now with kvCfg := cfg, kvExt := ext } }
    let s := s.fillPool p (fld cfg.toNat 8 17)
    ({ a with s }).note (if cfg == want.kvCfg && ext == want.kvExt then 0 else cPool)

-- ## RACE_CFG (R187, R192) and the power fields

/-- RACE_CFG.ARM as committed: set, or being brought about. -/
def State.armOn (s : State) (i : Nat) : Bool :=
  bitAt (s.cfg.get (.raceCfg i)) 31 || (s.slot i).st == .arming || ((s.slot i).disarm && (s.slot i).rearm)

def applySlot (target : DevCfg) (a : Applied) (i : Nat) : Applied :=
  let want := target.get (.raceCfg i)
  let now := a.s.cfg.get (.raceCfg i)
  let v := a.s.slot i
  let armedNow := a.s.armOn i
  let same := want % 0x10000 == now % 0x10000
  let s := a.s.setRaceCfg i fun w => setFld w 0 16 want
  if v.disarm then
    -- a disarm that waits for its request or its clear: the arming after it is asked for or taken back
    if same && bitAt want 31 == v.rearm then { a with s }
    else { a with s := s.modSlot i fun v => { v with rearm := bitAt want 31 }, slots := i :: a.slots }
  else if !armedNow && bitAt want 31 then
    let (st, s) := s.startArm i
    match st with
    | some e => ({ a with s }).note 0 e
    | none => { a with s, slots := i :: a.slots }
  else if armedNow && (!bitAt want 31 || !same) then
    { a with s := s.startDisarm i (s.cfg.slotPan i) (bitAt want 31), slots := i :: a.slots }
  else { a with s }

/-- The slots that a partition owns (Table 9.1). -/
def State.slotsOf (s : State) (p : Nat) : List Nat := (List.range 4).filter fun i => s.slotClaim i == some p

/-- The partition-scope fields in the order of R249; `enters`: the partition was out of service. -/
def State.applyPart (s : State) (enters : Bool) (p : Nat) (target : DevCfg) : Applied :=
  let a : Applied := { s }
  let a := (ctxQueues (s.cfg.part p) s.cfg target).foldl (applyCtx p target) a
  let a := applyPool enters p target a
  let a := (s.slotsOf p).foldl (applySlot target) a
  let s := { a.s with cfg := a.s.cfg.set (.pwr p) (target.get (.pwr p)) }
  { a with s := s.retargetAll }

/-- Committed fields of a partition differ between two configurations. -/
def partChanged (s : State) (p : Nat) (a b : DevCfg) : Bool :=
  a.part p != b.part p || (ctxQueues (a.part p) a b ++ ctxQueues (b.part p) a b).any (fun q => a.ctx q != b.ctx q)
    || (s.slotsOf p).any fun i => a.get (.raceCfg i) != b.get (.raceCfg i)

/-- The boundary is counted and recorded (R248, Table 9.5). -/
def State.epochEvent (s : State) (p : Nat) (ini : Ini) (mask : BitVec 16) (changed : Bool) : State :=
  let s := if changed then s.modPart p fun v => { v with epoch := v.epoch + 1 } else s
  s.event ini evEpoch (BitVec.ofNat 8 p) 0 0 mask

/-- Who the EPOCH event of a commit names. -/
def Commit.by (m : Commit) : Ini := if m.seq.isSome then 0x80 else m.ini

/-- The first element that equals `old` becomes `new`. -/
def replaceFirst (old new : Commit) : List Commit → List Commit
  | [] => []
  | k :: ks => if k = old then new :: ks else k :: replaceFirst old new ks

/-- A commit's record, as left by a partition's boundary. Of two equal records in waiting the earlier one is this commit's. -/
def State.noteCommit (s : State) (old new : Commit) (mask : BitVec 16) : State :=
  let s := { s with commits := replaceFirst old new s.commits }
  match old.seq with
  | some q => s.clampCmd q mask
  | none => s

-- ## Teardown (R251, Table 9.14)

/-- A pan, granule, queue or race slot of a partition is not among its new holdings (R251). -/
def lost (old new : PartCfg) : Bool :=
  (old.pans &&& ~~~new.pans) != 0
    || old.vaultRanges.any (fun r => !within new.vaultRanges r.1 r.2)
    || old.lpRanges.any (fun r => !within new.lpRanges r.1 r.2)
    || (old.qcount != 0 && !(new.qbase ≤ old.qbase && old.qbase + old.qcount ≤ new.qbase + new.qcount))
    || (old.race &&& ~~~new.race) != 0

/-- The pans that a configuration gives a partition: its pool's, and those of the slots it claims. -/
def DevCfg.pansOf (c : DevCfg) (p : Nat) : List Nat :=
  maskList (c.part p).pans.toNat 64 ++ ((List.range 4).filter fun i =>
    bitAt (c.part p).race.toNat i && 1 ≤ c.slotPan i && c.slotPan i ≤ 5).map c.slotPan

/-- What a partition is to hold meets what another one still holds. -/
def meetsOwn (a b : PartCfg) (pansA pansB : List Nat) : Bool :=
  pansA.any (fun p => pansB.contains p)
    || a.memRanges.any (fun x => b.memRanges.any fun y => overlaps x.1 x.2 y.1 y.2)
    || overlaps a.qbase a.qcount b.qbase b.qcount
    || (a.race &&& b.race) != 0

/-- Every pan of a partition: its pool's bits and the pans of its assigned slots. -/
def State.allPans (s : State) (p : Nat) : List Nat :=
  let race := (List.range 4).filter fun i => s.slotHolder i == some p
  (pansAll.filter fun i => bitAt (s.cfg.part p).pans.toNat i || race.any fun j => s.cfg.slotPan j == i)

/-- The clear at the head of the list of partition clears shows its pans CLEARING (R137). -/
def State.kickClear (s : State) : State :=
  match s.memSys.clears.find? fun j => j.whole with
  | none => s
  | some j => (maskList j.pans.toNat 64).foldl (fun s p => s.modPan p fun v => if v.bunded then v else { v with st := .clearing }) s

/-- Both queues of every channel with an external side bound to the partition are emptied (R324). -/
def State.flushChans (s : State) (p : Nat) : State :=
  let bound (i : Nat) : Bool := decide (i < 64) && s.boundRaw (BitVec.ofNat 8 i) == some p
  (List.range 32).foldl (fun s c =>
    let b := (s.chan c).bind.toNat
    if bitAt b 31 && (bound (fld b 8 8) || bound (fld b 0 8)) then s.modChan c fun v => { v with aToB := [], bToA := [], discard := 0 }
    else s) s

/-- The commit binds an operator initiator to a partition, or clears its OPERATOR bit: its keys of no partition go (R307). -/
def State.dropOperatorKeys (s : State) (old new : DevCfg) : State :=
  let moved := (List.range 64).filter fun i =>
    let a := old.get (.bind i)
    let b := new.get (.bind i)
    bitAt a 9 && ((!bitAt a 8 && bitAt b 8) || !bitAt b 9)
  (s.zeroiseWhere fun k => k.type != 0 && k.world == 0x11 && moved.any fun i => bitAt k.initMask i).settleEngines

/-- Steps 1 to 3, and the clear handed to the clear engine. -/
def State.tearDown (s : State) (p : Nat) : State :=
  let pans := s.allPans p
  let slots := (List.range 4).filter fun i => s.slotHolder i == some p
  let s := s.modPart p fun v => { v with teardown := true }
  let s := pans.foldl (fun s i => s.modPan i fun v => { v with holds := [] }) s
  let s := (s.cmds.filter fun c => c.part == p).foldl (fun s c => s.completeOne c stAborted) s
  let s := { s with memSys := { s.memSys with clears := s.memSys.clears.filter fun j => j.whole || j.part != p } }
  let s := slots.foldl (fun s i => (s.raceAbort i).startDisarm i (s.cfg.slotPan i) false) s
  let s := (s.seqs.filter fun q => q.2.bound && q.2.part == p).foldl (fun s q => s.releaseSeq q.1) s
  let s := (s.zeroiseWhere fun k => k.type != 0 && k.world == p).settleEngines.flushChans p
  let s := s.modPart p fun v => { v with progs := [], wgts := [], freeList := [] }
  let job : ClearJob := { whole := true, part := p, seq := 0, ranges := (s.cfg.part p).memRanges
                          pans := BitVec.ofNat 64 (listMask pans), slots }
  let s := { s with memSys := { s.memSys with clears := s.memSys.clears ++ [job] } }
  s.settle (s.cmds.length + 1)

/-- A context's fields that a commit changes; the rest are those of a reset context. -/
def diffCtx (want now : CtxCfg) : CtxCfg :=
  { ringBase := if want.ringBase = now.ringBase then 0 else want.ringBase
    cplBase := if want.cplBase = now.cplBase then 0 else want.cplBase
    depth := if want.depth = now.depth then 0 else want.depth
    weight := if want.weight = now.weight then 0 else want.weight
    enable := if want.enable = now.enable then false else want.enable }

/-- The queues of a partition that any record names, in turn. -/
def State.mapQueues (s : State) (p : Nat) (f : State → Nat → State) : State :=
  let c := s.cfg.part p
  (((s.ctxs.map (·.1)) ++ (s.cfg.ctxs.map (·.1)) ++ (s.shadow.ctxs.map (·.1))).eraseDups.filter fun q =>
    c.qbase ≤ q && q < c.qbase + c.qcount).foldl f s

/-- Step 5: what resets when the clear has ended, of the pans, slots and queues that the partition held before the commit. Context shadows
go on holding what was last written to them (R248). -/
def State.resetPart (s : State) (p : Nat) (pans slots : List Nat) : State :=
  let s := s.mapQueues p fun s q => { s with ctxs := s.ctxs.put {} q {}, cfg := s.cfg.setCtx q {} }
  let s := pans.foldl (fun s i => s.modPan i fun v =>
    { v with arith := 0, profIssue := 0, profCell := 0, profVec := 0, profMove := 0, profGated := 0, profBubble := 0 }) s
  let s := slots.foldl (fun s i => s.modSlot i fun v =>
    { v with st := s.outState i v.clearPan, disarm := false, rearm := false, inBuf := [], outFront := [], outBack := [] }) s
  let s := s.setPart p { epoch := (s.part p).epoch, teardown := true, lastCleared := (s.part p).lastCleared }
  let noKv (c : PartCfg) : PartCfg := { c with kvCfg := 0, kvExt := [] }
  let s := { s with cfg := s.cfg.setPart p (noKv (s.cfg.part p)), shadow := s.shadow.setPart p (noKv (s.shadow.part p)) }
  s.resetMr p

/-- Step 6's end: the partition takes its new definition and, in service, the contexts that the commit brings. -/
def State.enterPart (s : State) (m : Commit) (p : Nat) : State :=
  let t := m.target.part p
  let s := s.modPart p fun v => { v with teardown := false }
  let s := { s with cfg := s.cfg.setPart p { t with kvCfg := 0, kvExt := [] } }
  let a : Applied := { s }
  let a := if m.target.on p then (ctxQueues t s.cfg m.target).foldl (applyCtx p m.target) a else a
  let a := (s.slotsOf p).foldl (applySlot m.target) a
  let mask := m.clamps.look 0 p ||| a.mask
  let s := a.s.retargetAll.epochEvent p m.by mask true
  let new := { m with waiting := m.waiting.filter fun i => i != p, tearing := m.tearing.filter fun i => i != p
                      slots := m.slots ++ a.slots, status := if m.status = 0 then a.status else m.status }
  s.noteCommit m new mask

-- ## Device-scope commits

/-- The pans that a partition in teardown held before the commit: the clear engine has them. -/
def State.heldPans (s : State) (r : Nat) : List Nat :=
  match s.memSys.clears.find? fun j => j.whole && j.part == r with
  | some j => maskList j.pans.toNat 64
  | none => []

/-- What `p` is to hold is still another partition's of the commit, or is the pan of a slot that has not left service yet (R242, R251). -/
def State.stillHeld (s : State) (m : Commit) (p : Nat) : Bool :=
  let want := m.target.pansOf p
  m.tearing.any (fun r => r != p && meetsOwn (m.target.part p) (s.cfg.part r) want (s.heldPans r))
    || (List.range 4).any fun i => (s.slot i).disarm && want.contains (s.slot i).clearPan

/-- A partition that is out of service before and after the commit takes its fields, the clamps of its pool made; what the clamps did. -/
def State.commitIdle (s : State) (target : DevCfg) (p : Nat) : BitVec 16 × State :=
  let t := target.part p
  let s := { s with cfg := s.cfg.setPart p t }
  let (cfg, ext) := s.clampPool p t.kvCfg t.kvExt
  (if cfg == t.kvCfg && ext == t.kvExt then 0 else cPool,
   { s with cfg := s.cfg.setPart p { t with kvCfg := cfg, kvExt := ext } })

/-- The queues that no partition in service is to hold, nor a partition in teardown held. -/
def looseQueues (old target : DevCfg) (torn : List Nat) : List Nat :=
  ((old.ctxs ++ target.ctxs).map (·.1)).eraseDups.filter fun q =>
    let holds (c : PartCfg) : Bool := c.qbase ≤ q && q < c.qbase + c.qcount
    !(target.onParts.any fun p => holds (target.part p)) && !(torn.any fun p => holds (old.part p))

/-- The slots that no partition in service is to claim, nor a partition in teardown held. -/
def looseSlots (old target : DevCfg) (torn : List Nat) : List Nat :=
  (List.range 4).filter fun i =>
    !(target.onParts.any fun p => bitAt (target.part p).race.toNat i) && !(torn.any fun p => bitAt (old.part p).race.toNat i)

/-- The commit starts: shadows copied, clamps made, global fields in force, teardowns begun, and what belongs to no partition in service
committed (R247 to R250). A slot whose pan changes leaves service and arrives DISARMED; an ARM bit that the commit does not change does
not arm it again. -/
def State.beginDevice (s : State) (m : Commit) : State :=
  let k := s.clampAll s.shadow (some m.ini)
  let old := s.cfg
  let torn := partsAll.filter fun p => s.inService p && (!k.cfg.on p || lost (old.part p) (k.cfg.part p))
  let tornQueues := torn.flatMap fun p => ctxQueues (old.part p) old k.cfg
  let target := tornQueues.foldl (fun c q => c.setCtx q (diffCtx (k.cfg.ctx q) (old.ctx q))) k.cfg
  let gone (i : Nat) : Bool := torn.any fun p => bitAt (old.part p).race.toNat i
  let moved := (List.range 4).filter fun i => old.slotPan i != target.slotPan i
  let target := ((List.range 4).filter fun i => (moved.contains i || gone i) && s.armOn i).foldl
    (fun c i => c.set (.raceCfg i) (setFld (c.get (.raceCfg i)) 31 1 0)) target
  let waiting := partsAll.filter fun p =>
    !torn.contains p && (target.on p || old.on p) && partChanged s p old target
  let idle := partsAll.filter fun p => !torn.contains p && !target.on p && !old.on p
  let out := moved.filter fun i => !gone i && ((s.slot i).st != .disarmed || (s.slot i).disarm)
  let s := out.foldl (fun s i => s.startDisarm i (old.slotPan i) false) s
  let s := torn.foldl State.tearDown s
  let s := { s with cfg := { s.cfg with binds := target.binds, raceAllow := target.raceAllow, racePan := target.racePan
                                        pwrCfg := target.pwrCfg, opCeil := target.opCeil } }
  let s := s.dropOperatorKeys old target
  let (s, marks) := idle.foldl (fun (x : State × Tab (BitVec 16)) p =>
    let (mask, s) := x.1.commitIdle target p
    (s, x.2.put 0 p (x.2.look 0 p ||| mask))) (s, k.marks)
  let a : Applied := { s }
  let a := (looseQueues old target torn).foldl (applyCtx 16 target) a
  let a := (looseSlots old target torn).foldl (applySlot target) a
  let s := (partsAll.filter fun p => !torn.contains p && !waiting.contains p).foldl (fun s p =>
    let changed := idle.contains p && old.part p != s.cfg.part p
    if changed || marks.look 0 p != 0 then s.epochEvent p m.by (marks.look 0 p) changed else s) a.s
  let alive (q : DWord) := s.cmds.any fun c => c.seq = q
  let new : Commit := { m with started := true, target, below := s.tally.head, waiting, tearing := torn, clamps := marks
                               slots := out ++ a.slots, status := a.status, seq := m.seq.filter alive }
  (((s.noteCommit m new (k.mask ||| a.mask ||| (marks.map (·.2)).foldl (· ||| ·) 0)).kickClear).finishCommits)

/-- The next device-scope commit in waiting starts once none is in progress. -/
def State.nextDevice (s : State) : State :=
  if s.saltern.halted || s.commits.any fun m => m.device && m.started && !m.settled then s else
    match s.commits.find? fun m => m.device && !m.started with
    | none => s
    | some m => s.beginDevice m

/-- A commit is asked for. -/
def State.askCommit (s : State) (m : Commit) : State :=
  ({ s with commits := s.commits ++ [m] }).nextDevice

-- ## Epoch boundaries

/-- The partition has no command that the commit must wait for. -/
def State.drained (s : State) (m : Commit) (p : Nat) : Bool :=
  s.cmds.all fun c => c.part != p || m.below.toNat ≤ c.seq.toNat || m.seq == some c.seq

/-- A partition-scope commit at its boundary: the shadows of its scope are copied and take effect (R247, R248). -/
def State.commitHere (s : State) (m : Commit) (p : Nat) : State :=
  let old := s.cfg
  let a := s.applyPart false p s.shadow
  let s := a.s.epochEvent p m.by a.mask (partChanged a.s p old a.s.cfg)
  let new : Commit := { m with started := true, waiting := [], slots := a.slots, status := a.status }
  (s.noteCommit m new a.mask).finishCommits

/-- A partition of a device-scope commit at its boundary. -/
def State.gainHere (s : State) (m : Commit) (p : Nat) : State :=
  let old := s.cfg
  let keep := old.part p
  let s := { s with cfg := s.cfg.setPart p { m.target.part p with kvCfg := keep.kvCfg, kvExt := keep.kvExt, pwr := keep.pwr } }
  let a := s.applyPart (!bitAt keep.pdef.toNat 31) p m.target
  let mask := m.clamps.look 0 p ||| a.mask
  let s := a.s.epochEvent p m.by mask (partChanged a.s p old a.s.cfg)
  let new : Commit := { m with waiting := m.waiting.filter fun i => i != p, slots := m.slots ++ a.slots
                               status := if m.status = 0 then a.status else m.status }
  (s.noteCommit m new mask).finishCommits

/-- A partition reaches the boundary that a commit waits for. -/
def epochBoundary (p : Nat) (s : State) : State :=
  if s.edge.stopped || s.saltern.halted then s else
    match s.commits.find? fun m => m.waiting.contains p with
    | none => s
    | some m =>
      if !m.device then (if s.drained m p then (s.commitHere m p).nextDevice else s)
      else if s.stillHeld m p then s
      else if (s.part p).teardown then (s.enterPart m p).finishCommits.nextDevice
      else if s.drained m p then (s.gainHere m p).nextDevice else s

def execEpochBoundary (p : BitVec 4) (s : State) : Host.Outcome State Fault Refusal := .next (epochBoundary p.toNat s)

/-- The clear engine has cleared a partition: steps 5 and 6 (R137, R139, R251). -/
def partitionClearDone (p : Nat) (v : ClearVerdict) (s : State) : State :=
  match s.memSys.clears.find? fun j => j.whole with
  | none => s
  | some j =>
    let pans := maskList j.pans.toNat 64
    let ranges := j.ranges.flatMap fun r => s.unfenced r.1 r.2
    if j.part != p || s.edge.stopped || s.saltern.halted || s.clearWaits ranges pans then s else
      let (ok, s) := s.verify v ranges (pans.filter fun i => !(s.pan i).bunded) { part := some p }
      if s.edge.stopped then s else
      let s := pans.foldl State.wipePan s
      let s := { s with memSys := { s.memSys with clears := s.memSys.clears.filter fun k => k != j } }
      let s := s.resetPart p pans j.slots
      let st := if ok then stOk else stPoison
      let seq := s.tally.head
      let s := s.event 0x80 evCleared (BitVec.ofNat 8 p) 0 st
      let s := s.modPart p fun x => { x with lastCleared := some (seq, st) }
      let s := s.kickClear
      match s.commits.find? fun m => m.tearing.contains p with
      | none => s
      | some m =>
        if s.stillHeld m p then
          { s with commits := s.commits.map fun k =>
              if k = m then { m with tearing := m.tearing.filter fun i => i != p, waiting := m.waiting ++ [p] } else k }
        else (s.enterPart m p).finishCommits.nextDevice

def execPartitionClearDone (p : BitVec 4) (v : ClearVerdict) (s : State) : Host.Outcome State Fault Refusal :=
  .next (partitionClearDone p.toNat v s)

-- ## COMMIT and the direct commits

/-- COMMIT with SCOPE 0. -/
def commitPartAct (c : Cmd) (s : State) : State :=
  let m : Commit := { device := false, part := c.part, ini := c.ini, seq := some c.seq }
  let s := s.modCmd c.seq fun d => { d with working := true }
  ({ s with commits := s.commits ++ [m] }).commitHere m c.part

def execCommitPartition (seq : DWord) (s : State) : Host.Outcome State Fault Refusal :=
  .next (startRow 13 (fun x => x == 0) commitPartAct seq s)

/-- COMMIT with SCOPE 1, for operator initiators. -/
def commitDeviceAct (c : Cmd) (s : State) : State :=
  if !s.isOperator c.ini then s.complete c.seq stDenied else
    let s := s.modCmd c.seq fun d => { d with working := true }
    s.askCommit { device := true, part := c.part, ini := c.ini, seq := some c.seq }

def execCommitDevice (seq : DWord) (s : State) : Host.Outcome State Fault Refusal :=
  .next (startRow 13 (fun x => x == 1) commitDeviceAct seq s)

/-- A commit written during an entry to DOZE or SLACK cancels the entry, and with it a wake event held for it (R276, R280). -/
def State.cancelSleep (s : State) : State :=
  if s.power.sleep = .enteringDoze || s.power.sleep = .enteringSlack then
    { s with power := { s.power with sleep := .awake, sleepErr := 2, wakeHeld := false } }
  else s

/-- A write of PRT_COMMIT (R247): GO, or DISCARD, which alone acts where both are set. -/
def prtCommit (p : Nat) (ini : Ini) (go discard : Bool) (s : State) : BitVec 4 × State :=
  if !s.mayRead ini p then (rDenied, s)
  else if discard then
    let keep := s.shadow.part p
    let now := s.cfg.part p
    let s := { s with shadow := s.shadow.setPart p { keep with kvCfg := now.kvCfg, kvExt := now.kvExt, pwr := now.pwr } }
    let s := (s.slotsOf p).foldl (fun s i =>
      { s with shadow := s.shadow.set (.raceCfg i) (s.cfg.get (.raceCfg i)) }) s
    (rOk, s.mapQueues p fun s q => { s with shadow := s.shadow.setCtx q (s.cfg.ctx q) })
  else if go then
    (rOk, (s.cancelSleep).askCommit { device := false, part := p, ini, seq := none, below := s.tally.head, waiting := [p] })
  else (rOk, s)

/-- A write of GLB_COMMIT. -/
def glbCommit (ini : Ini) (go discard : Bool) (s : State) : BitVec 4 × State :=
  if !s.isOperator ini then (rDenied, s)
  else if discard then (rOk, { s with shadow := s.cfg })
  else if go then (rOk, (s.cancelSleep).askCommit { device := true, part := 0, ini, seq := none })
  else (rOk, s)

def execPrtCommitGo (r : Req) (p : BitVec 4) (s : State) : Host.Outcome State Fault Refusal :=
  .next (s.serve r id (prtCommit p.toNat r.ini true false))
def execPrtCommitDiscard (r : Req) (p : BitVec 4) (s : State) : Host.Outcome State Fault Refusal :=
  .next (s.serve r id (prtCommit p.toNat r.ini false true))
def execGlbCommitGo (r : Req) (s : State) : Host.Outcome State Fault Refusal :=
  .next (s.serve r id (glbCommit r.ini true false))
def execGlbCommitDiscard (r : Req) (s : State) : Host.Outcome State Fault Refusal :=
  .next (s.serve r id (glbCommit r.ini false true))

end Sys2Proof.Machine
end

