-- ==== Sys2Proof/Machine/Regs.lean ====
section
/-! DEFINITION. The registers of the control region as words: what each reads (R1, R14, R31, R53 to R55, R82, R141 to R143, R151,
R154, R238, R239, R243, R245, R254, R266, R270, R299 to R301, R320, R321, R329, R347, R367 to R369, R399, R420, R446, R464, R465),
and the latches of split reads (R4). -/
namespace Sys2Proof.Machine

/-- The half at byte 0 or 4 of a 64-bit register. -/
def half (x k : Nat) : Nat := if k = 0 then x % 2 ^ 32 else x / 2 ^ 32

-- ## Global registers that other rules also show

/-- GLB_STRAP (Table 1.3). -/
def State.strapWord (s : State) : Nat :=
  b2n s.edge.unstable * 0x100 + b2n (s.edge.bootsel == 3) * 0x80 + b2n s.edge.golden * 0x20 + s.edge.addrSel.toNat * 4
    + s.edge.bootsel.toNat

/-- GLB_EDGE_STATUS (Table 1.6). -/
def State.edgeWord (s : State) : Nat :=
  let e := s.edge
  e.lpPort.toNat * 2 ^ 12 + b2n e.xspiOctal * 2 ^ 11 + b2n e.thermShutdown * 2 ^ 10 + b2n e.thermTrip * 2 ^ 9
    + b2n e.regAlertSeen * 2 ^ 8 + b2n s.power.spillway * 2 ^ 7 + b2n e.panSupplyGood * 2 ^ 6 + b2n (e.ucie1 == .up16) * 2 ^ 5
    + b2n (e.ucie0 == .up16) * 2 ^ 4 + b2n e.ucie1.isUp * 2 ^ 3 + b2n e.ucie0.isUp * 2 ^ 2 + b2n e.refclkOk

/-- GLB_SALTERN_STATUS.PHASE (Table 12.17). -/
def phaseCode : Phase → Nat
  | .rom => 0 | .firmware => 1 | .recovery => 2 | .stopped => 3 | .transition => 4

/-- GLB_BOOT_STATUS (Table 15.13). -/
def State.bootStatus (s : State) : Nat :=
  let b := s.boot
  b.bind.toNat * 2 ^ 28 + b.recovery.toNat * 2 ^ 24 + b.cfgSrc.toNat * 2 ^ 20 + b.fwSrc.toNat * 2 ^ 16 + b.path.toNat * 2 ^ 14
    + b2n b.wake * 2 ^ 12 + b2n b.rsaUsed * 2 ^ 11 + b2n b.rbAdvanced * 2 ^ 10 + b2n b.rbPending * 2 ^ 9
    + b2n b.revokedNow * 2 ^ 8 + b2n b.goldenForced * 2 ^ 7 + b2n b.flashPresent * 2 ^ 6 + b2n b.n16Refused * 2 ^ 5
    + b2n b.noErase * 2 ^ 4

/-- GLB_DEBUG_STATUS (Table 19.6). -/
def State.debugStatus (s : State) : Nat :=
  s.dbg.refused.toNat * 2 ^ 16 + s.dbg.begun.toNat * 2 ^ 8 + b2n s.saltern.halted * 4
    + b2n (s.dbg.sessions.any fun x => x != .jtag) * 2 + b2n (s.dbg.sessions.contains .jtag)

/-- GLB_TAMPER (Table 12.10). -/
def State.tamperWord (s : State) : Nat :=
  let t := s.saltern
  t.tamperCount.toNat * 2 ^ 16 + b2n t.tampered * 16 + b2n t.inSlack * 8 + b2n t.clockGlitch * 4 + b2n t.voltGlitch * 2
    + b2n t.pinSeen

/-- A clock that does not run: gated when idle, at a confluence, or bunded (R101, R107, R275, R439). -/
def Pan.clockOff (v : Pan) : Bool := v.gated || v.st == .atConfluence || v.bunded
def State.groupGated (s : State) (g : Nat) : Bool := (List.range 8).all fun i => (s.pan (8 * g + i)).clockOff

/-- GLB_PWR_STATE (Table 11.6). -/
def State.pwrState (s : State) : Nat :=
  let gated := (List.range 8).filter s.groupGated
  let st := match s.power.sleep with
    | .awake => if gated.length = 8 then 1 else 0
    | .enteringDoze | .enteringSlack => 2
    | .doze | .slack => 3
    | .waking => 4
  s.power.sleepErr.toNat * 2 ^ 20 + b2n s.power.tableInvalid * 2 ^ 19 + b2n s.power.monitored * 2 ^ 18
    + b2n s.power.spillway * 2 ^ 17 + b2n ((List.range 8).any fun g => (s.group g).op == 8) * 2 ^ 16
    + listMask gated * 2 ^ 8 + st

/-- GLB_PG_STATUSg (Table 11.7). -/
def State.groupWord (s : State) (g : Nat) : Nat :=
  let v := s.group g
  (v.offset % 32).toNat * 2 ^ 27 + v.volt.toNat * 2 ^ 16 + v.droops.toNat * 2 ^ 8 + b2n v.stretching * 2 ^ 7
    + b2n v.riseWait * 2 ^ 6 + b2n (s.groupGated g) * 2 ^ 5 + b2n v.spill * 2 ^ 4 + v.op.toNat

/-- The ranges the clear engine has still to clear: the boot clear's, and those of the clears in progress or waiting (R136, R137, R140). -/
def State.clearRanges (s : State) : List (Nat × Nat) :=
  (if s.bootClearing then (List.range 8).map fun v => (v * vaultSize, vaultSize) else [])
    ++ (if s.boot.stage == .lpClear then (s.lpRanges.zipIdx.filter fun r => s.edge.lpPort.getLsbD r.2).map (·.1) else [])
    ++ s.memSys.clears.flatMap fun j => j.ranges

/-- The partition of the clear in progress, where one is: a clear of a disarmed race pan is its slot's (R192). Which partition the boot
clear shows, no rule says: a free value. -/
def State.clearPart (s : State) : Option Nat :=
  if s.bootClearing || s.boot.stage == .lpClear then some ((freeCycles s.drawn).toNat % 16) else
    match s.memSys.clears with
    | j :: _ => some (j.part % 16)
    | [] => ((List.range 4).find? fun i => (s.slot i).disarm && (s.slot i).st != .busy).map fun i =>
        (s.slotClaim i).getD ((freeCycles s.drawn).toNat % 16)

/-- GLB_CLEAR_STATUS (Table 5.7). -/
def State.clearWord (s : State) : Nat :=
  let m := s.memSys
  listMask (touchedPorts s.clearRanges) * 2 ^ 16 + listMask (touchedVaults s.clearRanges) * 2 ^ 8 + b2n m.sampleFail * 2 ^ 6
    + b2n m.sampleRetry * 2 ^ 5 + (match s.clearPart with | some p => 16 + p | none => 0)

/-- GLB_TALLY_OLDEST: SEQ of the oldest retained entry; GLB_TALLY_HEAD where none is retained. -/
def State.tallyOldest (s : State) : DWord := match s.tally.entries with | e :: _ => e.seq | [] => s.tally.head

/-- GLB_TALLY_STATUS. -/
def State.tallyStatus (s : State) : Nat :=
  let t := s.tally
  t.erases.toNat * 2 ^ 24 + t.ckpts.toNat * 2 ^ 8 + b2n t.worn * 2 ^ 7 + b2n t.budgetSpent * 2 ^ 6 + b2n t.ckptEn * 2 ^ 5
    + t.spill.toNat

/-- GLB_ERR_STATUS (Table 18.3). -/
def State.errWord (s : State) : Nat := b2n s.errs.fatal * 2 ^ 31 + s.errs.fatalCause.toNat * 2 ^ 27 + s.errs.records.toNat

/-- GLB_ENGINE_STATUS (Table 14.8). A PKE program is seen to run while it waits for the DRBG; any other ends within its command. Which lanes
hash while a load is under way is not fixed by any rule and reads a free value. -/
def State.engineWord (s : State) : Nat :=
  let loads := s.cmds.any fun c => c.working && (c.op == 2 || c.op == 3)
  b2n s.eng.katFail * 2 ^ 31 + (match s.eng.pke with | r :: _ => 2 ^ 28 + r.prog % 16 * 2 ^ 24 | [] => 0)
    + listMask ((List.range 4).filter fun i => (s.eng.ctxs.look {} i).busy) * 2 ^ 20
    + (if loads then (freeCycles s.drawn).toNat % 2 ^ 16 * 16 else 0)

/-- GLB_DRBG_STATUS (Table 14.9). -/
def State.drbgWord (s : State) : Nat :=
  let e := s.eng
  e.reseeds.toNat * 2 ^ 16 + b2n e.aptFail * 32 + b2n e.rctFail * 16 + b2n e.startupDone * 8
    + (match e.drbg with | .uninstantiated => 0 | .ready => 1 | .error => 2)

/-- GLB_ATTEST_STATUS (Table 16.13). -/
def State.attestWord (s : State) : Nat :=
  let a := s.attest
  let kept := s.parts.any fun pp => (pp.2.progs ++ pp.2.wgts).any fun r => r.2.used && r.2.status == 1
  a.reports.toNat * 2 ^ 16 + a.wakes.toNat * 2 ^ 8 + b2n kept * 16 + b2n a.overflow * 8 + b2n a.mrFailed * 4 + b2n a.debugEver

/-- KEYS: slots 1 to 7 hold their fixed keys. -/
def State.keysHeld (s : State) : Bool :=
  (List.range 7).all fun i => fld (s.saltern.slots.look {} (i + 1)).attr.toNat 52 4 != 0

-- ## The register words

/-- A 32-bit word of the global region; an offset that Table 19.8 does not list reads 0 (R466). -/
def State.glbWord (s : State) (off : Nat) : Nat :=
  match rwsAt off with
  | some (r, k) => half (s.cfg.get r) k
  | none =>
    if off = 0x0000 then 0x00020001
    else if off = 0x0010 then s.strapWord
    else if off = 0x0014 then s.edgeWord
    else if off = 0x0100 then s.memSys.memCfg.toNat
    else if off = 0x0104 then s.clearWord
    else if off = 0x0110 then s.memSys.unmapped.toNat
    else if off = 0x0114 then s.memSys.sealedWrite.toNat
    else if off = 0x0200 ∨ off = 0x0204 then half s.tally.head.toNat (off % 8)
    else if off = 0x0208 ∨ off = 0x020C then half s.tallyOldest.toNat (off % 8)
    else if off = 0x0210 then s.tallyStatus
    else if off = 0x0218 then s.tally.earlyBell.toNat
    else if off = 0x021C then s.tally.bellRefused.toNat
    else if off = 0x080C then s.pwrState
    else if 0x0820 ≤ off ∧ off < 0x0840 then s.groupWord ((off - 0x820) / 4)
    else if off = 0x0840 then s.power.last.toNat
    else if off = 0x0848 ∨ off = 0x084C then half s.power.energy.toNat (off % 8)
    else if off = 0x0A00 then s.saltern.transResult.toNat * 2 ^ 28 + s.recordsLeft * 2 ^ 24 + s.epoch * 2 ^ 16 + s.lcState
    else if off = 0x0A04 then s.saltern.locks.toNat * 2 ^ 8 + b2n s.keysHeld * 8 + phaseCode s.saltern.phase
    else if off = 0x0A08 then s.tamperWord
    else if off = 0x0A10 then s.engineWord
    else if off = 0x0A14 then s.drbgWord
    else if off = 0x0A18 then s.eng.truncs.toNat * 2 ^ 16 + s.eng.shorts.toNat
    else if off = 0x0A20 then s.attestWord
    else if off = 0x0A24 then s.attest.log.length
    else if 0x0A40 ≤ off ∧ off < 0x0AC0 then (s.chan ((off - 0xA40) / 4)).bind.toNat
    else if off = 0x0B00 then
      b2n s.otp.vpp * 2 ^ 19 + b2n s.otp.healFail * 2 ^ 18 + b2n s.otp.healed * 2 ^ 17 + b2n (s.otp.weakMap != 0) * 2 ^ 16
        + s.otp.weakMap.toNat
    else if off = 0x0B04 then s.otp.invalid.toNat * 2 ^ 8 + s.otp.locked.toNat
    else if off = 0x0C00 then s.bootStatus
    else if off = 0x0C04 then s.boot.slots.toNat
    else if off = 0x0C08 then s.boot.count.toNat
    else if off = 0x0C0C then s.boot.svn.toNat
    else if off = 0x0D00 then s.errWord
    else if off = 0x0D08 then s.errs.vaultCorr.toNat * 2 ^ 16 + s.errs.panCorr.toNat
    else if off = 0x0D0C then s.errs.bondRetry.toNat * 2 ^ 16 + s.errs.lpCorr.toNat
    else if off = 0x0D10 ∨ off = 0x0D14 then half (listMask (pansAll.filter fun p => (s.pan p).bunded)) (off % 8)
    else if off = 0x0D18 then s.errs.lpWithheld.toNat * 2 ^ 16 + s.errs.vaults.toNat
    else if off = 0x0D20 ∨ off = 0x0D24 then
      leNat ((List.range 4).map fun i => s.errs.vpoison.look 0 (off - 0xD20 + i))
    else if 0x0D40 ≤ off ∧ off < 0x0E40 then
      let r := s.errs.recs.look (0, 0) ((off - 0xD40) / 16)
      half (if off % 16 < 8 then r.1.toNat else r.2.toNat) (off % 8)
    else if off = 0x0E80 then s.debugStatus
    else 0

/-- Accepted commands of a partition's queues that its rings still announce (PRT_BACKLOG). -/
def State.backlog (s : State) (p : Nat) : Nat :=
  (s.ctxs.filter fun x => s.queueOwner x.1 == some p).foldl (fun n x => n + (x.2.tail - x.2.head).toNat) 0

/-- PRT_STATE (Table 9.3). -/
def State.prtState (s : State) (p : Nat) : Nat :=
  let clearing := match s.memSys.clears.find? (fun j => j.whole) with | some j => j.part == p | none => false
  (s.usable p).length * 2 ^ 16 + b2n (s.commits.any fun m => m.waiting.contains p) * 8 + b2n clearing * 4
    + b2n (s.part p).teardown * 2 + b2n (s.inService p)

/-- PRT_KV_STATE (Table 6.6). -/
def State.kvState (s : State) (p : Nat) : Nat :=
  (s.seqs.filter fun q => q.2.bound && q.2.part == p).length * 2 ^ 17 + (s.part p).freeList.length

/-- PRT_DISPATCH. -/
def State.prtDispatch (s : State) (p : Nat) : Nat := s.quota p * 2 ^ 16 + s.inflight p

/-- A 32-bit word of a partition's block. -/
def State.prtWord (s : State) (p off : Nat) : Nat :=
  let v := s.part p
  match rwsOfPart p off with
  | some (r, k) => half (s.cfg.get r) k
  | none =>
    if off = 0x000 then s.prtState p
    else if off = 0x008 then v.epoch.toNat
    else if off = 0x088 ∨ off = 0x08C then half v.seed.toNat (off % 8)
    else if off = 0x090 ∨ off = 0x094 then half v.stepCount.toNat (off % 8)
    else if off = 0x098 then v.detLast.toNat
    else if off = 0x09C then v.detCycles.toNat
    else if off = 0x0A0 ∨ off = 0x0A4 then half v.detSeq.toNat (off % 8)
    else if off = 0x0C4 then v.pwrLast.toNat
    else if off = 0x0C8 then v.sluice.toNat
    else if off = 0x100 then s.prtDispatch p
    else if off = 0x104 then s.backlog p % 2 ^ 32
    else if off = 0x108 then v.backlogPeak.toNat
    else if off = 0x204 then s.kvState p
    else if off = 0x20C then v.kvFull.toNat
    else if off = 0x210 then v.kvTrunc.toNat
    else if off = 0x214 then v.kvRefused.toNat
    else if off = 0x300 then v.confLast.toNat
    else if off = 0x304 then v.confMax.toNat
    else if off = 0x308 then v.confCount.toNat
    else 0

/-- The instruction at a running pan's program counter is a WAIT that names the move port, where an append is still to be made; every
other earlier instruction is complete (R84, R101, R161). -/
def State.atWait (s : State) (p : Nat) : Bool :=
  let v := s.pan p
  v.append.isSome && blockHere v &&
    match cleanWord (s.panDescs p) (s.readN (imemBase p + 16 * imemIndex v v.pc) 16) with
    | some w => iClass w == kWait && bitAt w 116
    | none => false

/-- PAN_STATUS (Table 2.8). A stream MATMUL executes within its command, so STREAM reads 0. -/
def State.panStatus (s : State) (p : Nat) : Nat :=
  let v := s.pan p
  let st := if v.bunded then 0 else if s.bootClearing then 4 else match v.st with
    | .clearing => 4
    | .idle => if v.holds.isEmpty then 0 else 3
    | .run => if !v.holds.isEmpty then 3 else if s.atWait p then 2 else 1
    | .atConfluence => 2
  let owner := match s.panPart p with | some q => 2 ^ 24 + q * 2 ^ 20 | none => 0
  let race := match s.slotOf p with | some i => i * 2 ^ 16 + 2 ^ 15 | none => 0
  owner + race + p / 8 * 2 ^ 8 + b2n v.bunded * 16 + st

/-- PAN_PROG (Table 4.2). -/
def State.panProg (s : State) (p : Nat) : Nat :=
  let v := s.pan p
  (match v.held with | some h => h.2.1 % 256 * 2 ^ 24 | none => 0) + b2n v.streamed * 2 ^ 23 + v.loops.length * 2 ^ 20
    + b2n v.held.isSome * 2 ^ 19 + v.pc % 2 ^ 16

/-- Operators, and initiators bound to the partition that owns the pan (R55, R465). -/
def State.panRights (s : State) (ini : Ini) (p : Nat) : Bool :=
  s.isOperator ini || (match s.panPart p with | some q => s.boundTo ini == some q | none => false)

/-- A 32-bit word of a pan's block. -/
def State.panWord (s : State) (p off : Nat) : Nat :=
  let v := s.pan p
  if off = 0x000 then s.panStatus p
  else if off = 0x008 ∨ off = 0x00C then half v.cycles.toNat (off % 8)
  else if off = 0x010 then v.arith.toNat
  else if off = 0x018 then s.panProg p
  else if off = 0x100 then b2n v.freeze
  else if 0x108 ≤ off ∧ off < 0x138 then
    let x := match (off - 0x108) / 8 with
      | 0 => v.profIssue
      | 1 => v.profCell
      | 2 => v.profVec
      | 3 => v.profMove
      | 4 => v.profGated
      | _ => v.profBubble
    half x.toNat (off % 8)
  else 0

/-- A doorbell as it reads (Table 8.4). -/
def State.bellWord (s : State) (q : Nat) : Nat :=
  let x := s.ctx q
  x.ctail.toNat % 2 ^ 16 * 2 ^ 48 + x.head.toNat % 2 ^ 16 * 2 ^ 32 + x.chead.toNat % 2 ^ 16 * 2 ^ 16 + x.tail.toNat % 2 ^ 16

/-- What an initiator reads of a register word at a control-region offset, mailboxes, boot and tally windows apart. -/
def State.ctlWord (s : State) (ini : Ini) (off : Nat) : Nat :=
  if off < 0x10000 then s.glbWord off
  else if off < 0x18000 then
    let q := (off - 0x10000) / 8
    let may := s.isOperator ini || (match s.queueOwner q with | some p => s.boundTo ini == some p | none => false)
    if may then half (s.bellWord q) (off % 8) else 0
  else if 0x20000 ≤ off ∧ off < 0x28000 then
    let i := (off - 0x20000) / 0x2000
    let o := off % 0x2000
    if o < 0x1100 && !s.raceReader i ini then 0 else s.raceWord i o
  else if 0x100000 ≤ off ∧ off < 0x110000 then
    let p := (off - 0x100000) / 0x1000
    if s.mayRead ini p then s.prtWord p (off % 0x1000) else 0
  else if 0x200000 ≤ off ∧ off < 0x240000 then
    let p := (off - 0x200000) / 0x1000
    let o := off % 0x1000
    if (o = 0x010 ∨ 0x100 ≤ o) ∧ !s.panRights ini p then 0 else s.panWord p o
  else 0

-- ## Split reads of 64-bit registers (R4)

/-- The 64-bit register that holds the word at an offset, by the offset of its low word. -/
def wideReg (off : Nat) : Option Nat :=
  let o := off / 8 * 8
  let glb := o == 0x200 || o == 0x208 || (0x400 ≤ o && o < 0x600) || (0x600 ≤ o && o < 0x640 && o % 16 == 0) || o == 0x848
    || o == 0xD08 || o == 0xD10 || o == 0xD20 || (0xD40 ≤ o && o < 0xE40)
  let prt := let x := o % 0x1000
    x == 0x010 || (0x040 ≤ x && x < 0x060) || x == 0x088 || x == 0x090 || x == 0x0A0 || (0x240 ≤ x && x < 0x2C0)
  let pan := let x := o % 0x1000
    x == 0x008 || (0x108 ≤ x && x < 0x138)
  let race := let x := o % 0x2000
    x == 0x1800 || x == 0x1808 || x == 0x1828
  if (o < 0x10000 && glb) || (0x10000 ≤ o && o < 0x18000) || (0x20000 ≤ o && o < 0x28000 && race)
    || (0x100000 ≤ o && o < 0x110000 && prt) || (0x200000 ≤ o && o < 0x240000 && pan) then some o else none

def State.latch (s : State) (ini : Ini) : Latch := s.latches.look {} ini.toNat
def State.setLatch (s : State) (ini : Ini) (l : Latch) : State := { s with latches := s.latches.put {} ini.toNat l }

/-- What a 32-bit read answers. -/
def State.answerWord (s : State) (ini : Ini) (w : Nat) : State :=
  { s with sent := s.sent ++ [{ module1 := false, ini, tag := 0, status := 0, data := leBytes 4 w }] }

/-- A 32-bit read of the low word of a 64-bit register: its high word goes into the reader's latch. -/
def latchedLow (ini : Ini) (off : Nat) (s : State) : State :=
  match wideReg off with
  | none => s
  | some o =>
    let s := s.setLatch ini { reg := some o, high := BitVec.ofNat 32 (s.ctlWord ini (o + 4)) }
    s.answerWord ini (s.ctlWord ini o)

/-- A 32-bit read of the high word: the latch where it holds this register, and it is cleared; otherwise the current value. -/
def latchedHigh (ini : Ini) (off : Nat) (s : State) : State :=
  match wideReg off with
  | none => s
  | some o =>
    let l := s.latch ini
    if l.reg = some o then (s.setLatch ini {}).answerWord ini l.high.toNat
    else s.answerWord ini (s.ctlWord ini (o + 4))

/-- Registers answer the initiator: an external one through the port, which serves them while READY is asserted (R201, R205, R427);
an agent of the device itself from the rise of PORST_N on, unless a FATAL error has stopped everything (R4, R18, R303). -/
def State.servesWords (s : State) (ini : Ini) : Bool :=
  s.up || (decide (64 ≤ ini.toNat) && s.edge.porst && !s.edge.stopped)

def execLatchedLowWordRead (ini : Ini) (off : BitVec 24) (s : State) : Host.Outcome State Fault Refusal :=
  .next (if s.servesWords ini then latchedLow ini off.toNat s else s)
def execLatchedHighWordRead (ini : Ini) (off : BitVec 24) (s : State) : Host.Outcome State Fault Refusal :=
  .next (if s.servesWords ini then latchedHigh ini off.toNat s else s)

end Sys2Proof.Machine
end

