-- ==== Sys2Proof/Machine/Services.lean ====
section
/-! DEFINITION. The key services (R326, Table 12.13), the OTP services (R344 to R346), the digest and random services (R366), and the
refusal of short requests (R325). -/
namespace Sys2Proof.Machine

-- ## The frame of a service

/-- Word `i` of a request, counted from 1. -/
def SvcReq.w (r : SvcReq) (i : Nat) : Nat := (r.words.getD (i - 1) 0).toNat
/-- An address in words `i` and `i + 1` (R325). -/
def SvcReq.addr (r : SvcReq) (i : Nat) : Nat := r.w i + r.w (i + 1) % 256 * 2 ^ 32
/-- The request is longer than its service needs. -/
def SvcReq.extra (r : SvcReq) : Bool := decide (r.need < r.len)

/-- A reply; extra words of the request set its clamp bit. -/
def State.answer (s : State) (c : Nat) (r : SvcReq) (status : Nat) (ws : List Nat := []) (clamp : Bool := false) : State :=
  s.reply c r.tag status (clamp || r.extra) (ws.map fun w => BitVec.ofNat 32 w)

/-- A service row: the request at the head of the channel is this service's, its turn has come, and nothing it needs makes it wait.
A requester whose partition is in teardown is answered ABORTED (R327). -/
def svcRow (code : Nat) (waits : SvcReq → State → Bool) (act : Nat → Ini → SvcReq → State → State) (cb : BitVec 5) (s : State) :
    State :=
  let c := cb.toNat
  if s.nextService != some c then s else
    match (s.chan c).request with
    | none => s
    | some r =>
      if r.code != code || waits r s then s else
        let s := s.takeRequest c r
        let a : Ini := BitVec.ofNat 8 (s.chan c).sideA
        let gone := match s.boundRaw a with | some p => (s.part p).teardown | none => false
        State.settleMbx (if gone then s.answer c r svAborted else act c a r s)

/-- Nothing makes the service wait. -/
def noWait : SvcReq → State → Bool := fun _ _ => false

/-- The check of a device access made for a channel, as an access by its side A (R112, R135, R150; DEDUCED [log 28]). -/
def State.svcRange (s : State) (a : Ini) (addr n : Nat) (wr : Bool) : Bool :=
  n == 0 || match s.boundTo a with
    | none => false
    | some p => within (s.ranges p) addr n && !(wr && (s.hitsSealed addr n || (s.kvHit addr n).isSome || s.fencedAt addr n))

/-- Bytes read for a channel, or the status that ends its request: a refused access, or a poisoned unit (R366, R436, R442). -/
def State.svcRead (s : State) (a : Ini) (addr n : Nat) : Except Nat (List Byte) :=
  if !s.svcRange a addr n false then .error svRange
  else if s.marked addr n || s.fencedAt addr n then .error svInput
  else .ok (s.read addr n)

/-- A request that fails at a read: an input of the digest engine that was refused or poisoned has ended early, which counts (R351). -/
def State.svcFail (s : State) (c : Nat) (r : SvcReq) (st : Nat) (clamp : Bool := false) (hashed : Bool := true) : State :=
  (if hashed then s.countShort else s).answer c r st [] clamp

-- ## Filling a slot for a channel

/-- The slot a service fills, or the status that refuses it. -/
def State.slotFor (s : State) (a : Ini) : Except Nat (Nat × Nat) :=
  match s.worldOf a with
  | none => .error svWorld
  | some w =>
    if s.saltern.tampered then .error svAbsent else
      match s.freeSlot with
      | none => .error svNoSlot
      | some n => .ok (n, w)

/-- The slot filled with the attributes of R326. -/
def State.svcFill (s : State) (a : Ini) (n world type usage origin : Nat) (m : List Byte) : State :=
  s.fillSlot n type usage world (2 ^ a.toNat) origin m

def typeOk (t : Nat) : Bool := 1 ≤ t && t ≤ 7

-- ## Key services

def keyInfoAct (c : Nat) (a : Ini) (r : SvcReq) (s : State) : State :=
  let n := r.w 1
  let k := s.key n
  if n < 8 then s.answer c r svWorld
  else if k.type = 0 then s.answer c r svAbsent
  else if !s.worldOk a k then s.answer c r svWorld
  else s.answer c r svOk ((List.range 4).map fun i => fld k.attr.toNat (32 * i) 32)

def execKeyInfo (c : BitVec 5) (s : State) : Host.Outcome State Fault Refusal := .next (svcRow 0x01 noWait keyInfoAct c s)

/-- The parent's material: PARTITION_ROOT, or the slot that word 4 names. -/
def State.parentOf (s : State) (a : Ini) (r : SvcReq) : Except Nat (List Byte) :=
  if bitAt (r.w 1) 9 then
    let n := r.w 4
    match s.useErr (some a) n (some uDerive) with
    | some e => .error e
    | none => if (s.key n).type = kDerive then .ok (s.key n).material else .error svUsage
  else
    match s.useErr none 7 (some uDerive) with
    | some e => .error e
    | none => .ok (s.key 7).material

def keyDeriveAct (c : Nat) (a : Ini) (r : SvcReq) (s : State) : State :=
  let w := r.w 1
  let type := fld w 0 4
  match s.worldOf a with
  | none => s.answer c r svWorld
  | some k =>
    if !typeOk type then s.answer c r svBadParam else
      match s.parentOf a r with
      | .error e => s.answer c r e
      | .ok parent =>
        match s.slotFor a with
        | .error e => s.answer c r e
        | .ok (n, world) =>
          let lab := min 64 (fld w 16 8)
          let con := min 128 (fld w 24 8)
          let clamp := lab != fld w 16 8 || con != fld w 24 8 || (k == 0x11 && bitAt w 8)
          match s.svcRead a (r.addr 2) (fld w 16 8 + fld w 24 8) with
          | .error e => s.svcFail c r e clamp
          | .ok bs =>
            let m := if bitAt w 8 && k != 0x11 then s.mr (8 + k) else zeros48
            let kb : Byte := if k = 0x11 then 0xFF else BitVec.ofNat 8 k
            let bits := kdf parent (bs.take lab) (s.prefixP ++ [kb] ++ m ++ (bs.drop (fld w 16 8)).take con) (typeBits type)
            (s.svcFill a n world type (fld w 4 4) 1 (asMaterial type bits)).answer c r svOk [n] clamp

def execKeyDerive (c : BitVec 5) (s : State) : Host.Outcome State Fault Refusal :=
  .next (svcRow 0x02 (fun _ s => s.ctxsFull) keyDeriveAct c s)

/-- The public key goes to the destination where one is named; a symmetric TYPE has none to write. -/
def keyGenerateAct (c : Nat) (a : Ini) (r : SvcReq) (s : State) : State :=
  let type := fld (r.w 1) 0 4
  if (s.worldOf a).isNone then s.answer c r svWorld
  else if !typeOk type then s.answer c r svBadParam else
    match s.slotFor a with
    | .error e => s.answer c r e
    | .ok (n, world) =>
      let dest := r.addr 2
      let len := match type with | 4 => 64 | 5 => 96 | 6 => 1952 | _ => 0
      if s.eng.drbg == .error then s.answer c r svEntropy
      else if dest != 0 && len != 0 && s.eng.katFail then s.answer c r svAbsent
      else if dest != 0 && !s.svcRange a dest len true then s.answer c r svRange
      else
        match s.drbgTake (typeBits type / 8) with
        | none => s.answer c r svEntropy
        | some (bits, s) =>
          let m := asMaterial type bits
          let s := s.svcFill a n world type (fld (r.w 1) 4 4) 2 m
          let s := if dest = 0 then s else match publicOf type m with | some q => (s.pkePublic q).engineWrite dest q | none => s
          s.answer c r svOk [n]

def execKeyGenerate (c : BitVec 5) (s : State) : Host.Outcome State Fault Refusal :=
  .next (svcRow 0x03 (fun _ s => s.drbgWaits || s.pkeBusy) keyGenerateAct c s)

def keyImportAct (c : Nat) (a : Ini) (r : SvcReq) (s : State) : State :=
  let type := fld (r.w 1) 0 4
  if (s.worldOf a).isNone then s.answer c r svWorld
  else if !typeOk type then s.answer c r svBadParam else
    match s.slotFor a with
    | .error e => s.answer c r e
    | .ok (n, world) =>
      match s.svcRead a (r.addr 2) (typeBytes type) with
      | .error e => s.svcFail c r e (hashed := false)
      | .ok bs =>
        let d := beNat bs
        let order := if type = kP256 then p256.n else if type = kP384 then p384.n else 0
        if order != 0 && (d == 0 || order ≤ d) then s.answer c r svBadParam
        else (s.svcFill a n world type (fld (r.w 1) 4 4) 3 bs).answer c r svOk [n]

def execKeyImport (c : BitVec 5) (s : State) : Host.Outcome State Fault Refusal := .next (svcRow 0x04 noWait keyImportAct c s)

/-- Bytes of a tag by TYPE. -/
def tagBytes (type : Nat) : Nat := match type with | 1 => 32 | 3 => 64 | _ => 48

def keyHmacAct (c : Nat) (a : Ini) (r : SvcReq) (s : State) : State :=
  let n := r.w 1
  let k := s.key n
  match s.useErr (some a) n (some uHmac) with
  | some e => s.answer c r e
  | none =>
    if !s.svcRange a (r.addr 5) (tagBytes k.type) true then s.answer c r svRange else
      match s.svcRead a (r.addr 2) (r.w 4) with
      | .error e => s.svcFail c r e
      | .ok bs => (s.engineWrite (r.addr 5) (tagMsg k.type k.material bs)).answer c r svOk

def execKeyHmac (c : BitVec 5) (s : State) : Host.Outcome State Fault Refusal :=
  .next (svcRow 0x05 (fun _ s => s.ctxsFull) keyHmacAct c s)

/-- Bytes of a signature by TYPE. -/
def sigBytes (type : Nat) : Nat := match type with | 4 => 64 | 5 => 96 | _ => 3309

def keySignAct (c : Nat) (a : Ini) (r : SvcReq) (s : State) : State :=
  let n := r.w 1
  let k := s.key n
  match s.useErr (some a) n (some uSign) with
  | some e => s.answer c r e
  | none =>
    if s.eng.katFail then s.answer c r svAbsent
    else if s.eng.drbg == .error then s.answer c r svEntropy
    else if !s.svcRange a (r.addr 5) (sigBytes k.type) true then s.answer c r svRange
    else
      match s.svcRead a (r.addr 2) (r.w 4) with
      | .error e => s.svcFail c r e false (k.type != kMldsa)
      | .ok bs =>
        match signMsg k.type k.material bs s with
        | none => s.answer c r svEntropy
        | some (g, s) => (s.engineWrite (r.addr 5) g).answer c r svOk [g.length]

def execKeySign (c : BitVec 5) (s : State) : Host.Outcome State Fault Refusal :=
  .next (svcRow 0x06 (fun _ s => s.drbgWaits || s.ctxsFull || s.pkeBusy) keySignAct c s)

/-- The new slot's TYPE is chosen by USAGE: DERIVE for DERIVE384, else HMAC for HMAC384 (DEDUCED [log 29]). -/
def ecdhType (usage : Nat) : Option Nat :=
  if bitAt usage uDerive then some kDerive else if bitAt usage uHmac then some kHmac384 else none

def keyEcdhAct (c : Nat) (a : Ini) (r : SvcReq) (s : State) : State :=
  let n := r.w 1
  if (s.worldOf a).isNone then s.answer c r svWorld else
  match s.useErr (some a) n (some uEcdh), ecdhType (r.w 4) with
  | some e, _ => s.answer c r e
  | none, none => s.answer c r svBadParam
  | none, some type =>
    if s.eng.katFail then s.answer c r svAbsent else
      match s.slotFor a with
      | .error e => s.answer c r e
      | .ok (m, world) =>
        match s.svcRead a (r.addr 2) 96 with
        | .error e => s.svcFail c r e (hashed := false)
        | .ok bs =>
          let q := p384.unpair bs
          match p384.ecdh (beNat (s.key n).material) q.1 q.2 with
          | .error e => (s.pkeEnd e false []).answer c r svBadParam
          | .ok x => ((s.pkeEnd pkOk false [wordsOf64 6 x]).svcFill a m world type (r.w 4 % 16) 1 (beBytes 48 x)).answer c r svOk [m]

def execKeyEcdh (c : BitVec 5) (s : State) : Host.Outcome State Fault Refusal := .next (svcRow 0x07 (fun _ s => s.pkeBusy) keyEcdhAct c s)

def keyZeroiseAct (c : Nat) (a : Ini) (r : SvcReq) (s : State) : State :=
  let n := r.w 1
  let k := s.key n
  if n < 8 then s.answer c r svWorld
  else if k.type = 0 then s.answer c r svAbsent
  else if !s.worldOk a k then s.answer c r svWorld
  else (s.zeroiseSlot n).settleEngines.answer c r svOk

def execKeyZeroise (c : BitVec 5) (s : State) : Host.Outcome State Fault Refusal :=
  .next (svcRow 0x08 noWait keyZeroiseAct c s)

def keyPublicAct (c : Nat) (a : Ini) (r : SvcReq) (s : State) : State :=
  let n := r.w 1
  let k := s.key n
  match s.useErr (some a) n none with
  | some e => s.answer c r e
  | none =>
    if k.type < 4 || 6 < k.type then s.answer c r svUsage
    else if s.eng.katFail then s.answer c r svAbsent
    else match k.public with
      | none => s.answer c r svUsage
      | some q =>
        if !s.svcRange a (r.addr 2) q.length true then s.answer c r svRange
        else ((s.pkePublic q).engineWrite (r.addr 2) q).answer c r svOk [q.length]

def execKeyPublic (c : BitVec 5) (s : State) : Host.Outcome State Fault Refusal := .next (svcRow 0x09 (fun _ s => s.pkeBusy) keyPublicAct c s)

-- ## OTP services

def otpReadAct (c : Nat) (_ : Ini) (r : SvcReq) (s : State) : State :=
  let w := r.w 1 % 2048
  let n0 := min 64 (max 1 (r.w 2))
  let n := min n0 (2048 - w)
  let bad := (overlaps w n 0x380 0x240 && s.otpInvalid 5) || (overlaps w n 0x5C0 0x240 && s.otpInvalid 6)
  if bad then s.answer c r svInvalid [] (n != r.w 2)
  else s.answer c r svOk ((List.range n).map fun i => if 0x40 ≤ w + i && w + i < 0x60 then 0 else s.otpWord (w + i)) (n != r.w 2)

def execOtpRead (c : BitVec 5) (s : State) : Host.Outcome State Fault Refusal := .next (svcRow 0x10 noWait otpReadAct c s)

/-- The checks of R346 for lock record `j`, where the word or index has one. -/
def State.otpErr (s : State) (a : Ini) (j : Option Nat) : Option Nat :=
  if !s.isOperator a then some svNotOperator else
    match j with
    | none => some svRange
    | some j => s.otpRefused j

/-- The request waits for its turn at the controller, which checks it again then (R337, R346). -/
def otpProgramAct (c : Nat) (a : Ini) (r : SvcReq) (s : State) : State :=
  let w := r.w 1 % 2048
  match s.otpErr a ((lockOf w).filter fun j => 4 ≤ j) with
  | some e => s.answer c r e
  | none => s.addJob { purpose := .program c w (r.w 2) r.tag r.extra }

def execOtpProgram (c : BitVec 5) (s : State) : Host.Outcome State Fault Refusal :=
  .next (svcRow 0x11 noWait otpProgramAct c s)

def otpLockAct (c : Nat) (a : Ini) (r : SvcReq) (s : State) : State :=
  let j := r.w 1
  match s.otpErr a (if 4 ≤ j && j ≤ 6 then some j else none) with
  | some e => s.answer c r e
  | none => s.addJob { purpose := .lock c j r.tag r.extra false }

def execOtpLock (c : BitVec 5) (s : State) : Host.Outcome State Fault Refusal := .next (svcRow 0x12 noWait otpLockAct c s)

-- ## Digest and random services (R366)

def hashOf (alg : Nat) (l : List Byte) : List Byte :=
  match alg with | 0 => sha256 l | 1 => sha384 l | _ => sha512 l

def digestAct (c : Nat) (a : Ini) (r : SvcReq) (s : State) : State :=
  let alg := r.w 1
  if 2 < alg then s.answer c r svBadParam else
    let len := match alg with | 0 => 32 | 1 => 48 | _ => 64
    if !s.svcRange a (r.addr 5) len true then s.answer c r svRange else
      match s.svcRead a (r.addr 2) (r.w 4) with
      | .error e => s.svcFail c r e
      | .ok bs => (s.engineWrite (r.addr 5) (hashOf alg bs)).answer c r svOk

def execDigest (c : BitVec 5) (s : State) : Host.Outcome State Fault Refusal :=
  .next (svcRow 0x18 (fun _ s => s.ctxsFull) digestAct c s)

def hmacVerifyAct (c : Nat) (a : Ini) (r : SvcReq) (s : State) : State :=
  let n := r.w 1
  let k := s.key n
  let len := min 64 (max 16 (r.w 7))
  let clamp := len != r.w 7
  match s.useErr (some a) n (some uHmac) with
  | some e => s.answer c r e [] clamp
  | none =>
    match s.svcRead a (r.addr 2) (r.w 4), s.svcRead a (r.addr 5) len with
    | .error e, _ => s.svcFail c r e clamp
    | _, .error e => s.svcFail c r e clamp false
    | .ok bs, .ok tag =>
      let good := sameBytes len (tagMsg k.type k.material bs) tag && len ≤ tagBytes k.type
      s.answer c r (if good then svOk else svMismatch) [] clamp

def execHmacVerify (c : BitVec 5) (s : State) : Host.Outcome State Fault Refusal :=
  .next (svcRow 0x19 (fun _ s => s.ctxsFull) hmacVerifyAct c s)

def randomAct (c : Nat) (_ : Ini) (r : SvcReq) (s : State) : State :=
  let n := min 64 (max 1 (r.w 1))
  match s.drbgTake (4 * n) with
  | none => s.answer c r svEntropy [] (n != r.w 1)
  | some (bs, s) => s.answer c r svOk ((List.range n).map fun i => leAt bs (4 * i) 4) (n != r.w 1)

def execRandom (c : BitVec 5) (s : State) : Host.Outcome State Fault Refusal :=
  .next (svcRow 0x1A (fun _ s => s.drbgWaits || s.ctxsFull) randomAct c s)

-- ## Short requests (R325)

/-- The Saltern has waited for the missing words of a request: BAD_PARAM, once the channel's earlier request has its reply. Words that
arrive later start a new request (DEDUCED [log 30]). -/
def serviceTimeout (c : Nat) (s : State) : State :=
  if s.saltern.halted || !s.up then s else
    match (s.chan c).request with
    | none => s
    | some r =>
      if r.whole || s.chanBusy c then s else
        let s := s.modChan c fun v => { v with aToB := v.aToB.drop (1 + r.words.length) }
        (s.reply c r.tag svBadParam false []).settleMbx

def execServiceTimeout (c : BitVec 5) (s : State) : Host.Outcome State Fault Refusal := .next (serviceTimeout c.toNat s)

end Sys2Proof.Machine
end

