-- ==== Sys2Proof/Machine/Attest.lean ====
section
/-! DEFINITION. Attestation: certificates and link records (R410 to R412), reports (R413 to R417), and the four attestation services
(Table 16.8). -/
namespace Sys2Proof.Machine

-- ## CBOR in the core deterministic encoding (R414; RFC 8949, PRESUMED [log 20])

def cborHead (major n : Nat) : List Byte :=
  let m := major * 32
  if n < 24 then [BitVec.ofNat 8 (m + n)]
  else if n < 0x100 then BitVec.ofNat 8 (m + 24) :: beBytes 1 n
  else if n < 0x10000 then BitVec.ofNat 8 (m + 25) :: beBytes 2 n
  else if n < 0x100000000 then BitVec.ofNat 8 (m + 26) :: beBytes 4 n
  else BitVec.ofNat 8 (m + 27) :: beBytes 8 n

def cborNat (n : Nat) : List Byte := cborHead 0 n
/-- The negative number `-n`. -/
def cborNeg (n : Nat) : List Byte := cborHead 1 (n - 1)
def cborBytes (b : List Byte) : List Byte := cborHead 2 b.length ++ b
def cborText (t : String) : List Byte := cborHead 3 (ascii t).length ++ ascii t
def cborArray (l : List (List Byte)) : List Byte := cborHead 4 l.length ++ l.flatten
/-- A map whose keys stand in their encoded order. -/
def cborMap (l : List (List Byte × List Byte)) : List Byte := cborHead 5 l.length ++ l.flatMap fun kv => kv.1 ++ kv.2
def cborNull : List Byte := [0xF6]

-- ## DER (R412; X.690, PRESUMED [log 20])

def derLen (n : Nat) : List Byte :=
  if n < 0x80 then [BitVec.ofNat 8 n]
  else if n < 0x100 then 0x81 :: beBytes 1 n
  else if n < 0x10000 then 0x82 :: beBytes 2 n
  else 0x83 :: beBytes 3 n
def der (tag : Byte) (b : List Byte) : List Byte := tag :: derLen b.length ++ b
def derSeq (l : List (List Byte)) : List Byte := der 0x30 l.flatten
/-- The content of an INTEGER from big-endian bytes: as short as a non-negative value can be. -/
def derIntBody (b : List Byte) : List Byte :=
  match b.dropWhile (· == 0) with
  | [] => [0]
  | x :: l => if x.getLsbD 7 then 0 :: x :: l else x :: l
def derInt (b : List Byte) : List Byte := der 2 (derIntBody b)
def derOid (b : List Byte) : List Byte := der 6 b
def derBits (b : List Byte) : List Byte := der 3 (0 :: b)

def oidEcdsa384 : List Byte := derOid [0x2A, 0x86, 0x48, 0xCE, 0x3D, 0x04, 0x03, 0x03]
def oidEcKey : List Byte := derOid [0x2A, 0x86, 0x48, 0xCE, 0x3D, 0x02, 0x01]
def oidP384 : List Byte := derOid [0x2B, 0x81, 0x04, 0x00, 0x22]
def oidMldsa65 : List Byte := derOid [0x60, 0x86, 0x48, 0x01, 0x65, 0x03, 0x04, 0x03, 0x12]
def oidSha384 : List Byte := derOid [0x60, 0x86, 0x48, 0x01, 0x65, 0x03, 0x04, 0x02, 0x02]
def oidCommonName : List Byte := derOid [0x55, 0x04, 0x03]
def oidTcbInfo : List Byte := derOid [0x67, 0x81, 0x05, 0x05, 0x04, 0x01]
def oidExt (n : Byte) : List Byte := derOid [0x55, 0x1D, n]

/-- Upper-case hexadecimal digits. -/
def hexDigits (b : List Byte) : List Byte :=
  b.flatMap fun x => [x.toNat / 16, x.toNat % 16].map fun n => BitVec.ofNat 8 (if n < 10 then 0x30 + n else 0x37 + n)

def derName (cn : List Byte) : List Byte := derSeq [der 0x31 (derSeq [oidCommonName, der 0x0C cn])]
def keyDigits (pub : List Byte) : List Byte := hexDigits ((sha384 pub).take 8)
def derExt (oid : List Byte) (critical : Bool) (value : List Byte) : List Byte :=
  derSeq ([oid] ++ (if critical then [[0x01, 0x01, 0xFF]] else []) ++ [der 4 value])

/-- What a certificate says of the device (Table 16.7). -/
structure Tcb where
  svn : Nat
  mrs : List (List Byte)
  recovery : Bool
  debugEver : Bool
  deriving DecidableEq, Repr

/-- The TcbInfo extension. -/
def Tcb.info (t : Tcb) : List Byte :=
  let fwids := der 0xA6 ((t.mrs.map fun m => derSeq [oidSha384, der 4 m]).flatten)
  -- flags: bit 2 recovery, bit 3 debug, trailing zeros cut
  let flags : List Byte := match t.recovery, t.debugEver with
    | false, false => []
    | true, false => der 0x87 [5, 0x20]
    | false, true => der 0x87 [4, 0x10]
    | true, true => der 0x87 [4, 0x30]
  derSeq [der 0x80 (ascii "Lamovin"), der 0x81 (ascii "Shunum N64"), der 0x82 (ascii "2.1"),
    der 0x83 (derIntBody (beBytes 1 t.svn)), fwids, flags]

/-- An algorithm identifier and a public key of one of the two algorithms. -/
def sigAlg (type : Nat) : List Byte := if type = kP384 then derSeq [oidEcdsa384] else derSeq [oidMldsa65]
def derKey (type : Nat) (pub : List Byte) : List Byte :=
  if type = kP384 then derSeq [derSeq [oidEcKey, oidP384], derBits (0x04 :: pub)] else derSeq [derSeq [oidMldsa65], derBits pub]

/-- The part of an alias certificate that is signed. -/
def tbsCert (type : Nat) (issuer subject : List Byte) (t : Tcb) : List Byte :=
  let serial := match (sha384 subject).take 16 with | [] => [] | x :: l => (x &&& 0x7F) :: l
  let id (pub : List Byte) := (sha384 pub).take 20
  derSeq [der 0xA0 [0x02, 0x01, 0x02], derInt serial, sigAlg type, derName (ascii "N64 DeviceID " ++ keyDigits issuer),
    derSeq [der 0x17 (ascii "000101000000Z"), der 0x18 (ascii "99991231235959Z")],
    derName (ascii "N64 Alias " ++ keyDigits subject), derKey type subject,
    der 0xA3 (derSeq [derExt (oidExt 0x13) true (derSeq []), derExt (oidExt 0x0F) true [0x03, 0x02, 0x07, 0x80],
      derExt (oidExt 0x0E) false (der 4 (id subject)), derExt (oidExt 0x23) false (derSeq [der 0x80 (id issuer)]),
      derExt oidTcbInfo false t.info])]

/-- A signature as a certificate carries it. -/
def certSig (type : Nat) (sig : List Byte) : List Byte :=
  if type = kP384 then derSeq [derInt (sig.take 48), derInt (sig.drop 48)] else sig

/-- One alias certificate: signed by the DeviceID key of a slot for the alias key of another. -/
def State.aliasCert (s : State) (dev subj : Nat) : Option (List Byte × State) :=
  let d := s.key dev
  let type := d.type
  match d.public, (s.key subj).public with
  | some issuer, some subject =>
    let t : Tcb := { svn := s.boot.svn.toNat % 256, mrs := [s.mr 0, s.mr 1, s.mr 2], recovery := s.boot.recovery != 0
                     debugEver := s.attest.debugEver }
    let tbs := tbsCert type issuer subject t
    match signMsg type d.material tbs s with
    | none => none
    | some (g, s) => some (derSeq [tbs, sigAlg type, derBits (certSig type g)], s)
  | _, _ => none

/-- The two alias certificates (R412). -/
def State.issueCerts (s : State) : State :=
  match s.aliasCert 1 5 with
  | none => s
  | some (a, s) =>
    match s.aliasCert 2 6 with
    | none => s
    | some (b, s) => { s with boot := { s.boot with certs := [a, b] } }

/-- Bytes 0x000 to 0x83F of a link record (Table 16.6). -/
def linkBody (from' to' : Nat × Nat) (count : Nat) (device ecc ml : List Byte) : List Byte :=
  leBytes 4 0x4E344C4B ++ leBytes 2 1
    ++ [from'.1, from'.2, to'.1, to'.2].map (BitVec.ofNat 8) ++ [0, 0] ++ leBytes 4 count ++ device ++ ecc ++ ml

/-- A link record signed by the keys of the state that is left. -/
def linkRecord (body : List Byte) (eccKey mlKey : List Byte) (s : State) : Option (List Byte × State) :=
  match signMsg kP384 eccKey body s with
  | none => none
  | some (a, s) =>
    match signMsg kMldsa mlKey body s with
    | none => none
    | some (b, s) => some (body ++ a ++ b, s)

-- ## Who sees what (R416)

/-- What a requester sees: every partition, one, or none. -/
inductive View where
  | all | one (k : Nat) | none
  deriving DecidableEq, Repr

/-- The view of a requester; `all` where it asks for everything and is an operator. -/
def State.viewOf (s : State) (a : Ini) (all : Bool) : View :=
  if all && s.isOperator a then .all
  else match s.boundTo a with
    | some k => .one k
    | none => .none

def View.seesPart (v : View) (k : Nat) : Bool :=
  match v with | .all => true | .one p => p == k | .none => false
/-- MR8 to MR23 belong to the partitions. -/
def View.seesMr (v : View) (i : Nat) : Bool := i < 8 || 24 ≤ i || v.seesPart (i - 8)

-- ## The report (R414, Tables 16.9 and 16.10)

def retained (v : Part) : Bool := (v.progs ++ v.wgts).any fun r => r.2.used && r.2.status == 1

/-- The partitions that a view reports: those in service or in teardown, ascending (DEDUCED [log 31]). -/
def State.reported (s : State) (v : View) : List Nat :=
  partsAll.filter fun p => bitAt (s.cfg.part p).pdef.toNat 31 && v.seesPart p

def State.partMap (s : State) (p : Nat) : List Byte :=
  let v := s.part p
  let progs := (v.progs.filter (·.2.loaded)).map fun r => cborArray [cborNat r.1, cborBytes r.2.digest, cborNat r.2.status.toNat]
  let wgts := (v.wgts.filter (·.2.loaded)).map fun r =>
    cborArray [cborNat r.1, cborBytes r.2.digest, cborNat r.2.status.toNat, cborNat r.2.plen.toNat]
  cborMap [(cborNat 1, cborNat p), (cborNat 2, cborNat (s.prtState p)), (cborNat 3, cborNat (s.cfg.get (.pans p))),
    (cborNat 4, cborArray progs), (cborNat 5, cborArray wgts),
    (cborNat 6, match v.lastCleared with | some c => cborArray [cborNat c.1.toNat, cborNat c.2.toNat] | none => cborNull)]

def State.raceClaim (s : State) (v : View) (i : Nat) : List Byte :=
  match s.slotOwner i with
  | some p =>
    let c := s.cfg.get (.raceCfg i)
    if v.seesPart p then cborArray [cborNat p, cborNat (s.raceState i), cborNat (fld c 0 8), cborNat (fld c 8 8)] else cborNull
  | none => cborNull

/-- The UEID: 0x01 and half a digest of the DeviceID P-384 key. -/
def State.ueid (s : State) : List Byte := 0x01 :: (sha384 ((s.key 1).public.getD [])).take 32

/-- The claims map of a snapshot. -/
def State.claimsOf (s : State) (v : View) (nonce : List Byte) : List Byte :=
  let a := s.attest
  let flags := b2n a.debugEver + b2n s.saltern.tampered * 2 + b2n a.mrFailed * 4 + b2n a.overflow * 8
    + b2n ((s.reported v).any fun p => retained (s.part p)) * 16
  cborMap [(cborNat 10, cborBytes nonce), (cborNat 256, cborBytes s.ueid), (cborNat 263, cborNat 0),
    (cborNat 267, cborNat s.boot.count.toNat), (cborNeg 70001, cborNat (s.glbWord 0)),
    (cborNeg 70002, cborArray ((List.range 32).map fun i => if v.seesMr i then cborBytes (s.mr i) else cborNull)),
    (cborNeg 70003, cborArray [cborNat s.lcState, cborNat s.epoch]), (cborNeg 70004, cborNat flags),
    (cborNeg 70005, cborArray [cborNat s.bootStatus, cborNat s.boot.slots.toNat, cborNat s.boot.svn.toNat]),
    (cborNeg 70006, cborArray [cborNat (s.glbWord 0xB00), cborNat (s.glbWord 0xB04)]),
    (cborNeg 70007, cborNat s.saltern.tamperCount.toNat),
    (cborNeg 70008, cborArray [cborNat (listMask (pansAll.filter fun p => (s.pan p).bunded)), cborNat s.errs.vaults.toNat]),
    (cborNeg 70009, cborNat a.wakes.toNat), (cborNeg 70010, cborNat (satAdd a.reports 1).toNat),
    (cborNeg 70011, cborNat s.tally.head.toNat), (cborNeg 70012, cborNat a.log.length),
    (cborNeg 70013, cborArray ((s.reported v).map s.partMap)),
    (cborNeg 70014, cborArray ((List.range 4).map (s.raceClaim v)))]

/-- The protected headers: ES384 and ML-DSA-65. -/
def headEs384 : List Byte := cborMap [(cborNat 1, cborNeg 35)]
def headMldsa : List Byte := cborMap [(cborNat 1, cborNeg 49)]

/-- ToBeSigned of a signer. -/
def toBeSigned (head payload : List Byte) : List Byte :=
  cborArray [cborText "Signature", cborBytes [], cborBytes head, cborBytes [], cborBytes payload]

def coseSig (head cert sig : List Byte) : List Byte :=
  cborArray [cborBytes head, cborMap [(cborNat 33, cborBytes cert)], cborBytes sig]

/-- The report from its payload, certificates and signatures. -/
def reportOf (payload certA certB sigA sigB : List Byte) : List Byte :=
  cborHead 6 61 ++ cborHead 6 98
    ++ cborArray [cborBytes [], cborMap [], cborBytes payload,
      cborArray [coseSig headEs384 certA sigA, coseSig headMldsa certB sigB]]

/-- The alias keys and their certificates can sign a report (R311, R319, R417). -/
def State.canAttest (s : State) : Bool :=
  !s.saltern.tampered && s.useErr none 5 (some uSign) == none && s.useErr none 6 (some uSign) == none
    && s.boot.certs.length == 2 && !s.eng.katFail

def attestReportAct (c : Nat) (a : Ini) (r : SvcReq) (s : State) : State :=
  let all := bitAt (r.w 1) 0
  let n := r.w 4
  let dest := r.addr 5
  if all && !s.isOperator a then s.answer c r svNotOperator
  else if !s.canAttest then s.answer c r svAbsent
  else if n < 8 || 64 < n then s.answer c r svBadParam
  else
    match s.svcRead a (r.addr 2) n with
    | .error e => s.svcFail c r e
    | .ok nonce =>
      let payload := s.claimsOf (s.viewOf a all) nonce
      let certA := s.boot.certs.getD 0 []
      let certB := s.boot.certs.getD 1 []
      let len := (reportOf payload certA certB (List.replicate 96 0) (List.replicate 3309 0)).length
      if r.w 7 < len then s.answer c r svSmall [len]
      else if !s.svcRange a dest len true then s.answer c r svRange
      else if s.eng.drbg == .error then s.answer c r svEntropy
      else
        match signMsg kP384 (s.key 5).material (toBeSigned headEs384 payload) s with
        | none => s.answer c r svEntropy
        | some (sigA, s) =>
          match signMsg kMldsa (s.key 6).material (toBeSigned headMldsa payload) s with
          | none => s.answer c r svEntropy
          | some (sigB, s) =>
            let s := { s with attest := { s.attest with reports := satAdd s.attest.reports 1 } }
            (s.engineWrite dest (reportOf payload certA certB sigA sigB)).answer c r svOk [len]

def execAttestReport (c : BitVec 5) (s : State) : Host.Outcome State Fault Refusal :=
  .next (svcRow 0x20 (fun _ s => s.drbgWaits || s.ctxsFull || s.pkeBusy) attestReportAct c s)

/-- A log entry as a view sees it: withheld, it keeps INDEX and MR. -/
def entryFor (v : View) (e : LogEntry) (i : Nat) : List Byte :=
  if v.seesMr e.mr.toNat then e.bytes i
  else leBytes 4 i ++ List.replicate 8 0 ++ [e.mr] ++ List.replicate 51 0

/-- An operator's ATTEST_LOG and ATTEST_MR have no ALL bit and withhold nothing from it (DEDUCED [log 31]). -/
def attestLogAct (c : Nat) (a : Ini) (r : SvcReq) (s : State) : State :=
  let n := min 1024 (max 1 (r.w 2))
  let es := (s.attest.log.zipIdx.drop (r.w 1)).take n
  let bs := es.flatMap fun e => entryFor (s.viewOf a true) e.1 e.2
  let clamp := n != r.w 2
  if !s.svcRange a (r.addr 3) bs.length true then s.answer c r svRange [] clamp
  else (s.engineWrite (r.addr 3) bs).answer c r svOk [es.length] clamp

def execAttestLog (c : BitVec 5) (s : State) : Host.Outcome State Fault Refusal :=
  .next (svcRow 0x21 noWait attestLogAct c s)

/-- The parts of the chain. -/
def State.chain (s : State) : List Byte :=
  (s.boot.certs ++ s.boot.linkRecord.toList).flatMap fun p => leBytes 4 p.length ++ p

def attestChainAct (c : Nat) (a : Ini) (r : SvcReq) (s : State) : State :=
  let bs := s.chain
  if s.boot.certs.isEmpty then s.answer c r svAbsent
  else if r.w 3 < bs.length then s.answer c r svSmall [bs.length]
  else if !s.svcRange a (r.addr 1) bs.length true then s.answer c r svRange
  else (s.engineWrite (r.addr 1) bs).answer c r svOk [bs.length]

def execAttestChain (c : BitVec 5) (s : State) : Host.Outcome State Fault Refusal :=
  .next (svcRow 0x22 noWait attestChainAct c s)

/-- A withheld register reads zero; an index beyond 31 is BAD_PARAM (DEDUCED [log 31]). -/
def attestMrAct (c : Nat) (a : Ini) (r : SvcReq) (s : State) : State :=
  let i := r.w 1
  if 31 < i then s.answer c r svBadParam else
    let m := if (s.viewOf a true).seesMr i then s.mr i else zeros48
    s.answer c r svOk ((List.range 12).map fun k => leAt m (4 * k) 4)

def execAttestMr (c : BitVec 5) (s : State) : Host.Outcome State Fault Refusal := .next (svcRow 0x23 noWait attestMrAct c s)

-- ## The records that boot and debug extend (Table 16.3)

/-- The OTP summary (R405). -/
def State.otpSummary (s : State) : List Byte :=
  let mask (first n : Nat) := listMask ((List.range n).filter fun i => pairAt s.otpWord first i)
  leBytes 4 (s.glbWord 0xB00) ++ leBytes 4 (s.glbWord 0xB04)
    ++ [s.lcState, s.epoch, mask 0x110 4, mask 0x300 4, s.rollback rbSfw, s.rollback rbPfw, s.rollback rbCfg, 0].map (BitVec.ofNat 8)

def State.extendOtp (s : State) : State := s.extend 3 0x05 0 (some (sha384 s.otpSummary))
def State.extendLc (s : State) : State :=
  s.extend 5 0x07 0 (some (sha384 ([s.lcState, s.epoch, s.saltern.transResult.toNat, 0].map (BitVec.ofNat 8))))

/-- Path and initiator of a debug session. -/
def Session.path (x : Session) : Byte := match x with | .jtag => 0 | .query _ => 1
def Session.ini (x : Session) : Ini := match x with | .jtag => jtagIni | .query i => i

def State.extendDebug (s : State) (x : Session) : State :=
  s.extend 4 0x06 x.ini (some (sha384 (x.path :: x.ini :: List.replicate 6 0)))

end Sys2Proof.Machine
end

