-- ==== Sys2Proof/Machine/Attn.lean ====
section
/-! DEFINITION. ATTN: scores, softmax and values over gathered buffers (R70, R98, R164, R167 to R171). -/
namespace Sys2Proof.Machine

/-- The header of a gathered buffer (Table 6.9). -/
structure GHeader where
  count : Nat
  len : Nat
  fmt : Fmt
  bf16Scale : Bool
  hd : Nat
  group : Nat
  tstep : Nat
  adisp : Nat
  ps : Nat
  qgrp : Nat
  deriving DecidableEq, Repr

/-- The page formats of R146. -/
def pageFmt (c : Nat) : Option Fmt :=
  match c with
  | 0 => some .int4 | 2 => some .int8 | 4 => some .e4m3 | 5 => some .e5m2 | 6 => some .bf16 | _ => none

def gheader (b : List Byte) : Option GHeader :=
  match pageFmt (fld (leAt b 8 1) 0 3) with
  | none => none
  | some fmt => some
    { count := leAt b 0 4, len := leAt b 4 4, fmt, bf16Scale := bitAt (leAt b 8 1) 3, hd := leAt b 9 1 + 1
      group := leAt b 10 1, tstep := leAt b 11 1, adisp := leAt b 12 2, ps := leAt b 14 1, qgrp := leAt b 15 1 + 1 }

/-- Metadata record `i` of a gathered buffer (R164). -/
structure GRec where
  scale : Nat
  zero : Nat
  absent : Bool
  pos : Nat
  deriving DecidableEq, Repr

def grec (s : State) (p : Nat) (b : Slot22) (i : Nat) : GRec :=
  let r := s.slotRead p b (16 + 8 * i) 8
  { scale := leAt r 0 2, zero := leAt r 2 1, absent := bitAt (leAt r 3 1) 0, pos := leAt r 4 4 }

/-- Codes of row `i`, found from the word's L field. -/
def grow (s : State) (p : Nat) (b : Slot22) (h : GHeader) (l i : Nat) : List Nat :=
  s.slotElems p b (16 + cdiv (8 * l) 16 * 16 + i * rowBytes h.fmt h.hd) h.fmt h.hd

/-- The page's scale as FP32 bits and its zero point. -/
def GHeader.meta' (h : GHeader) (r : GRec) : Nat × Int :=
  let q : QDesc := { fmt := h.fmt, bf16Scale := h.bf16Scale, asym := h.fmt.isInt, gran := .row, gsize := 1, addr := 0, stride := 0 }
  (q.widen r.scale, q.zeroOf r.zero)

/-- The L field. -/
def attnL (w : Nat) : Nat := fld w 83 16 + 1
/-- The ROWS field. -/
def attnRows (w : Nat) : Nat := fld w 106 4 + 1

/-- Negative infinity. -/
def negInf : Nat := 0xFF800000

/-- HD, L and ROWS against the header: the ATTN clamps of R98 and R167. -/
def attnClamps (e : PEnv) (h : GHeader) (fa : Fmt) : Bool :=
  fld e.w 99 7 + 1 != h.hd || attnL e.w < h.count || (rateOf fa h.fmt).mmax < attnRows e.w

/-- A command's clamp; a race request has none. -/
def PEnv.clamp (e : PEnv) (s : State) (b : Bool) (m : BitVec 16) : State :=
  if b && !e.run.race then s.clampCmd e.run.seq m else s

/-- SCORE (R167). Of a PER_GROUP query record whose GSIZE is below HD, the single group of R70 takes the scale and zero point of group 0,
the zero points lying where the NG of that GSIZE puts them (DESIGN CHOICE [log 70]: no rule names the group). -/
def scoreAct (e : PEnv) (s : State) : Done :=
  let b := slotAt e.w 39
  match gheader (s.slotRead e.p b 0 16) with
  | none => { s, stop := some stBadHandle }
  | some h =>
    let qd := fld e.w 111 8
    let q := qdesc e.descs qd
    let fa := match q with | some q => q.fmt | none => .bf16
    let rows := min (attnRows e.w) (rateOf fa h.fmt).mmax
    let n := min h.count (attnL e.w)
    let qbytes := rowBytes fa h.hd
    let s := e.clamp s (attnClamps e h fa) cAttn
    let recs := (List.range n).map fun k => (grec s e.p b k, grow s e.p b h (attnL e.w) k)
    let inv := Arith.go (rsqrt32 (int32f h.hd))
    let scoreRow (i : Nat) : Arith (List Nat) :=
      let codes := s.slotElems e.p (slotAt e.w 61) (16 * h.adisp + i * qbytes) fa h.hd
      let sa : Nat × Int := match q with
        | some q => let x := actMeta s e.p q h.hd (16 * h.adisp / qbytes + i) 0; (q.widen x.1, x.2)
        | none => (one32, 0)
      let last : Int := (h.len : Int) - cdiv rows h.qgrp + (i / h.qgrp : Nat)
      recs.mapM fun r =>
        if r.1.absent || last < (r.1.pos : Int) then pure negInf
        else do
          let x ← groupStep fa h.fmt 0 sa (h.meta' r.1) (codes.zip r.2)
          mul32 x inv.1
    let s := (List.range rows).foldl (fun s' i =>
      let r := Arith.go (scoreRow i)
      let s' := r.1.zipIdx.foldl (fun s' x =>
        s'.putElems e.p (slotAt e.w 17) ((x.2 / 64 * rows + i) * 256 + x.2 % 64 * 4) .fp32 [x.1]) s'
      s'.addFlags e.p r.2) s
    let rt := rateOf fa h.fmt
    let cl := if bitAt e.w 110 then n else attnL e.w
    plain s { cell := cdiv h.hd rt.depth * cdiv cl rt.c + 96 }

/-- Bytes of a softmax record (R168). -/
def recSize (l : Nat) : Nat := 16 + cdiv (2 * l) 16 * 16

/-- One softmax record (R168). -/
def softmaxRow (xs : List Nat) (l i : Nat) : Arith (List Byte) := do
  let m ← if xs.isEmpty then pure negInf else reduceVec canon32 max32 xs
  if m = negInf then
    pure (leBytes 4 negInf ++ List.replicate 4 0 ++ [BitVec.ofNat 8 i, 1] ++ List.replicate (recSize l - 10) 0)
  else
    let ps ← xs.mapM fun x => do
      let d ← sub32 x m
      let y ← exp32 d
      convert .fp32 .bf16 y
    let ws ← ps.mapM fun p => convert .bf16 .fp32 p
    let sum ← reduceVec canon32 add32 ws
    pure (leBytes 4 m ++ leBytes 4 sum ++ [BitVec.ofNat 8 i, 0] ++ List.replicate 6 0
      ++ slice (pack .bf16 ps) 0 (recSize l - 16))

/-- SOFTMAX: the count is the L field, or with LSRC the gather count capped by it. -/
def softmaxAct (e : PEnv) (s : State) : Done :=
  let l := attnL e.w
  let rows := attnRows e.w
  let n := if bitAt e.w 110 then min (s.pan e.p).gcount l else l
  let s := (List.range rows).foldl (fun s i =>
    let xs := (List.range n).map fun k =>
      (s.slotElems e.p (slotAt e.w 61) ((k / 64 * rows + i) * 256 + k % 64 * 4) .fp32 1).headD 0
    let r := Arith.go (softmaxRow xs l i)
    (s.slotWrite e.p (slotAt e.w 17) (i * recSize l) r.1).addFlags e.p r.2) s
  plain s { vec := rows * (6 * cdiv l 64 + 40) }

/-- Adjacent copied positions of one page (R169). -/
def pageRuns (ps : Nat) : List (Nat × GRec) → List (List (Nat × GRec))
  | [] => []
  | x :: xs =>
    match pageRuns ps xs with
    | (y :: ys) :: rest => if x.2.pos / max 1 ps = y.2.pos / max 1 ps then (x :: y :: ys) :: rest else [x] :: (y :: ys) :: rest
    | rest => [x] :: rest

/-- One head column of one row: each run folded by R66 with one rounding. -/
def valueColumn (h : GHeader) (runs : List (List (Nat × GRec))) (prob : Nat → Nat) (code : Nat → Nat) (acc : Nat) : Arith Nat :=
  match runs with
  | [] => pure acc
  | r :: rest => do
    let live := r.filter fun x => prob x.1 != 0 && !x.2.absent
    let acc ← match live with
      | [] => pure acc
      | x :: _ => groupStep .bf16 h.fmt acc (one32, 0) (h.meta' x.2) (live.map fun y => (prob y.1, code y.1))
    valueColumn h rest prob code acc

/-- VALUE (R169). -/
def valueAct (e : PEnv) (s : State) : Done :=
  let b := slotAt e.w 39
  match gheader (s.slotRead e.p b 0 16) with
  | none => { s, stop := some stBadHandle }
  | some h =>
    let l := attnL e.w
    let rt := rateOf .bf16 h.fmt
    let rows := min (attnRows e.w) rt.mmax
    let n := min h.count l
    let s := e.clamp s (attnClamps e h .bf16) cAttn
    let recs := (List.range n).map fun k => (k, grec s e.p b k)
    let codes := (List.range n).map fun k => grow s e.p b h l k
    let runs := pageRuns h.ps recs
    let outs := (List.range rows).map fun i =>
      let sm := s.slotRead e.p (slotAt e.w 61) (i * recSize l) (recSize l)
      let tag := leBytes 2 (h.group * h.tstep + leAt sm 8 1)
      if bitAt (leAt sm 9 1) 0 then
        ((tag ++ [1, BitVec.ofNat 8 (h.hd - 1)] ++ leBytes 4 negInf ++ List.replicate (8 + 4 * h.hd) 0), 0)
      else
        let r := Arith.go ((List.range h.hd).mapM fun j =>
          valueColumn h runs (fun k => leAt sm (16 + 2 * k) 2) (fun k => (codes.getD k []).getD j 0) 0)
        (tag ++ [0, BitVec.ofNat 8 (h.hd - 1)] ++ slice sm 0 8 ++ List.replicate 4 0 ++ pack .fp32 r.1, r.2)
    let s := outs.zipIdx.foldl (fun s o =>
      (s.slotWrite e.p (slotAt e.w 17) (o.2 * (16 + 4 * h.hd)) o.1.1).addFlags e.p o.1.2) s
    let cl := if bitAt e.w 110 then n else l
    plain s { cell := cdiv cl rt.depth * cdiv h.hd rt.c + 96 }

def execScore (p : BitVec 6) (ds : List Detection) (s : State) : Host.Outcome State Fault Refusal :=
  .next (panRow kAttn (funcIs 0) scoreAct p ds s)
def execSoftmax (p : BitVec 6) (ds : List Detection) (s : State) : Host.Outcome State Fault Refusal :=
  .next (panRow kAttn (funcIs 1) softmaxAct p ds s)
def execValue (p : BitVec 6) (ds : List Detection) (s : State) : Host.Outcome State Fault Refusal :=
  .next (panRow kAttn (funcIs 2) valueAct p ds s)

end Sys2Proof.Machine
end

