-- ==== Sys2Proof/Machine/Image.lean ====
section
/-! DEFINITION. The configuration flash (R370, R371), signed images and their checks (R372 to R376), binding records (R389 to R391),
counters and revocation (R385 to R387), and the configuration image (R256, R384). -/
namespace Sys2Proof.Machine

-- ## Flash

def State.flashRead (s : State) (a n : Nat) : List Byte := (List.range n).map fun i => Tab.look s.flash.cells 0xFF (a + i)
/-- Bytes erased to 0xFF. -/
def State.flashErase (s : State) (a n : Nat) : State := { s with flash := { cells := Tab.wipe s.flash.cells a n } }
/-- Bytes programmed where the flash is erased. -/
def State.flashProg (s : State) (a : Nat) (bs : List Byte) : State := { s with flash := { cells := Tab.span s.flash.cells 0xFF a bs } }

def slotA : Nat := 0x0100000
def slotB : Nat := 0x1100000
def slotG : Nat := 0x2100000
def configA : Nat := 0x3100000
def configB : Nat := 0x3200000
def ckptArea : Nat := 0x3300000
def bindArea : Nat := 0x3700000

/-- The flash's unique ID as binding uses it; zero where the flash is absent. -/
def State.flashUid (s : State) : List Byte :=
  match s.boot.env with
  | some e => if s.boot.flashPresent then leBytes 16 e.flashUid.toNat else List.replicate 16 0
  | none => List.replicate 16 0

/-- A sector write of this boot reads back as written. -/
def State.flashGood (s : State) : Bool :=
  s.boot.flashPresent && !s.boot.noErase && (match s.boot.env with | some e => e.flashWriteOk | none => false)

-- ## Images

/-- Kinds of image. -/
inductive ImgKind where
  | sfw | pfw | cfg
  deriving DecidableEq, Repr

def ImgKind.code : ImgKind → Nat | .sfw => 1 | .pfw => 2 | .cfg => 3
/-- Most payload bytes (R374). -/
def ImgKind.limit : ImgKind → Nat | .sfw => 163840 | .pfw => 0x800000 | .cfg => 1042432
/-- Rollback counter (R385). -/
def ImgKind.counter : ImgKind → Nat × Nat | .sfw => rbSfw | .pfw => rbPfw | .cfg => rbCfg

def headerLen : Nat := 0x1800
def imgLen (img : List Byte) : Nat := leAt img 0xC 4
def imgSvn (img : List Byte) : Nat := leAt img 8 4
def imgFlags (img : List Byte) : Nat := leAt img 7 1
def imgSigner (img : List Byte) : Nat := leAt img 0x18 1
def imgBundle (img : List Byte) : Nat := leAt img 0x10 8
def imgPayload (img : List Byte) : List Byte := (img.drop headerLen).take (imgLen img)
/-- The digest that an image's extend carries (Table 16.3). -/
def imgDigest (img : List Byte) : List Byte := sha384 (slice img 0 256)
def zeroBytes (l : List Byte) : Bool := l.all (· == 0)

-- Check codes (Table 15.4).
def icOk : Nat := 0x0
def icShort : Nat := 0x1
def icTrunc : Nat := 0x2
def icSequence : Nat := 0x3
def icFormat : Nat := 0x4
def icDevice : Nat := 0x5
def icSigner : Nat := 0x6
def icRevoked : Nat := 0x7
def icSignature : Nat := 0x8
def icRollback : Nat := 0x9
def icKind : Nat := 0xA
def icFlash : Nat := 0xC

def imgRsa (img : List Byte) : Bool := bitAt (imgFlags img) 2

def formatOk (k : ImgKind) (img : List Byte) : Bool :=
  leAt img 0 4 == 0x4E34494D && leAt img 4 2 == 1 && leAt img 6 1 == k.code && imgFlags img < 8 && zeroBytes (slice img 0x1A 6)
    && zeroBytes (slice img 0x90 112) && imgLen img ≤ k.limit && (k != .cfg || imgBundle img == 0)

def State.imgDeviceOk (s : State) (img : List Byte) : Bool :=
  let d := slice img 0x30 48
  zeroBytes d || d == s.deviceDigest

/-- Who may sign (Table 15.3, R375). -/
def State.signerOk (s : State) (k : ImgKind) (n16 : Bool) (img : List Byte) : Bool :=
  let sg := imgSigner img
  let owned := s.lcState == 3 || s.lcState == 4
  let permitted := if k == .cfg && owned then sg == 0x10 else decide (sg < 4)
  let kindOk := sg == 0x10 || (if imgRsa img then s.vkeyKind sg == 2 || s.vkeyKind sg == 3 else s.vkeyKind sg == 1)
  permitted && kindOk && !(imgRsa img && (!n16 || s.policy polNoRsa || k == .cfg))

/-- The key that SIGNER names. -/
def State.signerDigest (s : State) (sg : Nat) : Option (List Byte) :=
  if sg = 0x10 then s.ownerDigest else if sg < 4 then some (s.vkeyDigest sg) else none

/-- Both signatures of a key set over some bytes (R315, R373). -/
def keySetVerifies (ecc ml eccSig mlSig msg : List Byte) : Bool := p384.verifyBytes ecc (sha384 msg) eccSig && mlVerify ml msg mlSig

def State.imgSigOk (s : State) (k : ImgKind) (img : List Byte) : Bool :=
  let part := slice img 0 256
  let named := s.signerDigest (imgSigner img)
  let sig := if imgRsa img then
      let n := if s.vkeyKind (imgSigner img) = 3 then 512 else 384
      let modulus := slice img 0x100 n
      sameDigest named (sha384 modulus) && rsaVerify modulus (slice img (0x100 + n) n) part
    else
      let ecc := slice img 0x100 96
      let ml := slice img 0x1C0 1952
      sameDigest named (sha384 (ecc ++ ml)) && keySetVerifies ecc ml (slice img 0x160 96) (slice img 0x960 3309) part
  let payload := imgPayload img
  sig && sameBytes 48 (slice img 0x60 48) (if k == .pfw then weightDigest payload else sha384 payload)

/-- The SVN as its counter sees it (R385). -/
def cappedSvn (k : ImgKind) (img : List Byte) : Nat := min (imgSvn img) k.counter.2

/-- The first check that refuses an image, or OK (R376). -/
def State.checkImage (s : State) (k : ImgKind) (n16 : Bool) (img : List Byte) : Nat :=
  if !formatOk k img then icFormat
  else if !s.imgDeviceOk img then icDevice
  else if !s.signerOk k n16 img then icSigner
  else if imgSigner img < 4 && s.revoked (imgSigner img) then icRevoked
  else if !s.imgSigOk k img then icSignature
  else if cappedSvn k img < s.rollback k.counter then icRollback
  else icOk

/-- An image as it is copied from flash: its header and as much payload as it may have. -/
def State.flashImage (s : State) (k : ImgKind) (a : Nat) : List Byte :=
  let h := s.flashRead a headerLen
  h ++ s.flashRead (a + headerLen) (min (imgLen h) k.limit)

/-- A bundle's check: its code and its images (R374). -/
def State.checkBundle (s : State) (n16 : Bool) (sfw pfw : List Byte) : Nat :=
  let a := s.checkImage .sfw n16 sfw
  if a ≠ icOk then a else
    let b := s.checkImage .pfw n16 pfw
    if b = icOk && imgBundle sfw != imgBundle pfw then icFormat else b

/-- Where an image is copied before it is checked (R382). -/
def ImgKind.dest : ImgKind → Nat | .sfw => sramFirmware | .pfw => reserveBase | .cfg => reserveBase + 0xA00000

/-- Bytes of an image are copied to its destination. Bytes beyond the largest image have no place there, and the reserve takes them once
its boot clear has ended (R374, R382, R393). -/
def State.land (s : State) (k : ImgKind) (off : Nat) (bs : List Byte) : State :=
  let l := bs.take (headerLen + k.limit - off)
  if l.isEmpty then s else
    match k with
    | .sfw => s.writeKnown (k.dest + off) l
    | .pfw | .cfg => if s.boot.cleared then s.write (k.dest + off) l else s

-- ## Binding records (R389 to R391, R429)

def bindRecord (s : State) (i : Nat) : List Byte := s.flashRead (bindArea + 128 * i) 128
def bindValid (r : List Byte) : Bool := leAt r 0 4 == 0x4E344244 && leAt r 4 2 == 1
def bindEmpty (r : List Byte) : Bool := r.all (· == 0xFF)

/-- The records with a valid MAGIC and FORMAT, by their place. -/
def State.bindRecords (s : State) : List (Nat × List Byte) :=
  ((List.range 1024).map fun i => (i, bindRecord s i)).filter fun r => bindValid r.2

/-- The boot counter: one more than the largest of the records; 0 without a flash. -/
def State.formCount (s : State) : Word :=
  if !s.boot.flashPresent then 0 else BitVec.ofNat 32 ((s.bindRecords.foldl (fun m r => max m (leAt r.2 8 4)) 0) + 1)

/-- The BIND key can tag and check (R311, R319). -/
def State.bindKey (s : State) : Option (List Byte) :=
  if s.useErr none 4 (some uHmac) = none then some (s.key 4).material else none

-- BIND codes (Table 15.13).
def bdMatch : BitVec 4 := 0
def bdNew : BitVec 4 := 1
def bdRebound : BitVec 4 := 2
def bdRefused : BitVec 4 := 3
def bdUnchecked : BitVec 4 := 4

/-- The classification of the binding. -/
def State.classify (s : State) : BitVec 4 :=
  match s.bindKey with
  | none => bdUnchecked
  | some k =>
    if !s.boot.flashPresent then bdUnchecked else
      let rs := s.bindRecords
      if rs.isEmpty then bdNew
      else if rs.any fun r => sameBytes 48 (slice r.2 0x20 48) (hmac384 k (slice r.2 0 32)) && slice r.2 0x10 16 == s.flashUid
          && leAt r.2 0xC 1 == s.lcState && leAt r.2 0xD 1 == s.epoch then bdMatch
      else bdRebound

/-- What the classification becomes for an image: REFUSED where the policy demands a bound image. -/
def State.bindingFor (s : State) (img : List Byte) : BitVec 4 :=
  let c := s.classify
  let bound := s.boot.flashPresent && bitAt (imgFlags img) 1 && slice img 0x20 16 == s.flashUid
  if s.policy polRequireBind && c != bdMatch && !bound then bdRefused else c

/-- Bytes of this boot's record. -/
def State.bindBytes (s : State) : List Byte :=
  let head := leBytes 4 0x4E344244 ++ leBytes 2 1 ++ [0, 0] ++ leBytes 4 s.boot.count.toNat
    ++ [BitVec.ofNat 8 s.lcState, BitVec.ofNat 8 s.epoch, 0, 0] ++ s.flashUid
  head ++ (match s.bindKey with | some k => hmac384 k head | none => zeros48) ++ zeros48

/-- One record is written for the boot: after the last used place of the newest record's sector, or in the other sector, erased. -/
def State.writeBind (s : State) : State :=
  if !s.boot.flashPresent || s.boot.noErase then s else
    let newest := s.bindRecords.foldl (fun (m : Nat × Nat) r => if m.1 ≤ leAt r.2 8 4 then (leAt r.2 8 4, r.1) else m) (0, 0)
    let sector := newest.2 / 512
    let used := ((List.range 512).filter fun i => !bindEmpty (bindRecord s (512 * sector + i))).foldl (fun m i => max m (i + 1)) 0
    if used < 512 then s.flashProg (bindArea + 128 * (512 * sector + used)) s.bindBytes
    else (s.flashErase (bindArea + 0x10000 * (1 - sector)) 0x10000).flashProg (bindArea + 0x10000 * (1 - sector)) s.bindBytes

-- ## Counters and revocation

/-- Fuses are programmed one by one until one fails; the flag says that all verified. -/
def Otp.burnSome (o : Otp) (bad : List (Nat × Nat)) : List (Nat × Nat) → Bool × Otp
  | [] => (true, o)
  | wb :: l => if bad.contains wb then (false, o) else (o.burn wb).burnSome bad l

/-- Fuses programmed at boot, with the fuses that this boot's pulses do not program. -/
def State.burn (s : State) (l : List (Nat × Nat)) : Bool × State :=
  let bad := match s.boot.env with | some e => e.badFuses | none => []
  let (ok, o) := s.otp.burnSome bad l
  (ok, { s with otp := o })

/-- Programming at boot has its supply, and no tamper event stands (R318, R337). -/
def State.canBurn (s : State) : Bool := s.otp.vpp && !s.saltern.tampered

/-- An image's counter is advanced to its SVN where COMMIT_SVN asks for it (R386). -/
def State.advanceSvn (s : State) (k : ImgKind) (img : List Byte) : State :=
  let now := s.rollback k.counter
  let want := cappedSvn k img
  if !bitAt (imgFlags img) 0 || want ≤ now then s
  else if !s.canBurn then { s with boot := { s.boot with rbPending := true } }
  else
    let (ok, s) := s.burn (thermBits k.counter.1 now want)
    { s with boot := { s.boot with rbAdvanced := s.boot.rbAdvanced || now != s.rollback k.counter, rbPending := s.boot.rbPending || !ok } }

/-- A vendor key that an accepted SFW asks to revoke (R387). -/
def State.revokeKey (s : State) (img : List Byte) (k : Nat) : State :=
  let other := (List.range 4).any fun j => j != k && s.vkeyKind j == 1 && !s.revoked j
  let src := s.boot.fwSrc == 0 || s.boot.fwSrc == 1 || s.boot.fwSrc == 3
  if !bitAt (leAt img 0x19 1) k || k == imgSigner img || !src || s.lcState == 5 || !s.canBurn || !other || s.revoked k then s
  else
    let (_, s) := s.burn (thermBits 0x110 k (k + 1))
    { s with boot := { s.boot with revokedNow := s.boot.revokedNow || s.revoked k } }

/-- Advances and revocations of the images in use; MR3 is extended again where fuses changed (R402). -/
def State.commitSvns (s : State) : State :=
  let before := s.otp.fuses
  let go (s : State) (k : ImgKind) (img : Option (List Byte)) : State := match img with | some i => s.advanceSvn k i | none => s
  let s := go (go (go s .sfw s.boot.sfw) .pfw s.boot.pfw) .cfg s.boot.cfg
  let s := match s.boot.sfw with | some i => (List.range 4).foldl (fun s k => s.revokeKey i k) s | none => s
  if s.otp.fuses = before then s else s.extendOtp

-- ## The configuration image

/-- A configuration record. -/
structure CfgRec where
  type : Nat
  idx : Nat
  body : List Byte
  deriving DecidableEq, Repr

/-- The body length a TYPE needs, and one more than its largest INDEX; none where the TYPE is unknown. -/
def recShape (type : Nat) : Option (Nat × Nat) :=
  match type with
  | 1 => some (16, 1) | 2 => some (92, 16) | 3 => some (8, 64) | 4 => some (12, 4) | 5 => some (32, 4096) | 6 => some (136, 16)
  | 7 => some (4, 32) | _ => none

/-- The records of a payload, and whether a fault of R384 was met. -/
def parseRecs (fuel : Nat) (l : List Byte) : List CfgRec × Bool :=
  match fuel with
  | 0 => ([], false)
  | fuel + 1 =>
    if l.isEmpty then ([], false)
    else if l.length < 8 || l.length < 8 + leAt l 4 4 then ([], true)
    else
      let n := leAt l 4 4
      let r : CfgRec := { type := leAt l 0 1, idx := leAt l 2 2, body := (l.drop 8).take n }
      let (rs, bad) := parseRecs fuel (l.drop (8 + cdiv n 4 * 4))
      match recShape r.type with
      | none => (rs, true)
      | some (need, top) =>
        if n < need then (rs, true)
        else if top ≤ r.idx then (rs, bad || need < n)
        else (r :: rs, bad || need < n)

/-- A later record with the same TYPE and INDEX replaces an earlier one. -/
def lastRecs : List CfgRec → List CfgRec
  | [] => []
  | r :: l => if l.any fun x => x.type == r.type && x.idx == r.idx then lastRecs l else r :: lastRecs l

/-- The GLB_MEM_CFG word with reserved values replaced (R141). -/
def memCfgWord (w : Nat) : Nat :=
  let w := w &&& 0xF77
  let w := if fld w 4 2 = 3 then setFld w 4 2 0 else w
  let w := if fld w 8 2 = 3 then setFld w 8 2 0 else w
  if 6 < fld w 0 3 then setFld w 0 3 6 else w

/-- The DEVICE record (R141, R238, R384). -/
def State.applyDevice (s : State) (r : CfgRec) : State :=
  let b := r.body
  let mem := memCfgWord (leAt b 0 4)
  let spill := min 9 (leAt b 13 1)
  let fault := mem != leAt b 0 4 || spill != leAt b 13 1
  let cfg := (s.cfg.set .pwrCfg (leAt b 4 4)).set .opCeil (leAt b 8 4)
  let s := s.setMargin (leAt b 12 1 == 1)
  { s with
    cfg
    memSys := { s.memSys with memCfg := BitVec.ofNat 32 mem }
    tally := { s.tally with spill := BitVec.ofNat 4 spill, ckptEn := bitAt (leAt b 14 1) 4, ckptK := min 8 (fld (leAt b 14 1) 0 4)
                            budget := min 64 (max 1 (leAt b 15 1)) }
    boot := { s.boot with clamp := s.boot.clamp ||| (if fault then cRsv else 0) } }

/-- Every other record, into committed values before the clamps; contexts of the queues it names. -/
def applyRec (c : DevCfg) (r : CfgRec) : DevCfg :=
  let b := r.body
  match r.type with
  | 2 =>
    let p := r.idx
    let c := (((c.set (.pdef p) (leAt b 0 4)).set (.pans p) (leAt b 4 8)).set (.queues p) (leAt b 12 4)).set (.race p) (leAt b 16 4)
    let c := (List.range 8).foldl (fun c v => c.set (.vshare p v) (leAt b (20 + 4 * v) 4)) c
    let c := (List.range 4).foldl (fun c n => c.set (.lpr p n) (leAt b (52 + 8 * n) 8)) c
    (c.set (.det p) (leAt b 84 4)).set (.pwr p) (leAt b 88 4)
  | 3 => c.set (.bind r.idx) (leAt b 0 8)
  | 4 => (c.set (.allow r.idx) (leAt b 0 8)).set (.racePan r.idx) (leAt b 8 4)
  | 5 =>
    (List.range (min (leAt b 0 2) (4096 - r.idx))).foldl (fun c i => c.setCtx (r.idx + i)
      { ringBase := BitVec.ofNat 64 (leAt b 8 8 + i * leAt b 24 4), cplBase := BitVec.ofNat 64 (leAt b 16 8 + i * leAt b 28 4)
        depth := BitVec.ofNat 16 (leAt b 2 2), weight := BitVec.ofNat 8 (leAt b 4 1), enable := leAt b 5 1 != 0 }) c
  | 6 =>
    let c := c.set (.kvCfg r.idx) (leAt b 0 4)
    (List.range 16).foldl (fun c n => c.set (.kvExt r.idx n) (leAt b (8 + 8 * n) 8)) c
  | _ => c

/-- The mailbox table (R321); once MBX_BIND is set it is fixed (R328). -/
def State.applyMbx (s : State) (r : CfgRec) : State :=
  let a := leAt r.body 0 1
  let b := leAt r.body 1 1
  if s.lock 15 || 0x3F < a || (0x3F < b && b != 0x80) || a == b then s
  else s.modChan r.idx fun v => { v with bind := BitVec.ofNat 32 (2 ^ 31 + a * 256 + b) }

/-- LPDDR5X training: the controllers take over the outputs of the populated ports, ports that pass show in LP_PORT, and ports that fail
are withheld in full (R7, R444). -/
def State.trainPorts (s : State) : State :=
  let pass : BitVec 6 := match s.boot.env with | some e => e.lpPass | none => 0
  let n := fld s.memSys.memCfg.toNat 0 3
  let s := { s with edge := { s.edge with lpDriven := BitVec.ofNat 6 (2 ^ n - 1) } }
  (List.range (fld s.memSys.memCfg.toNat 0 3)).foldl (fun s p =>
    if pass.getLsbD p then { s with edge := { s.edge with lpPort := s.edge.lpPort ||| BitVec.ofNat 6 (2 ^ p) } }
    else s.withhold p 5 (lpBase + p * lpStride, lpStride) {}) s

/-- One context of the image, by the checks of R207: what fails them takes ENABLE 0 with its other fields 0. -/
def bootCtx (p : Nat) (want : DevCfg) (a : Applied) (q : Nat) : Applied :=
  let w := want.ctx q
  let c := w.clamped
  let c := if a.s.ringsFit p c then c else {}
  let s := ({ a.s with cfg := a.s.cfg.setCtx q c }).settleCtx q
  ({ a with s }).note (if c == w then 0 else cContext)

/-- The records other than DEVICE take effect as one device epoch: the shadows take what the records hold, the committed values what the
clamps leave of it (R152, R244, R256). -/
def State.applyConfig (s : State) (rs : List CfgRec) : State :=
  let want := rs.foldl applyRec s.cfg
  let k := s.clampAll want none
  let parts := k.cfg.onParts
  let noKv (c : DevCfg) (p : Nat) : DevCfg := c.setPart p { c.part p with kvCfg := 0, kvExt := [] }
  let bare : DevCfg := parts.foldl noKv { k.cfg with ctxs := [] }
  let s := { s with cfg := bare }
  let (s, marks) := parts.foldl (fun (sm : State × Tab (BitVec 16)) p =>
    let a : Applied := { s := sm.1 }
    let a := (ctxQueues (k.cfg.part p) {} k.cfg).foldl (bootCtx p k.cfg) a
    let a := applyPool true p k.cfg a
    let mask := k.marks.look 0 p ||| a.mask
    (a.s, sm.2.put 0 p mask)) (s, [])
  let (s, marks) := (partsAll.filter fun p => !parts.contains p).foldl (fun (sm : State × Tab (BitVec 16)) p =>
    let (mask, s) := sm.1.commitIdle k.cfg p
    (s, sm.2.put 0 p (k.marks.look 0 p ||| mask))) (s, marks)
  let s := partsAll.foldl (fun s p => if partChanged s p {} s.cfg then s.modPart p fun v => { v with epoch := v.epoch + 1 } else s) s
  let s := s.newRound
  let s := (rs.filter fun r => r.type = 7).foldl State.applyMbx s
  { s with shadow := want, boot := { s.boot with epochs := marks } }

end Sys2Proof.Machine
end

