-- ==== Sys2Proof/Machine/Boot.lean ====
section
/-! DEFINITION. From power to hand-over and configuration: resets and straps (R7, R10 to R18, R20, R25, R30, R421, R432), the ROM's
boot (R29, R377 to R383, R395), transitions (R312 to R317, R423), recovery through the boot window (R392 to R394), and the runtime
writing of slots (R398). -/
namespace Sys2Proof.Machine

-- ## Resets (R7, R18, R432)

/-- A fuse under a pulse when power or the reset cuts it short. -/
def State.cutPulse (s : State) (left : FuseOutcome) : Otp :=
  match s.otp.job with
  | some j => match j.bits with
    | (w, b) :: _ => s.otp.pulse w b left
    | [] => s.otp
  | none => s.otp

/-- What the fall of PORST_N leaves: the always-on records, the TAP, the I3C target, the fuses, the flash and LPDDR5X (R432,
R446; DEDUCED [log 32]). -/
def State.porReset (s : State) (left : FuseOutcome) : State :=
  let otp := s.cutPulse left
  let jtag (l : List Session) : List Session := l.filter fun x => x == .jtag
  { pending := s.pending
    drawn := s.drawn
    edge := { thermShutdown := s.edge.thermShutdown, regAlertLow := s.edge.regAlertLow }
    i3c := s.i3c
    dbg := { s.dbg with sessions := jtag s.dbg.sessions, refused := 0, begun := 0, toExtend := jtag s.dbg.toExtend
                        toTally := jtag s.dbg.toTally }
    mem := s.mem.filter fun kv => lpBase ≤ kv.1 && kv.1 < lpBase + 6 * lpStride
    poison := s.poison.filter fun a => lpBase ≤ a && a < lpBase + 6 * lpStride
    saltern := { tamperCount := s.saltern.tamperCount }
    otp := { fuses := otp.fuses, weak := otp.weak }
    flash := s.flash
    attest := { debugEver := !(jtag s.dbg.toExtend).isEmpty }
    errs := { fatal := s.errs.fatal, fatalCause := s.errs.fatalCause, records := s.errs.records, recs := s.errs.recs }
    sent := s.sent }

/-- PORST_N falls; nothing happens where it is low already. -/
def execPorstNFall (left : FuseOutcome) (s : State) : Host.Outcome State Fault Refusal :=
  .next (if s.edge.porst then s.porReset left else s)

/-- VDD_AON enters its range: the TAP resets, and the I3C target and the tamper logic come alive (R9, R421). -/
def execVddAonRise (s : State) : Host.Outcome State Fault Refusal :=
  .next (if s.edge.aonUp then s else
    { s with edge := { s.edge with aonUp := true }, i3c := {}, dbg := { s.dbg with tap := .idcode, shiftOut := 0x24E649AF } })

/-- VDD_AON leaves its range: a reset that also loses the always-on state. How a pulse under way leaves its bit is not fixed. -/
def vddAonLoss (s : State) : State :=
  if !s.edge.aonUp then s else
    let (k, s) := s.draw
    let left : FuseOutcome := match (freeCycles k).toNat % 3 with | 0 => .unprogrammed | 1 => .weak | _ => .programmed
    let s := s.porReset left
    { s with edge := { aonUp := false, regAlertLow := s.edge.regAlertLow }, i3c := {}, dbg := {}, saltern := {}, attest := {}
             errs := {} }

def execVddAonLoss (s : State) : Host.Outcome State Fault Refusal := .next (vddAonLoss s)

/-- Three samples of ADDR_SEL agree, or the last group's last sample is taken (R10, R421): groups end at AON cycle 64. -/
def i3cSample (a b c : BitVec 3) (s : State) : State :=
  let t := s.i3c
  if !s.edge.aonUp || t.sampled then s
  else if (a == b && b == c) || t.groups = 16 then
    { s with i3c := { t with sampled := true, addrSel := c, groups := t.groups + 1 } }
  else { s with i3c := { t with groups := t.groups + 1 } }

def execI3cAddrSample (a b c : BitVec 3) (s : State) : Host.Outcome State Fault Refusal := .next (i3cSample a b c s)

-- ## Stops (R18, R20, R30)

/-- A rail other than VDD_AON and the VDD_PAN inputs leaves its range. -/
def execRailFault (_rail : Rail) (s : State) : Host.Outcome State Fault Refusal :=
  .next (if s.edge.porst && !s.edge.stopped then s.fatal 1 10 0x52 else s)

/-- REFCLK is lost: REFCLK_OK falls and the target of the management bus runs on the AON oscillator, on a stopped device too, whose
first cause stands (R20, R31, R445). -/
def execRefclkLoss (s : State) : Host.Outcome State Fault Refusal :=
  .next (if s.edge.porst then
    let s := if s.edge.stopped then s else s.fatal 2 11 0x53
    { s with edge := { s.edge with refclkOk := false }, i3c := { s.i3c with onRefclk := false } }
  else s)

/-- Every domain but the always-on one and the DRAM's self-refresh is gated: pan memories and Saltern SRAM are lost, and what they
held before is reached by nothing (R30). -/
def State.goDark (s : State) : State :=
  { s with edge := { s.edge with dark := true }
           mem := s.mem.filter fun kv => decide (kv.1 < 0x3000000000)
           poison := s.poison.filter fun a => decide (a < 0x3000000000) }

/-- A sensor reaches 125 °C, whether or not an earlier FATAL error has stopped the device (R30, R31, R445). -/
def execThermShutdown (s : State) : Host.Outcome State Fault Refusal :=
  .next (if s.edge.porst then
    let s := (if s.edge.stopped then s else s.fatal 3 12 0x54).goDark
    { s with edge := { s.edge with thermShutdown := true } }
  else s)

-- ## The request area (R315, R329)

-- TRANS_RESULT codes (Table 12.9).
def trDone : BitVec 4 := 1
def trFormat : BitVec 4 := 2
def trDevice : BitVec 4 := 3
def trStale : BitVec 4 := 4
def trNotAllowed : BitVec 4 := 5
def trSigner : BitVec 4 := 6
def trSignature : BitVec 4 := 7
def trNoVpp : BitVec 4 := 8
def trExhausted : BitVec 4 := 9
def trProgFail : BitVec 4 := 10

/-- The request area, 8 KiB. -/
def State.request (s : State) : List Byte := (List.range 0x2000).map fun i => Tab.look s.boot.area 0 i

/-- The request area holds a request: its MAGIC word stands (R316). -/
def State.requested (s : State) : Bool := leAt s.request 0 4 == 0x4E344C54

-- ## The ROM (R29, R316, R341, R377 to R381, R423)

/-- The TAP's instruction gives boundary scan control of the pins (R13). -/
def TapInstr.controls : TapInstr → Bool
  | .extest | .highz | .clamp => true
  | .idcode | .samplePreload | .dbg | .bypass => false

/-- The checkpoint area as the ROM finds it: the next free page, and each sector's erase count (R237; DEDUCED [log 33]). -/
def State.scanCkpt (s : State) : State :=
  let pages := ((List.range 1024).map fun i => (i, s.flashRead (ckptArea + 4096 * i) 64)).filter fun r =>
    leAt r.2 0 4 == 0x4E345443 && leAt r.2 4 2 == 1
  let newest := pages.foldl (fun (m : Option (Nat × Nat)) r =>
    match m with
    | none => some (leAt r.2 0x10 8, r.1)
    | some x => if x.1 ≤ leAt r.2 0x10 8 then some (leAt r.2 0x10 8, r.1) else some x) none
  let erases := pages.foldl (fun (t : Tab Nat) r => t.put 0 (r.1 / 16) (max (t.look 0 (r.1 / 16)) (leAt r.2 0x18 4))) []
  { s with tally := { s.tally with nextPage := match newest with | some x => (x.2 + 1) % 1024 | none => 0
                                   sectorErases := erases } }

/-- The path of the boot (R12, R377, R379). -/
def State.choosePath (s : State) : State :=
  let sel := s.edge.bootsel.toNat
  let refused := sel == 1 && s.policy polNoN16
  let path : BitVec 2 := if sel = 1 && !refused then 1 else if sel = 2 then 2 else 0
  { s with boot := { s.boot with path, n16Refused := refused
                                 goldenForced := s.edge.golden && !s.policy polNoGolden && path != 2 } }

def State.setPhase (s : State) (p : Phase) : State := { s with saltern := { s.saltern with phase := p } }
def State.setStage (s : State) (b : BootStage) : State := { s with boot := { s.boot with stage := b } }
def State.setNeed (s : State) (n : BitVec 3) : State := { s with boot := { s.boot with need := n } }
def State.setTrans (s : State) (c : BitVec 4) : State := { s with saltern := { s.saltern with transResult := c } }

/-- The ROM stops in SCRAPPED (R312). -/
def State.stopScrapped (s : State) : State :=
  ({ s with edge := { s.edge with faultLow := true } } : State).setPhase .stopped |>.setStage .halted

/-- After the examination point: MR5, and the first keys (R309, R400). -/
def State.afterExamine (s : State) : State :=
  let s := s.extendLc.deriveDevice.setPhase .rom
  if s.lcState = 5 then s.stopScrapped else s.setStage .firmware

/-- The ROM from the straps to the examination point. In SCRAPPED it stops (R312). -/
def State.romStart (s : State) (env : BootEnv) : State :=
  let s := (bootRead env s).powerGroups
  if s.lcState = 5 then s.stopScrapped
  else
    let s := s.choosePath
    let s := { s with edge := { s.edge with xspiOctal := env.flashOk, xspiDriven := true }
                      boot := { s.boot with flashPresent := env.flashOk, noErase := env.flashOk && !env.flashErase } }
    let s := s.loadCode false
    let s := { s with boot := { s.boot with count := s.formCount } }
    let s := if env.flashOk then s.scanCkpt else s
    let s := s.dbg.toExtend.foldl (fun s x => s.extendDebug x) s.extendOtp
    let s := { s with dbg := { s.dbg with toExtend := [] } }
    if s.i3c.holdLatch then
      (({ s with i3c := { s.i3c with holdLatch := false } } : State).setPhase .transition).setStage .examine
    else (if s.boot.afterSlack && s.requested then s.setTrans trNotAllowed else s).afterExamine

-- ## Firmware

def State.noteSlot (s : State) (i code : Nat) : State :=
  { s with boot := { s.boot with slots := BitVec.ofNat 24 (setFld s.boot.slots.toNat (4 * i) 4 code) } }

/-- Recovery: what is awaited, and the cause where one applies (R392). -/
def State.recover (s : State) (cause : Option (BitVec 4)) (need : BitVec 3) : State :=
  { s with boot := { s.boot with recovery := cause.getD s.boot.recovery, need }
           saltern := { s.saltern with phase := .recovery } }

/-- A bundle in use (R378, R382). -/
def State.takeBundle (s : State) (src : BitVec 4) (sfw pfw : List Byte) : State :=
  let svn := setFld (setFld s.boot.svn.toNat 0 8 (cappedSvn .sfw sfw)) 8 8 (cappedSvn .pfw pfw)
  { s with boot := { s.boot with sfw := some sfw, pfw := some pfw, fwSrc := src, svn := BitVec.ofNat 24 svn
                                 rsaUsed := s.boot.rsaUsed || imgRsa sfw || imgRsa pfw } }

/-- Bundles tried in order: FW_SRC code, place, and the field of GLB_BOOT_SLOTS that takes the code. -/
def State.tryBundles (s : State) : List (Nat × Nat × Nat) → State
  | [] => s.recover (some 3) 1
  | (src, a, slot) :: l =>
    let n16 := s.boot.path == 1
    let sfw := s.flashImage .sfw a
    let pfw := s.flashImage .pfw (a + 0x40000)
    let code := s.checkBundle n16 sfw pfw
    let s := (s.land .sfw 0 sfw).noteSlot slot code
    if code = icOk then s.takeBundle (BitVec.ofNat 4 src) sfw pfw else s.tryBundles l

/-- A and B in descending SVN, A first on a tie, then G (R378). -/
def State.nativeOrder (s : State) : List (Nat × Nat × Nat) :=
  let svn (a : Nat) := leNat (s.flashRead (a + 8) 4)
  let a := (0, slotA, 0)
  let b := (1, slotB, 1)
  (if svn slotA < svn slotB then [b, a] else [a, b]) ++ [(2, slotG, 2)]

/-- The source list's entries up to its first host push (R380); none where MAGIC is wrong. -/
def State.sourceList (s : State) : Option (List (Nat × Nat × Nat) × Bool) :=
  let l := s.flashRead 0 0x100
  if leAt l 0 4 ≠ 0x4E31534C then none else
    let n := min 8 (max 1 (leAt l 4 1))
    let es := (List.range n).map fun i => (leAt l (0x14 + 16 * i) 1, (8 + i, leAt l (0x10 + 16 * i) 4 / 65536 * 65536, 0))
    some ((es.takeWhile fun e => e.1 = 0).map (·.2), es.any fun e => e.1 ≠ 0)

/-- The sources of a boot, in order (R378 to R381). A source list that ends in a host push enters recovery as HOST_PUSH does (DEDUCED
[log 34]). -/
def State.selectFirmware (s : State) : State :=
  if s.boot.path = 2 then s.recover (some 1) 1
  else if !s.boot.flashPresent then s.recover (some 2) 1
  else if s.boot.goldenForced then s.tryBundles [(2, slotG, 2)]
  else if s.boot.path = 1 then
    match s.sourceList with
    | none => s.tryBundles s.nativeOrder
    | some (es, push) =>
      let t := s.tryBundles es
      if t.boot.need ≠ 0 && push then t.recover (some 1) 1 else t
  else s.tryBundles s.nativeOrder

/-- The boot's first tally entry (R233, R235). -/
def State.beginTally (s : State) : State :=
  let head : DWord := BitVec.ofNat 64 (s.boot.count.toNat % 2 ^ 24 * 2 ^ 40)
  let s := { s with tally := { s.tally with begun := true, head } }
  s.tallyPut (evEntry 0x80 evBoot 0xFF 0 0 0)

/-- The Saltern's working data in the reserve (R116): zero since the boot clear, and the firmware's own once it runs. -/
def workData : Nat := reserveBase + 0x3000000
/-- The reserve's area for the state saved for SLACK and the link record of the boot (R116), 1 MiB. -/
def savedState : Nat := reserveBase + 0xB00000

/-- Steps 4 to 7 of Table 15.11 for an accepted bundle: copies, MR0, CDI, MR2, the engine's programs, locks, hand-over and the
known-answer test (R328, R355, R382). -/
def State.handOver (s : State) (sfw pfw : List Byte) : State :=
  let kat := match s.boot.env with | some e => e.katOk | none => true
  let s := (((s.writeKnown sramFirmware sfw).forget workData 0xC00000).write reserveBase pfw).write (reserveBase + 0x900000) sfw
  let s := s.extend 0 0x01 0 (some (leBytes 48 romDigest.toNat))
  let s := (s.extend 0 0x02 0 (some (imgDigest sfw))).deriveCdi
  let s := s.extend 2 0x03 0 (some (imgDigest pfw))
  let s := (((s.loadCode true).zeroiseSlot 0).settleEngines).setLocks [8, 9, 10, 11, 12, 13]
  let s := { s with eng := { s.eng with katFail := !kat }, saltern := { s.saltern with phase := .firmware }
                    boot := { s.boot with stage := .config } }
  s.beginTally

-- ## Configuration

/-- A configuration image in use: steps 8 of Table 15.11 (R383, R386, R387, R391). -/
def State.takeConfig (s : State) (src : BitVec 4) (img : List Byte) : State :=
  let s := s.write (reserveBase + 0xA00000) img
  let svn := setFld s.boot.svn.toNat 16 8 (cappedSvn .cfg img)
  let s := { s with saltern := { s.saltern with phase := .firmware }
                    boot := { s.boot with cfg := some img, cfgSrc := src, bind := s.bindingFor img, svn := BitVec.ofNat 24 svn
                                          stage := .certs } }
  (((s.extend 1 0x04 0 (some (imgDigest img))).writeBind).commitSvns).deriveAlias

/-- Configuration slots tried in order; the flag says that the last one tried was refused for its binding. -/
def State.tryConfigs (s : State) (refused : Bool) : List (Nat × Nat × Nat) → State
  | [] => s.recover (some (if refused then 5 else 4)) 4
  | (src, a, slot) :: l =>
    let img := s.flashImage .cfg a
    let code := s.checkImage .cfg false img
    let s := (s.land .cfg 0 img).noteSlot slot code
    if code ≠ icOk then s.tryConfigs false l
    else if s.bindingFor img = bdRefused then
      ({ s with boot := { s.boot with bind := bdRefused } } : State).tryConfigs true l
    else s.takeConfig (BitVec.ofNat 4 src) img

def State.selectConfig (s : State) : State :=
  if s.boot.path = 2 || !s.boot.flashPresent then s.recover none 4
  else
    let svn (a : Nat) := leNat (s.flashRead (a + 8) 4)
    let a := (0, configA, 3)
    let b := (1, configB, 4)
    s.tryConfigs false (if svn configA < svn configB then [b, a] else [a, b])

def State.cfgRecs (s : State) : List CfgRec × Bool :=
  match s.boot.cfg with
  | some img => let r := parseRecs (imgLen img / 4 + 2) (imgPayload img); (lastRecs r.1, r.2)
  | none => ([], false)

/-- The DEVICE record and training; LPDDR5X is cleared where the configuration says so (R140, R256). -/
def State.applyFirst (s : State) : State :=
  let (rs, bad) := s.cfgRecs
  let s := { s with boot := { s.boot with clamp := if bad then cRsv else 0 } }
  let s := (rs.filter fun r => r.type = 1).foldl State.applyDevice s
  let s := s.trainPorts
  let clear := (bitAt s.memSys.memCfg.toNat 10 || bitAt s.memSys.memCfg.toNat 11) && s.edge.lpPort != 0
  { s with boot := { s.boot with stage := if clear then .lpClear else .apply } }

/-- Everything else of the image, the mailbox table and the firmware's locks. -/
def State.applyRest (s : State) : State :=
  let (rs, _) := s.cfgRecs
  let s := (s.applyConfig (rs.filter fun r => r.type ≠ 1)).setLocks [14, 15]
  let first : DWord := BitVec.ofNat 64 (s.boot.count.toNat % 2 ^ 24 * 2 ^ 40)
  let s := s.tallyMod first fun e => { e with clamp := s.boot.clamp }
  { s with boot := { s.boot with stage := .waitReady } }

/-- The alias certificates can be made at all: the keys stand and the engine works (R311, R355, R432). -/
def State.canSign (s : State) : Bool :=
  !s.eng.katFail && [1, 2, 5, 6].all (fun n => (s.key n).type != 0) && s.eng.drbg != .error

-- ## The flow

/-- The next step of the boot; none where it waits for an event. -/
def State.bootStep (s : State) : Option State :=
  if s.edge.stopped || s.saltern.halted then none else
    match s.boot.stage with
    | .rom => s.boot.env.map s.romStart
    | .firmware =>
      match s.boot.sfw, s.boot.pfw with
      | some a, some b => if s.boot.cleared then some (s.handOver a b) else none
      | _, _ =>
        if s.boot.need ≠ 0 || !(s.boot.cleared || s.boot.path == 2 || !s.boot.flashPresent) then none else some s.selectFirmware
    | .config => if s.boot.need ≠ 0 then none else some s.selectConfig
    | .certs =>
      if !s.canSign then some s.applyFirst
      else if s.drbgWaits then none else some s.issueCerts.applyFirst
    | .apply => some s.applyRest
    | .off | .straps | .examine | .lpClear | .waitReady | .done | .halted => none

/-- The boot runs until it waits. -/
def State.bootRun (fuel : Nat) (s : State) : State :=
  match fuel with
  | 0 => s
  | fuel + 1 =>
    match s.bootStep with
    | none => s
    | some t => State.bootRun fuel t

def State.boots (s : State) : State := s.bootRun 16

/-- PORST_N rises (R424): the supplies and clocks are good, both modules start training, and the strap window starts unless boundary
scan holds the pins. -/
def porstRise (env : BootEnv) (s : State) : State :=
  if !s.edge.aonUp || s.edge.porst then s else
    let flash := match env.flashImage with | some m => { cells := m.foldl (fun (t : Tab Byte) kv => t.put 0xFF kv.1 kv.2) [] } | none => s.flash
    { s with
      flash
      edge := { s.edge with porst := true, refclkOk := true, panSupplyGood := true, ucie0 := .training, ucie1 := .training
                            strapWindow := !s.dbg.tap.controls }
      boot := { s.boot with stage := .straps, env := some env } }

def execPorstNRise (env : BootEnv) (s : State) : Host.Outcome State Fault Refusal := .next (porstRise env s)

/-- The strap window starts once the TAP holds no boundary-scan control instruction (R13). -/
def execStrapWindowStart (s : State) : Host.Outcome State Fault Refusal :=
  .next (if s.boot.stage == .straps && !s.edge.strapWindow && !s.dbg.tap.controls && !s.edge.stopped then
    { s with edge := { s.edge with strapWindow := true } } else s)

/-- A group of three samples; the 17th ends at AON cycle 64 (R10). Latched straps let the ROM run. -/
def strapSample (a b c : StrapPins) (s : State) : State :=
  let e := s.edge
  if s.boot.stage != .straps || !e.strapWindow || e.strapsLatched || e.stopped then s
  else if (a == b && b == c) || e.strapGroups = 16 then
    let s := { s with
      edge := { e with strapsLatched := true, strapGroups := e.strapGroups + 1, bootsel := c.bootsel, addrSel := c.addrSel
                       golden := !c.goldenN, unstable := !(a == b && b == c) }
      boot := { s.boot with stage := .rom } }
    s.boots
  else { s with edge := { e with strapGroups := e.strapGroups + 1 } }

def execStrapSample (a b c : StrapPins) (s : State) : Host.Outcome State Fault Refusal := .next (strapSample a b c s)

/-- Where the reserve keeps the link record of the boot: the last 8 KiB of the area that R116 gives it with the state saved for SLACK
(DESIGN CHOICE [log 64]: the place within the area). -/
def linkCopy : Nat := savedState + 0xFE000

/-- The boot clear ends: of every vault and pan, or, after training, of every port (R139, R140). Its verification waits until the DRBG is
instantiated (R364). The event log's entries so far then stand in the reserve (R404). -/
def bootClearDone (v : ClearVerdict) (s : State) : State :=
  if s.edge.stopped || s.boot.stage == .off || s.boot.stage == .straps || s.boot.stage == .halted
      || s.eng.drbg == .uninstantiated then s
  else if !s.boot.cleared then
    let (_, s) := s.verify v ((List.range 8).map fun i => (i * vaultSize, vaultSize)) (pansAll.filter fun p => !(s.pan p).bunded) {}
    let s := { s with boot := { s.boot with cleared := true }
                      memSys := { s.memSys with known := s.memSys.known ++ [(savedState, 0x100000), (workData, 0xC00000)] } }
    let s := match s.boot.linkRecord with | some l => s.writeKnown linkCopy l | none => s
    (s.attest.log.zipIdx.foldl (fun s e => s.write (logBase + 64 * e.2) (e.1.bytes e.2)) s).boots
  else if s.boot.stage == .lpClear then
    let rs := s.lpRanges.zipIdx.filter fun r => s.edge.lpPort.getLsbD r.2
    let (_, s) := s.verify v (rs.map (·.1)) [] {}
    (s.setStage .apply).boots
  else s

def execBootClearDone (v : ClearVerdict) (s : State) : Host.Outcome State Fault Refusal := .next (bootClearDone v s)

/-- A pan's self-test ends: a failed step bunds it, and its memories are cleared (R447). -/
def selfTestDone (p : Nat) (pass : Bool) (s : State) : State :=
  if s.edge.stopped || s.boot.stage == .off || s.boot.stage == .straps || s.boot.stage == .halted || s.boot.tested.getLsbD p then s
  else
    let s := { s with boot := { s.boot with tested := s.boot.tested ||| BitVec.ofNat 64 (2 ^ p) } }
    if pass then s.wipePan p else s.bundPan p 13 {}

def execSelfTestDone (p : BitVec 6) (pass : Bool) (s : State) : Host.Outcome State Fault Refusal :=
  .next (selfTestDone p.toNat pass s)

-- ## Training (R25, R206)

def State.setLink (s : State) (m1 : Bool) (l : Link) : State :=
  let s := { s with edge := if m1 then { s.edge with ucie1 := l } else { s.edge with ucie0 := l } }
  if s.edge.ucie0 == .down && s.edge.ucie1 == .down then { s with edge := { s.edge with faultLow := true } } else s

/-- A module ends its training; one lost after its retraining is recorded (Table 18.2). -/
def trainingDone (m1 : Bool) (res : Training) (s : State) : State :=
  let l := s.link m1
  if s.edge.stopped || (l != .training && l != .retraining) then s else
    match res with
    | .at32 => s.setLink m1 .up32
    | .at16 => s.setLink m1 .up16
    | .failed => (if l == .retraining then s.record eLink 14 (0x4E + b2n m1) 0 {} else s).setLink m1 .down

def execUcieTrainingDone (module1 : Bool) (res : Training) (s : State) : Host.Outcome State Fault Refusal :=
  .next (trainingDone module1 res s)

/-- A module drops out after training: it is retrained once, so that the end of that retraining decides (R25; DEDUCED [log 47]: each
drop has its own retraining). -/
def moduleDrop (m1 : Bool) (s : State) : State :=
  if s.edge.stopped || !(s.link m1).isUp then s else s.setLink m1 .retraining

def execUcieModuleDrop (module1 : Bool) (s : State) : Host.Outcome State Fault Refusal := .next (moduleDrop module1 s)

-- ## Transitions (R312 to R317)

/-- The rows of Table 12.7: from a state, by an action and a signer, to a state and an epoch step. -/
def transitionTo (lc action signer : Nat) : Option (Nat × Nat) :=
  let vendor := signer < 4
  let owner := signer == 0x10
  match action, lc with
  | 1, 0 => if vendor then some (1, 0) else none
  | 1, 1 => if vendor then some (2, 0) else none
  | 1, 3 => if owner then some (4, 0) else none
  | 2, 2 => if signer = 0x11 then some (3, 1) else none
  | 2, 3 => if owner then some (3, 1) else none
  | 3, 3 => if owner then some (3, 1) else none
  | 4, 0 => if vendor then some (5, 0) else none
  | 4, 1 => if vendor then some (5, 0) else none
  | 4, 2 => if vendor then some (5, 0) else none
  | 4, 3 => if owner || vendor then some (5, 0) else none
  | 4, 4 => if owner || vendor then some (5, 0) else none
  | _, _ => none

/-- The first owner record not yet used. -/
def State.freeRecord (s : State) : Option Nat := ownerRecords.find? fun r => !s.recordUsed r

/-- The digest of the key that a request's SIGNER names; none for a key that is unknown or revoked. -/
def State.transKey (s : State) (q : List Byte) : Option (List Byte) :=
  let sg := leAt q 0x70 1
  if sg < 4 then (if s.vkeyKind sg = 1 && !s.revoked sg then some (s.vkeyDigest sg) else none)
  else if sg = 0x10 then s.ownerDigest
  else some (slice q 0x40 48)

/-- Steps 1 to 6 of R316: the code of the first that fails, or the new state and epoch. -/
def State.transCheck (s : State) (q : List Byte) : Except (BitVec 4) (Nat × Nat) :=
  let action := leAt q 6 1
  let sg := leAt q 0x70 1
  let ecc := slice q 0x80 96
  let ml := slice q 0x140 1952
  if leAt q 4 2 ≠ 1 || 1 < leAt q 7 1 || !zeroBytes (slice q 0x3A 2) || !zeroBytes (slice q 0x71 15) || action = 0 || 4 < action
      || !(sg < 4 || sg == 0x10 || sg == 0x11) then .error trFormat
  else if slice q 8 48 != s.deviceDigest then .error trDevice
  else if leAt q 0x38 1 ≠ s.lcState || leAt q 0x39 1 ≠ s.epoch || leAt q 0x3C 4 ≠ s.boot.count.toNat then .error trStale
  else match transitionTo s.lcState action sg with
    | none => .error trNotAllowed
    | some (lc, up) =>
      if up = 1 && (s.epoch = 32 || (action = 2 && s.freeRecord.isNone)) then .error trExhausted
      else if !sameDigest (s.transKey q) (sha384 (ecc ++ ml)) then .error trSigner
      else if !keySetVerifies ecc ml (slice q 0xE0 96) (slice q 0x8E0 3309) (slice q 0 128) then .error trSignature
      else if !s.otp.vpp then .error trNoVpp
      else .ok (lc, s.epoch + up)

/-- The fuses of step 8, in order: record digest, epoch position, start word, LIFECYCLE positions. -/
def State.transFuses (s : State) (q : List Byte) (lc epoch : Nat) : List (Nat × Nat) :=
  let owner := if leAt q 6 1 = 2 then s.freeRecord else none
  let digest := match owner with
    | some r => (List.range 12).flatMap fun i => s.bitsFor (ownerWord r + i) (leAt q (0x40 + 4 * i) 4)
    | none => []
  let start := match owner with
    | some r => s.bitsFor (ownerWord r + 12) (epoch + (0xFFFF - epoch) * 2 ^ 16)
    | none => []
  digest ++ thermBits 0x280 s.epoch epoch ++ start ++ thermBits 0x100 s.lcState lc

/-- Step 7: the link record of a request that has one (R316, R411). -/
def State.prepareLink (s : State) (q : List Byte) (lc epoch : Nat) : Option (Option (List Byte) × State) :=
  if !s.udsUsable || leAt q 6 1 = 4 || bitAt (leAt q 7 1) 0 then some (none, s)
  else
    let u := s.uds
    let p := [BitVec.ofNat 8 lc, BitVec.ofNat 8 epoch] ++ s.deviceDigest
    let ecc := p384.pair (p384.public (p384.scalar (deviceEccBits u p)))
    let body := linkBody (s.lcState, s.epoch) (lc, epoch) s.boot.count.toNat s.deviceDigest ecc (mlPublic (deviceMlBits u p))
    (linkRecord body (asMaterial kP384 (deviceEccBits u s.prefixP)) (deviceMlBits u s.prefixP) s).map fun r => (some r.1, r.2)

/-- Steps 8 to 10. Where LC_FUSES already stands, at a wake from SLACK, no fuse is programmed (R328; DEDUCED [log 40]). -/
def State.transProgram (s : State) (q : List Byte) (lc epoch : Nat) (link : Option (List Byte)) : State :=
  let (ok, s) := if s.canBurn && !s.lock 12 then s.burn (s.transFuses q lc epoch) else (false, s)
  let s := { s with otp := { s.otp with shadow := s.otp.fuses } }
  if !ok then s.setTrans trProgFail
  else
    let s := s.zeroiseWhere fun k => k.type != 0
    let area := match link with | some l => Tab.span [] 0 0 l | none => []
    let s := { s with boot := { s.boot with area, linkRecord := link }, saltern := { s.saltern with transResult := trDone } }
    s.extend 5 0x08 (BitVec.ofNat 8 (leAt q 6 1)) (some (sha384 (slice q 0 128)))

/-- The wait of R423 is over: the MAGIC word stands, or a module has come up and its time has passed, or both are down. -/
def State.examineDue (s : State) : Bool :=
  s.requested || s.edge.ucie0.isUp || s.edge.ucie1.isUp
    || (s.edge.ucie0 == .down && s.edge.ucie1 == .down)

/-- The ROM examines the request area (R316, R423). A link record waits for the DRBG. A request in a boot that follows a wake from SLACK
is refused (R314, Table 12.9). -/
def transitionExamine (s : State) : State :=
  if s.boot.stage != .examine || s.edge.stopped || s.saltern.halted || !s.examineDue then s else
    let q := s.request
    if !s.requested then s.afterExamine.boots
    else if s.boot.afterSlack then (s.setTrans trNotAllowed).afterExamine.boots
    else match s.transCheck q with
      | .error c => (s.setTrans c).afterExamine.boots
      | .ok (lc, epoch) =>
        match s.prepareLink q lc epoch with
        | none => s
        | some (link, s) => (s.transProgram q lc epoch link).afterExamine.boots

def execTransitionExamine (s : State) : Host.Outcome State Fault Refusal := .next (transitionExamine s)

-- ## The boot window (R392 to R394)

def State.pushBuf (s : State) (n : Nat) : List Byte := (List.range n).map fun i => Tab.look s.boot.buffer 0 i

/-- A bundle written to a slot in the order of R398; false where the write fails, which leaves the slot as it was (DESIGN CHOICE [log 54]:
R398 leaves open what sectors whose write failed hold). -/
def State.writeBundle (s : State) (a : Nat) (sfw pfw : List Byte) : Bool × State :=
  if !s.flashGood then (false, s) else
    (true, ((s.flashErase a 0x1000000).flashProg (a + 0x40000) pfw).flashProg a sfw)
def State.writeConfig (s : State) (a : Nat) (img : List Byte) : Bool × State :=
  if !s.flashGood then (false, s) else (true, (s.flashErase a 0x100000).flashProg a img)

/-- The result of a push stands in the status block and in GLB_BOOT_SLOTS. -/
def State.pushDone (s : State) (code : Nat) : State :=
  ({ s with boot := { s.boot with pushResult := BitVec.ofNat 8 code, holder := none, pushed := none } } : State).noteSlot 5 code

/-- An image whose LAST chunk has arrived (R393): checked, used, and written back where asked. Which chunk's flags decide the write-back
of a bundle: the PFW's (DEDUCED [log 35]). -/
def State.pushImage (s : State) (k : ImgKind) (bytes : List Byte) (back second : Bool) : State :=
  let need := headerLen + imgLen bytes
  let img := bytes.take need
  let ok := if need < bytes.length then icTrunc else icOk
  let wrote (good : Bool × State) : State := good.2.pushDone (if good.1 then ok else icFlash)
  let finish (s : State) (write : State → Bool × State) : State :=
    if back && s.boot.flashPresent then wrote (write s) else s.pushDone ok
  if bytes.length < headerLen || bytes.length < need then s.pushDone icShort
  else
    let n16 := s.boot.path == 1
    let code := match k, s.boot.sfw with
      | .pfw, some sfw => s.checkBundle n16 sfw img
      | _, _ => s.checkImage k n16 img
    if code ≠ icOk then s.pushDone code
    else match k with
      | .sfw => ({ s with boot := { s.boot with sfw := some img, need := 2 } } : State).pushDone ok
      | .pfw =>
        let sfw := s.boot.sfw.getD []
        let s := ((s.setNeed 0).setPhase .rom).takeBundle 3 sfw img
        (finish s fun s => s.writeBundle (if second then slotB else slotA) sfw img).boots
      | .cfg =>
        if s.bindingFor img = bdRefused then
          ({ s with boot := { s.boot with bind := bdRefused, recovery := 5 } } : State).pushDone ok
        else
          let s := (s.setNeed 0).takeConfig 2 img
          (finish s fun s => s.writeConfig (if second then configB else configA) img).boots

/-- A chunk taken: SEQ is echoed once PUSH_RESULT stands. -/
def State.ackPush (s : State) (ctrl : QWord) : State :=
  { s with boot := { s.boot with ackSeq := BitVec.ofNat 16 (fld ctrl.toNat 0 16) } }

def pushKind (ctrl : QWord) : Option ImgKind :=
  match fld ctrl.toNat 16 8 with | 1 => some .sfw | 2 => some .pfw | 3 => some .cfg | _ => none

/-- A chunk of an image (R393). -/
def State.pushChunk (s : State) (ini : Ini) (ctrl : QWord) : State :=
  let x := ctrl.toNat
  let flags := fld x 24 8
  let s := if bitAt flags 0 then { s with boot := { s.boot with holder := some ini } } else s
  let awaited := match pushKind ctrl with
    | some k => s.boot.need.getLsbD (k.code - 1)
    | none => false
  if !awaited then
    let s := { s with boot := { s.boot with pushResult := BitVec.ofNat 8 icKind, holder := if bitAt flags 1 then none else s.boot.holder } }
    s.ackPush ctrl
  else
    let k := (pushKind ctrl).getD .sfw
    let kc : BitVec 4 := BitVec.ofNat 4 k.code
    let sofar := match s.boot.pushed with
      | some (c, l) => if c = kc && !bitAt flags 0 then l else []
      | none => []
    if fld x 32 32 ≠ sofar.length then
      ({ s with boot := { s.boot with pushResult := BitVec.ofNat 8 icSequence } } : State).ackPush ctrl
    else
      let chunk := s.pushBuf (min 49152 (fld x 64 32))
      let l := sofar ++ chunk
      let s := s.land k sofar.length chunk
      if bitAt flags 1 then (s.pushImage k l (bitAt flags 2) (fld x 96 8 != 0)).ackPush ctrl
      else ({ s with boot := { s.boot with pushed := some (kc, l), pushResult := 0 } } : State).ackPush ctrl

/-- ABANDON from the holder, or while there is none. -/
def State.abandonPush (s : State) (ctrl : QWord) : State :=
  let s := if s.boot.holder.isSome then { s with boot := { s.boot with holder := none, pushed := none } } else s
  s.ackPush ctrl

/-- A whole write of PUSH_CTRL: another initiator than the holder is denied; the Saltern acts on it once it runs. -/
def pushCtrl (ini : Ini) (ctrl : QWord) (s : State) : BitVec 4 × State :=
  let other := match s.boot.holder with | some h => h != ini | none => false
  if other then (rDenied, s)
  else if s.saltern.halted then (rOk, { s with boot := { s.boot with ctrl := some (ini, ctrl) } })
  else (rOk, if fld ctrl.toNat 16 8 = 15 then s.abandonPush ctrl else s.pushChunk ini ctrl)

/-- The boot window takes writes of offsets 0x0100 and above before READY, and is denied after it (R205, R392; Table 17.2). -/
def State.windowOpen (s : State) : Bool := s.boot.stage != .halted && s.edge.porst

/-- A write of PUSH_CTRL by its own row: the row's KIND decides which of the two it is. -/
def pushRow (abandon : Bool) (r : Req) (ctrl : QWord) (s : State) : State :=
  if !(s.link r.module1).isUp || s.edge.stopped || (fld ctrl.toNat 16 8 == 15) != abandon then s
  else if 64 ≤ r.ini.toNat then s.respond r rMalformed []
  else if s.edge.ready && s.ctlHeld r.module1 then s
  else if s.edge.ready then s.respond r rDenied []
  else if !s.windowOpen then s.respond r rNotReady []
  else let (st, s) := pushCtrl r.ini ctrl s; s.respond r st []

def execPushChunk (r : Req) (ctrl : QWord) (s : State) : Host.Outcome State Fault Refusal := .next (pushRow false r ctrl s)
def execAbandon (r : Req) (ctrl : QWord) (s : State) : Host.Outcome State Fault Refusal := .next (pushRow true r ctrl s)

/-- The status block of the boot window (Table 15.9). -/
def State.statusBlock (s : State) : List Byte :=
  leBytes 4 0x4E344257 ++ leBytes 4 s.bootStatus ++ leBytes 4 s.boot.slots.toNat ++ leBytes 4 s.boot.count.toNat
    ++ [BitVec.ofNat 8 (phaseCode s.saltern.phase), BitVec.ofNat 8 s.boot.need.toNat] ++ leBytes 2 s.boot.ackSeq.toNat
    ++ [s.boot.pushResult, s.boot.holder.getD 0xFF, 0, 0] ++ leBytes 4 s.strapWord ++ leBytes 4 s.edgeWord ++ s.flashUid
    ++ s.deviceDigest ++ List.replicate 160 0

/-- A byte of the boot window before READY. -/
def State.windowByte (s : State) (off : Nat) : Byte :=
  if off < 0x100 then s.statusBlock.getD off 0
  else if 0x1000 ≤ off && off < 0xD000 then Tab.look s.boot.buffer 0 (off - 0x1000)
  else if 0xE000 ≤ off && off < 0x10000 then Tab.look s.boot.area 0 (off - 0xE000)
  else 0

/-- A write of enabled bytes of the boot window before READY. The push buffer is the holder's while there is one. -/
def bootWrite (ini : Ini) (bs : List (Nat × Byte)) (s : State) : BitVec 4 × State :=
  let other := match s.boot.holder with | some h => h != ini | none => false
  let ctrl := (List.range 16).filterMap fun i => (bs.find? fun b => b.1 == 0x100 + i).map (·.2)
  let (st, s) := if ctrl.length = 16 then pushCtrl ini (BitVec.ofNat 128 (leNat ctrl)) s else (rOk, s)
  let buf := bs.filter fun b => 0x1000 ≤ b.1 && b.1 < 0xD000
  let (st, s) := if buf.isEmpty then (st, s)
    else if other then (rDenied, s)
    else (st, { s with boot := { s.boot with buffer := buf.foldl (fun m b => Tab.put m 0 (b.1 - 0x1000) b.2) s.boot.buffer } })
  let area := bs.filter fun b => 0xE000 ≤ b.1
  (if (bs.any fun b => b.1 < 0x100) && st == rOk then rNotReady else st,
    { s with boot := { s.boot with area := area.foldl (fun m b => Tab.put m 0 (b.1 - 0xE000) b.2) s.boot.area } })

-- ## IMAGE_WRITE (R398)

def imageWriteAct (c : Nat) (a : Ini) (r : SvcReq) (s : State) : State :=
  let t := r.w 1
  let n := r.w 4
  if !s.isOperator a then s.answer c r svNotOperator
  else if t = 2 || 4 < t then s.answer c r svBadParam
  else if s.eng.katFail then s.answer c r svAbsent
  else
    match s.svcRead a (r.addr 2) n with
    | .error e => s.svcFail c r e
    | .ok bs =>
      let n16 := s.boot.path == 1
      let whole (k : ImgKind) (l : List Byte) : Nat :=
        if l.length < headerLen || l.length < headerLen + imgLen l then icFormat else s.checkImage k n16 l
      let sfw := bs.take 0x40000
      let pfw := bs.drop 0x40000
      let cut (l : List Byte) := l.take (headerLen + imgLen l)
      let code := if t ≤ 1 then
          let x := whole .sfw sfw
          if x ≠ icOk then x else
            let y := whole .pfw pfw
            if y = icOk && imgBundle sfw != imgBundle pfw then icFormat else y
        else whole .cfg bs
      if code ≠ icOk then s.answer c r svRefused [code]
      else
        let (ok, s) := match t with
          | 0 => s.writeBundle slotA (cut sfw) (cut pfw)
          | 1 => s.writeBundle slotB (cut sfw) (cut pfw)
          | 3 => s.writeConfig configA (cut bs)
          | _ => s.writeConfig configB (cut bs)
        s.answer c r (if ok then svOk else svFlash)

def execImageWrite (c : BitVec 5) (s : State) : Host.Outcome State Fault Refusal :=
  .next (svcRow 0x40 (fun _ s => s.ctxsFull || s.pkeBusy) imageWriteAct c s)

end Sys2Proof.Machine
end

