-- ==== Sys2Proof/Machine/Conf.lean ====
section
/-! DEFINITION. Confluences: arrival, agreement, release, the folds and their telemetry (R107 to R110, R126, R172, R254). -/
namespace Sys2Proof.Machine

/-- A pan arrives: it waits, gated, until release. A pan that will never join, or a differing FUNC or ORDER, stops the command
with ABORTED (R110). -/
def arriveAct (e : PEnv) (s : State) : Done :=
  let a : Arrival :=
    { func := BitVec.ofNat 4 (iFunc e.w), order := bitAt e.w 118, root := BitVec.ofNat 6 (fld e.w 112 6)
      units := fld e.w 96 16 + 1, s := fld e.w 74 21, d := fld e.w 52 21 }
  match s.cmd? e.run.seq with
  | none => { s, stay := true }
  | some c =>
    let differs := c.arrived.any fun q =>
      match (s.pan q).arrival with
      | some b => b.func != a.func || b.order != a.order
      | none => false
    if !c.ended.isEmpty || differs then { s, stop := some stAborted } else
      let s := s.modPan e.p fun v => { v with st := .atConfluence, arrival := some a }
      { s := s.modCmd e.run.seq fun c => { c with arrived := c.arrived ++ [e.p] }, stay := true }

def execBarrier (p : BitVec 6) (ds : List Detection) (s : State) : Host.Outcome State Fault Refusal :=
  .next (panRow kConf (funcIs 0) arriveAct p ds s)
def execGatherAll (p : BitVec 6) (ds : List Detection) (s : State) : Host.Outcome State Fault Refusal :=
  .next (panRow kConf (funcIs 1) arriveAct p ds s)
def execSum (p : BitVec 6) (ds : List Detection) (s : State) : Host.Outcome State Fault Refusal :=
  .next (panRow kConf (funcIs 2) arriveAct p ds s)
def execLseMerge (p : BitVec 6) (ds : List Detection) (s : State) : Host.Outcome State Fault Refusal :=
  .next (panRow kConf (funcIs 3) arriveAct p ds s)
def execArgmax (p : BitVec 6) (ds : List Detection) (s : State) : Host.Outcome State Fault Refusal :=
  .next (panRow kConf (funcIs 4) arriveAct p ds s)
def execBroadcast (p : BitVec 6) (ds : List Detection) (s : State) : Host.Outcome State Fault Refusal :=
  .next (panRow kConf (funcIs 5) arriveAct p ds s)

-- ## The folds (R108, R172)

/-- An attention record, and a tag's accumulation: HD, EMPTY, m, l and o. -/
structure ARec where
  tag : Nat
  hd : Nat
  empty : Bool
  m : Nat
  l : Nat
  o : List Nat
  deriving DecidableEq, Repr

/-- The consecutive records of a contribution; a trailing part is ignored, and padding skipped. -/
def parseARecs (fuel : Nat) (b : List Byte) : List ARec :=
  match fuel with
  | 0 => []
  | fuel + 1 =>
    let hd := leAt b 3 1 + 1
    let size := 16 + 4 * hd
    if b.length < size then [] else
      let r : ARec := { tag := leAt b 0 2, hd, empty := bitAt (leAt b 2 1) 0, m := leAt b 4 4, l := leAt b 8 4
                        o := unpack .fp32 (slice b 16 (4 * hd)) hd }
      let rest := parseARecs fuel (b.drop size)
      if r.tag = 0xFFFF then rest else r :: rest

/-- One record into its tag's accumulation (R172). -/
def foldRec (acc r : ARec) : Arith ARec :=
  if r.empty then pure acc
  else if acc.empty then pure r
  else do
    let mm ← max32 acc.m r.m
    let da ← sub32 acc.m mm
    let a ← exp32 da
    let db ← sub32 r.m mm
    let b ← exp32 db
    let la ← mul32 acc.l a
    let l ← fma32 r.l b la
    let o ← (acc.o.zip r.o).mapM fun x => do
      let y ← mul32 x.1 a
      fma32 x.2 b y
    pure { acc with m := mm, l, o }

/-- The records of one tag, in order; one whose HD differs from the first's is skipped. -/
def foldTag (rs : List ARec) : Arith ARec :=
  match rs with
  | [] => pure { tag := 0, hd := 1, empty := true, m := negInf, l := 0, o := [0] }
  | r :: rest => do
    let start : ARec := if r.empty then { r with m := negInf, l := 0, o := List.replicate r.hd 0 } else r
    let acc ← (rest.filter fun x => x.hd == r.hd).foldlM foldRec start
    if acc.empty then pure acc else do
      let inv ← recip32 acc.l
      let o ← acc.o.mapM fun x => mul32 x inv
      pure { acc with o }

/-- A result record: NORM set (Table 6.10). -/
def arecBytes (r : ARec) : List Byte :=
  leBytes 2 r.tag ++ [BitVec.ofNat 8 (b2n r.empty + 2), BitVec.ofNat 8 (r.hd - 1)] ++ leBytes 4 r.m ++ leBytes 4 r.l
    ++ List.replicate 4 0 ++ pack .fp32 r.o

/-- LSE_MERGE of contributions in fold order, and whether a record was skipped. -/
def lseMerge (cs : List (List Byte)) : Arith (List Byte × Bool) := do
  let rs := cs.flatMap fun c => parseARecs c.length c
  let tags := rs.foldl (fun l r => insertNum r.tag l) []
  let out ← tags.mapM fun t => foldTag (rs.filter fun r => r.tag = t)
  let skipped := tags.any fun t =>
    let of' := rs.filter fun r => r.tag = t
    of'.any fun r => r.hd != ((of'.map (·.hd)).headD 0)
  pure (out.flatMap arecBytes, skipped)

/-- SUM of the FP32 elements of the contributions in fold order. -/
def sumFold (cs : List (List Nat)) : Arith (List Nat) :=
  match cs with
  | [] => pure []
  | c :: rest => rest.foldlM (fun acc x => (acc.zip x).mapM fun y => add32 y.1 y.2) c

/-- ARGMAX: the record with the greatest key, the lower rank among equal keys; NaN keys lose. -/
def argmaxFold (cs : List (List Byte)) : List Byte :=
  cs.foldl (fun b c =>
    if b.isEmpty then c
    else if (v32 (leAt c 0 4)).isNan then b
    else if (v32 (leAt b 0 4)).isNan then c
    else if (v32 (leAt c 0 4)).le (v32 (leAt b 0 4)) then b else c) []

/-- What a release delivers: the bytes for D, the flags of the local folds and the clamps. -/
def confluenceResult (func root : Nat) (ranked ordered : List (List Byte)) : List Byte × AFlags × BitVec 16 :=
  match func with
  | 0 => ([], 0, 0)
  | 1 => (ranked.flatten, 0, 0)
  | 2 => let r := Arith.go (sumFold (ordered.map fun c => unpack .fp32 c (c.length / 4))); (pack .fp32 r.1, r.2, 0)
  | 3 => let r := Arith.go (lseMerge ordered); (r.1.1, r.2, if r.1.2 then cAttn else 0)
  | 4 => (argmaxFold ranked, 0, 0)
  | _ => (ranked.getD root [], 0, 0)

-- ## Release

/-- PRT_CONF_LAST, MAX and COUNT (R254). -/
def confTelemetry (skew : Nat) (last size : Nat) (v : Part) : Part :=
  let k := min skew 0xFFFFFF
  let v := { v with confCount := v.confCount + 1 }
  if size = 1 then v else
    let w := BitVec.ofNat 32 (k * 256 + last)
    { v with confLast := w, confMax := if fld v.confMax.toNat 8 24 < k then w else v.confMax }

/-- The confluence of a running command releases once every pan of its set has arrived: BYTES and ROOT are those of the lowest
rank, every pan receives the result at its D and goes on. -/
def confluenceGo (seq : DWord) (skew : Word) (s : State) : State :=
  match s.cmd? seq with
  | none => s
  | some c =>
    let arr (q : Nat) : Arrival := (s.pan q).arrival.getD { func := 0, order := false, root := 0, units := 1, s := 0, d := 0 }
    if s.edge.stopped || c.pans.isEmpty || c.arrived.length != c.pans.length then s else
      let low := arr (c.pans.headD 0)
      let func := low.func.toNat
      let bytes := low.units * 16
      let size := c.pans.length
      let root := min low.root.toNat (size - 1)
      let clash := c.pans.any fun q => (arr q).units != low.units
      let rootClash := func == 5 && (size ≤ low.root.toNat || c.pans.any fun q => (arr q).root != low.root)
      let contrib (q : Nat) : List Byte := s.slotRead q { acc := false, ofs := (arr q).s } 0 bytes
      let ranked := if func = 0 then [] else c.pans.map contrib
      let ordered := if low.order then c.arrived.map contrib else ranked
      let r := confluenceResult func root ranked ordered
      let dst (q : Nat) : Slot22 := { acc := false, ofs := (arr q).d }
      let first := c.arrived.headD 0
      let s := if clash || rootClash then s.clampCmd seq cConfluence else s
      let s := s.clampCmd seq r.2.2
      let s := c.pans.foldl (fun s q => (s.slotWrite q (dst q) 0 r.1).addFlags q r.2.1) s
      let s := c.pans.foldl (fun s q =>
        let (k, s) := s.draw
        let gated := if q = first then BitVec.ofNat 64 skew.toNat else BitVec.ofNat 64 (freeCycles k).toNat
        s.modPan q fun v => { v with st := .run, arrival := none
                                     profGated := if v.freeze then v.profGated else v.profGated + gated }) s
      let s := s.modPart c.part (confTelemetry skew.toNat (c.arrived.getLastD 0) size)
      let s := s.modCmd seq fun c => { c with arrived := [] }
      c.pans.foldl (fun s q => if ((s.pan q).run.map fun x => x.seq) = some seq then s.advance q else s) s

def execConfluenceRelease (seq : DWord) (skew : Word) (s : State) : Host.Outcome State Fault Refusal :=
  .next (confluenceGo seq skew s)

end Sys2Proof.Machine
end

