-- ==== Sys2Proof/Machine/Entropy.lean ====
section
/-! DEFINITION. The entropy source as its raw bits show it (R361): the two health tests of SP 800-90B and the conditioning. The bits of a
stretch are given as bytes, least significant bit first, and each stretch is tested by itself (DESIGN CHOICE [log 80]). -/
namespace Sys2Proof.Machine

/-- Raw bits in the order sampled. -/
def rawBits (raw : List Byte) : List Bool := raw.flatMap fun b => (List.range 8).map b.getLsbD

/-- The repetition count test: some run of equal bits reaches the cutoff of 41. `last` is the bit before, and `run` the run it ends. -/
def rctFails (last : Option Bool) (run : Nat) : List Bool → Bool
  | [] => false
  | b :: bs =>
    let run := if last = some b then run + 1 else 1
    41 ≤ run || rctFails (some b) run bs

/-- The adaptive proportion test: in some window of 1,024 bits the first one's value occurs 795 times or more. -/
def aptFails (fuel : Nat) (bits : List Bool) : Bool :=
  match fuel with
  | 0 => false
  | fuel + 1 =>
    if bits.length < 1024 then false
    else 795 ≤ (bits.take 1024).count (bits.headD false) || aptFails fuel (bits.drop 1024)

/-- Which test a stretch of raw bits fails: repetition count, adaptive proportion. -/
def healthTests (raw : List Byte) : Bool × Bool :=
  (rctFails none 0 (rawBits raw), aptFails (raw.length / 128 + 1) (rawBits raw))

/-- A conditioned block: SHA-384 over 1,024 raw bits, the `i`-th of a stretch. -/
def conditioned (raw : List Byte) (i : Nat) : List Byte := sha384 (slice raw (128 * i) 128)

end Sys2Proof.Machine
end

