-- ==== Sys2Proof/Machine/Session.lean ====
section
/-! DEFINITION. Debug sessions (R402, R431, R456): how they begin and end, and the records the Saltern makes of them. -/
namespace Sys2Proof.Machine

/-- The device is out of reset and not stopped. -/
def State.live (s : State) : Bool := s.edge.porst && !s.edge.stopped

/-- A debug session's tally event (R456, Table 8.16). -/
def State.debugEvent (s : State) : State := s.event 0x80 evDebug 0xFF

/-- The Saltern core runs: out of reset, past the straps, not halted, not stopped and not asleep. -/
def State.salternRuns (s : State) : Bool :=
  s.live && !s.saltern.halted && s.power.sleep != .slack && !(s.power.sleep == .waking && !s.edge.ready)
    && s.boot.stage != .off && s.boot.stage != .straps && s.boot.stage != .halted

/-- The extends and tally events of sessions that wait are made once the Saltern runs; the events wait for READY (R431). -/
def State.settleDebug (s : State) : State :=
  if !s.salternRuns then s else
    let s := s.dbg.toExtend.foldl (fun s x => s.extendDebug x) s
    let s := { s with dbg := { s.dbg with toExtend := [] } }
    if !s.up then s else
      let n := s.dbg.toTally.length
      let s := { s with dbg := { s.dbg with toTally := [] } }
      (List.range n).foldl (fun s _ => s.debugEvent) s

/-- A session begins, unless it is open. -/
def State.beginSession (s : State) (x : Session) : State :=
  if s.dbg.sessions.contains x then s else
    let s := { s with
      attest := { s.attest with debugEver := true }
      dbg := { s.dbg with sessions := s.dbg.sessions ++ [x], begun := satAdd s.dbg.begun 1, toExtend := s.dbg.toExtend ++ [x]
                          toTally := s.dbg.toTally ++ [x] } }
    s.settleDebug

/-- A session's hold on a pan is released (R461). -/
def State.unhold (s : State) (p : Nat) (x : Session) : State :=
  if (s.pan p).holds.contains x then s.modPan p fun v => { v with holds := v.holds.filter fun y => y != x } else s

/-- A session ends and releases its holds. A halted Saltern stays halted (DEDUCED [log 41]). -/
def State.endSession (s : State) (x : Session) : State :=
  let s := { s with dbg := { s.dbg with sessions := s.dbg.sessions.filter fun y => y != x } }
  pansAll.foldl (fun s p => s.unhold p x) s

end Sys2Proof.Machine
end

