-- ==== Sys2Proof/Machine/Power.lean ====
section
/-! DEFINITION. READY (R425, R426, R431), the cap loop and the sluice (R290 to R294, R298), droop (R285, R286), increases (R284),
margins (R296, R297), the spillway's events (R22, R30, R287, R288), DOZE and SLACK with their wakes (R276 to R280, R396, R397), and
checkpoints (R237). -/
namespace Sys2Proof.Machine

-- ## READY

/-- Everything that READY waits for has come: the configuration is applied, and every pan's self-test has ended. -/
def State.canRise (s : State) : Bool :=
  s.boot.stage == .waitReady && s.lock 15 && !s.edge.stopped && !s.saltern.halted
    && pansAll.all fun p => s.boot.tested.getLsbD p || (s.pan p).bunded

/-- The entries of R431 after the BOOT entry. -/
def State.bootEvents (s : State) : State :=
  let s := s.boot.epochs.foldl (fun s e => if e.2 = 0 then s else s.event 0x80 evEpoch (BitVec.ofNat 8 e.1) 0 0 e.2) s
  let s := (pansAll.filter fun p => (s.pan p).bunded).foldl (fun s p =>
    s.event 0x80 evBunded (match s.panPart p with | some q => BitVec.ofNat 8 q | none => 0xFF) (BitVec.ofNat 8 p)) s
  let s := (maskList s.errs.vaults.toNat 8).foldl (fun s v =>
    let users := s.vaultUsers v
    (if users.isEmpty then [0xFF] else users).foldl (fun s p =>
      s.event 0x80 evBunded (BitVec.ofNat 8 p) (BitVec.ofNat 8 (0x40 + v))) s) s
  let n := s.dbg.toTally.length
  let s := { s with dbg := { s.dbg with toTally := [] } }
  (List.range n).foldl (fun s _ => s.debugEvent) s

/-- READY rises: locks not yet set are set, the boot's events are written, and every group begins its increase. -/
def readyRise (s : State) : State :=
  if !s.canRise then s else
    let s := (s.setStage .done).bootEvents.setLocks [8, 9, 10, 11, 12, 13, 14, 15]
    let s := { s with power := { s.power with cfgNow := s.cfg.pwrCfg, ceilNow := s.cfg.opCeil }, edge := { s.edge with ready := true } }
    s.retargetAll

def execReadyRise (s : State) : Host.Outcome State Fault Refusal := .next (readyRise s)

-- ## Supplies and alerts (R18, R22, R30, R287, R288)

/-- A VDD_PAN input leaves its range: PAN_SUPPLY_GOOD follows it whenever PORST_N is high, and unless the device is stopped each pan of
its group is bunded (R18, R31). -/
def panSupplyFault (g : Nat) (s : State) : State :=
  if !s.edge.porst then s else
    let s := { s with edge := { s.edge with panSupplyGood := false } }
    if s.edge.stopped then s else
    (List.range 8).foldl (fun s i => s.bundPan (8 * g + i) 10 {}) s

def execPanSupplyFault (g : BitVec 3) (s : State) : Host.Outcome State Fault Refusal := .next (panSupplyFault g.toNat s)

/-- REG_ALERT_N engages the spillway. -/
def State.alertEngage (s : State) : State :=
  ({ s with edge := { s.edge with regAlertSeen := true } } : State).engage

/-- The ignore period ends: the event itself says that all eight VDD_PAN inputs have reported good for 1,024 AON cycles, also where one
was lost before and came back (DEDUCED [log 65]). A pin that is low then engages the spillway at that moment. -/
def ignorePeriodEnd (pinLow : Bool) (s : State) : State :=
  if !s.live || s.edge.ignoreOver then s else
    let s := { s with edge := { s.edge with ignoreOver := true, panSupplyGood := true, regAlertLow := pinLow } }
    if pinLow then s.alertEngage else s

def execIgnorePeriodEnd (pinLow : Bool) (s : State) : Host.Outcome State Fault Refusal := .next (ignorePeriodEnd pinLow s)

/-- REG_ALERT_N falls: after the ignore period the spillway engages, in every power state (R22; its logic is always on). -/
def regAlertAssert (s : State) : State :=
  if !s.live then s else
    let s := { s with edge := { s.edge with regAlertLow := true } }
    if s.edge.ignoreOver then s.alertEngage else s

def execRegAlertAssert (s : State) : Host.Outcome State Fault Refusal := .next (regAlertAssert s)

/-- The hottest sensor reaches 110 °C: in every power state, since R30 excepts none (in SLACK: DEDUCED [log 66]). -/
def thermTrip (s : State) : State :=
  if !s.live then s else
    ({ s with edge := { s.edge with thermTrip := true, thermHot := true } } : State).engage

def execThermTrip (s : State) : Host.Outcome State Fault Refusal := .next (thermTrip s)

/-- The pin is high and every reading is below 100 °C: the spillway releases, and each group's climb has its time. -/
def spillwayRelease (s : State) : State :=
  if !s.live then s else
    let s := { s with edge := { s.edge with regAlertLow := false, thermHot := false } }
    if !s.power.spillway then s else
      let on := s.groupsOn
      let s := { s with power := { s.power with spillway := false } }
      (List.range 8).foldl (fun s g => s.modGroup g fun v => { v with spill := false, climbDue := on }) s

def execSpillwayRelease (s : State) : Host.Outcome State Fault Refusal := .next (spillwayRelease s)

/-- A group's climb begins. -/
def spillwayClimb (g : Nat) (s : State) : State :=
  if !s.live || s.power.spillway || !(s.group g).climbDue then s
  else (s.modGroup g fun v => { v with climbDue := false }).retarget g

def execSpillwayClimb (g : BitVec 3) (s : State) : Host.Outcome State Fault Refusal := .next (spillwayClimb g.toNat s)

-- ## Droop and increases (R284 to R286)

/-- A detector trips: the group's pan cycles stretch. -/
def droopTrip (g : Nat) (s : State) : State :=
  if !s.live || (s.group g).tripped || s.power.sleep == .doze || s.power.sleep == .slack then s else
    let s := s.modGroup g fun v => { v with tripped := true, stretching := true, droops := satAdd v.droops 1 }
    let s := s.lockGroup g 3
    if g = 0 then s.meetRace else s

def execDroopTrip (g : BitVec 3) (s : State) : Host.Outcome State Fault Refusal := .next (droopTrip g.toNat s)

def execDroopDetectorClear (g : BitVec 3) (s : State) : Host.Outcome State Fault Refusal :=
  .next (s.modGroup g.toNat fun v => { v with tripped := false })

/-- 16 pan cycles after the detector clears. -/
def execStretchEnd (g : BitVec 3) (s : State) : Host.Outcome State Fault Refusal :=
  .next (s.modGroup g.toNat fun v => if v.tripped then v else { v with stretching := false })

/-- The voltage of an increase is reached. The clock switches if the detector has been clear for the last 256 pan cycles, as the event
says; a detector that is tripped or whose stretch is in force has not been. Otherwise the increase waits, and the event that ends the
wait is another one of these (R286, Table 11.4). -/
def opIncrease (g : Nat) (clear : Bool) (s : State) : State :=
  let v := s.group g
  match v.rising with
  | none => s
  | some k =>
    if !s.groupsOn then s
    else if v.tripped || v.stretching || !clear then
      s.modGroup g fun v => { v with riseWait := true, volt := BitVec.ofNat 10 (s.pointVolt g k.toNat) }
    else (s.setPoint g k.toNat).lockGroup g 2

def execOpIncrease (r : RiseReport) (s : State) : Host.Outcome State Fault Refusal :=
  .next (opIncrease r.g.toNat r.clear s)

/-- The hottest sensor of a boosting group reads 100 °C. -/
def boostLeave (g : Nat) (s : State) : State :=
  if !s.live then s else (s.modGroup g fun v => { v with cool := false }).retarget g false

def execBoostLeave100C (g : BitVec 3) (s : State) : Host.Outcome State Fault Refusal := .next (boostLeave g.toNat s)

-- ## The cap loop (R290 to R294)

/-- A quotient rounded to nearest, ties to even. -/
def nearest (n d : Nat) : Nat := rhe n d

/-- A quotient as a 32-bit float, as numerator and denominator (R292: `f32`; DEDUCED [log 37]). -/
def f32Ratio (n d : Nat) : Nat × Nat :=
  match v32 (rneDiv false n d 0).go.1 with
  | .fin _ m e => if 0 ≤ e then (m * 2 ^ e.toNat, 1) else (m, 2 ^ (-e).toNat)
  | .inf _ => (1, 1)
  | .nan => (0, 1)

/-- An active partition's share of a window: pans that issued and the draw of its pans, PSHARE, and whether its portion is fixed at its
draw. -/
structure Active where
  p : Nat
  pans : List Nat
  draw : Nat
  share : Nat
  isFixed : Bool := false
  deriving DecidableEq, Repr

/-- What is left of the pan budget for the partitions that are not fixed, and the sum of their shares. -/
def restOf (b : Nat) (l : List Active) : Nat × Nat :=
  let fixed := l.filter (·.isFixed)
  let open' := l.filter fun a => !a.isFixed
  (b - (fixed.map (·.draw)).foldl (· + ·) 0, (open'.map (·.share)).foldl (· + ·) 0)

/-- Passes of the sharing: each partition that draws no more than its portion is fixed at its draw (R293). -/
def sharePasses (fuel b : Nat) (l : List Active) : List Active :=
  match fuel with
  | 0 => l
  | fuel + 1 =>
    let (rest, sum) := restOf b l
    let l' := l.map fun a => if !a.isFixed && a.draw * sum ≤ rest * a.share then { a with isFixed := true } else a
    if l' == l then l else sharePasses fuel b l'

/-- The excess of a partition over its portion, times the sum of shares. -/
def overOf (rest sum : Nat) (a : Active) : Nat := if a.isFixed then 0 else a.draw * sum - rest * a.share

/-- A pan of a command another of whose pans waits at a confluence. -/
def State.laggard (s : State) (p : Nat) : Bool :=
  match (s.pan p).run with
  | none => false
  | some r => !r.race && match s.cmd? r.seq with
    | some c => c.arrived.any fun i => i != p
    | none => false

/-- A pan's fraction in 1/256 units. -/
def panFrac (n d : Nat) : BitVec 9 := BitVec.ofNat 9 (min 240 (nearest (256 * n) d))

/-- The bubbles of one partition: `n / d` pan units, evenly on pans that are not laggards, up to 1 each, and the rest evenly on the
laggards (R294). -/
def State.placeBubbles (s : State) (pans : List Nat) (n d : Nat) : State :=
  let free := pans.filter fun p => (s.pan p).st != .atConfluence
  let even := free.filter fun p => !s.laggard p
  let lag := free.filter s.laggard
  let k := even.length
  let (en, ed) := if n ≤ k * d then (n, d * max 1 k) else (1, 1)
  let rest := n - k * d
  let (ln, ld) := if rest ≤ lag.length * d then (rest, d * max 1 lag.length) else (1, 1)
  let s := even.foldl (fun s p => s.modPan p fun v => { v with frac := panFrac en ed }) s
  lag.foldl (fun s p => s.modPan p fun v => { v with frac := panFrac ln ld }) s

-- The estimate of a window (R290)

/-- 0.1 pJ over a window of 1,024 fabric cycles as mW. Which way a fraction is rounded is not stated: a free value (DESIGN CHOICE
[log 67]). -/
def mwOf (x : Nat) : Nat := if x % 10240 = 0 then x / 10240 else x / 10240 + (estUp x).toNat

/-- The energy of a list of counts under the fused coefficients that start at halfword `n` of the words from `w`. -/
def State.weigh (s : State) (w n : Nat) (counts : List Nat) : Nat :=
  (counts.zipIdx.map fun x => x.1 * s.otpHalf w (n + x.2)).foldl (· + ·) 0

/-- A pan's energy in a window: its events under the coefficients of its group's point (Table 13.2, ENERGY). -/
def State.panEnergy (s : State) (x : PanWindow) : Nat :=
  s.weigh 0x21A (8 * (s.group (x.pan.toNat / 8)).op.toNat) (x.events.map (·.toNat))

/-- The estimated draw of the pans that satisfy a test. -/
def State.drawOf (s : State) (w : WindowReport) (f : Nat → Bool) : Nat :=
  mwOf (((w.pans.filter fun x => f x.pan.toNat).map s.panEnergy).foldl (· + ·) 0)

/-- Leakage: nothing where its coefficient is 0 (R334). -/
def State.leak (s : State) (temps : List Int) : Nat :=
  let k := fld (s.otpWord 0x241) 0 16
  if k = 0 then 0 else (leakMw k (fld (s.otpWord 0x241) 16 8) temps).toNat

/-- The part of the estimate that is no pan's: vault, LPDDR5X, mesh, port and Saltern activity, and leakage. -/
def State.nonpanEst (s : State) (w : WindowReport) : Nat :=
  mwOf (s.weigh 0x23E 0 (w.fabric.map (·.toNat))) + s.leak w.temps

/-- The race pans: those that serve an assigned slot (R198, R292). -/
def State.raceEst (s : State) (w : WindowReport) : Nat := s.drawOf w fun p => (s.slotOf p).isSome

/-- The package estimate. -/
def State.pEst (s : State) (w : WindowReport) : Nat :=
  s.raceEst w + s.drawOf w (fun p => (s.slotOf p).isNone) + s.nonpanEst w

/-- The pans that a partition's share counts: those of its pool that issued. -/
def State.issuing (s : State) (w : WindowReport) (p : Nat) : List Nat :=
  (s.pool p).filter fun i => (w.pans.any fun x => x.pan.toNat == i && x.issued) && !(s.pan i).bunded

/-- The window's limit and its power less the race pans (R292). -/
def State.cav (s : State) : Nat := fld s.power.cfgNow.toNat 0 8 * 250 - 600 * s.armedCount
def State.ownPower (s : State) (w : WindowReport) : Nat := s.pEst w - s.raceEst w

/-- f, F and the fractions of the next window (R292 to R294). -/
def State.sluice (s : State) (w : WindowReport) : State :=
  let cav := s.cav
  let e := s.ownPower w - cav
  let gain := max 1 (fld s.power.cfgNow.toNat 8 4)
  let (fn, fd) := if 4 * cav ≤ gain * e then (1, 1) else f32Ratio (gain * e) (4 * cav)
  let act := (partsAll.filter s.inService).filterMap fun p =>
    let l := s.issuing w p
    if l.isEmpty then none else some { p, pans := l, draw := s.drawOf w l.contains, share := (s.cfg.part p).pshare : Active }
  let b := cav - s.nonpanEst w
  let act := sharePasses 16 b act
  let (rest, sum) := restOf b act
  let total := (act.map (overOf rest sum)).foldl (· + ·) 0
  let n := (act.map (·.pans.length)).foldl (· + ·) 0
  let s := { s with power := { s.power with
    last := BitVec.ofNat 32 (min 0xFFFF (nearest (s.pEst w) 10) * 0x10000 + min 256 (nearest (256 * fn) fd)) } }
  let s := pansAll.foldl (fun s p => s.modPan p fun v => if v.frac = 0 then v else { v with frac := 0 }) s
  act.foldl (fun s a =>
    let (qn, qd) := if a.isFixed then (a.draw, 1) else (rest * a.share, max 1 sum)
    let (pn, pd) := if total = 0 then (0, 1) else f32Ratio (fn * n * overOf rest sum a) (fd * total * a.pans.length)
    let s := s.modPart a.p fun v => { v with
      pwrLast := BitVec.ofNat 32 (min 0xFFFF (nearest qn (10 * qd)) * 0x10000 + min 256 (nearest (256 * pn) pd)) }
    if pn = 0 then s else s.placeBubbles a.pans (pn * a.pans.length) pd) s

/-- A pan's bubble accumulator after some issue windows, and the bubbles that fell in them: each window adds 16 times the fraction, and
what passes 256 is taken as that window's bubbles (R294). -/
def bubbleRun (acc fpan n : Nat) : Nat × Nat := ((acc + 16 * fpan * n) % 256, (acc + 16 * fpan * n) / 256)

/-- The bubbles that fell in the window: counted, and the end of a time lock (R294, Table 10.8). A race pan takes none. -/
def State.countBubbles (s : State) (w : WindowReport) : State :=
  w.pans.foldl (fun (s : State) (x : PanWindow) =>
    let i := x.pan.toNat
    let v := s.pan i
    if v.frac = 0 || (s.slotOf i).isSome then s else
      let (acc, k) := bubbleRun v.sluiceAcc.toNat v.frac.toNat x.issueWindows.toNat
      let s := s.setPan i { v with
        sluiceAcc := BitVec.ofNat 16 acc
        cycles := v.cycles + BitVec.ofNat 64 k
        profBubble := if v.freeze then v.profBubble else v.profBubble + BitVec.ofNat 64 k }
      if k = 0 then s else
        let s := match s.panPart i with
          | some p => s.modPart p fun q => { q with sluice := satAdd q.sluice k }
          | none => s
        s.lockPan i 1) s

-- ## Energy (R298)

/-- Picojoules are added; whole microjoules count. -/
def State.addEnergy (s : State) (pJ : Nat) : State :=
  let n := s.power.energyFrac + pJ
  { s with power := { s.power with energy := s.power.energy + BitVec.ofNat 64 (n / 1000000), energyFrac := n % 1000000 } }

-- ## Margins (R296, R297)

/-- An offset moves by some units, within its range. -/
def State.moveOffset (s : State) (g : Nat) (d : Int) : State :=
  let s := s.modGroup g fun v => { v with offset := max (-10) (min 6 (v.offset + d)) }
  s.modGroup g fun v => { v with volt := BitVec.ofNat 10 (s.pointVolt g v.op.toNat) }

/-- The fused critical, low and high slack of a group (PGMARGIN of Table 13.2). -/
def State.slackBounds (s : State) (g : Nat) : Nat × Nat × Nat :=
  let w := s.otpWord (0x212 + g)
  (fld w 8 8, fld w 16 8, fld w 24 8)

/-- The slack reports of a window; one below the fused critical slack raises the offset at once, by 10 mV (R297). -/
def State.slackReports (s : State) (w : WindowReport) : State :=
  if !s.power.monitored then s else
    w.slack.foldl (fun s x => if 8 ≤ x.1 then s else
      let s := s.modGroup x.1 fun v => { v with slackMin := some (min (v.slackMin.getD 255) x.2.toNat) }
      if x.2.toNat < (s.slackBounds x.1).1 then s.moveOffset x.1 2 else s) s

/-- A re-plan point: at most one step of each group. -/
def replanPoint (s : State) : State :=
  if !s.live || !s.power.monitored || s.power.sleep == .slack then s else
    (List.range 8).foldl (fun s g =>
      let (_, lo, hi) := s.slackBounds g
      let s := match (s.group g).slackMin with
        | some m => if m < lo then s.moveOffset g 1 else if hi < m then s.moveOffset g (-1) else s
        | none => s
      s.modGroup g fun v => { v with slackMin := none }) s

def execReplanPoint (s : State) : Host.Outcome State Fault Refusal := .next (replanPoint s)

-- ## The window

/-- Commits to GLB_PWR_CFG and GLB_OP_CEIL come into force (R284). -/
def State.takePower (s : State) : State :=
  { s with power := { s.power with cfgNow := s.cfg.pwrCfg, ceilNow := s.cfg.opCeil } }

/-- The hottest sensor of a group reads below 95 °C: its own and that of the vault over it (DEDUCED [log 67]). -/
def coolAt (w : WindowReport) (g : Nat) : Bool :=
  decide (w.temps.getD g 0 < 95) && decide (w.temps.getD (8 + g) 0 < 95)

/-- What the window says of boost (R282). -/
def State.noteCalm (s : State) (w : WindowReport) : State :=
  let quiet := decide (s.ownPower w + 2000 ≤ s.cav)
  (List.range 8).foldl (fun s g => s.modGroup g fun v =>
    { v with calm := if quiet then min 16 (v.calm + 1) else 0, cool := coolAt w g }) s

/-- The monitors of supplies that may rise at any time: what they report good is good (R16, R31; that a window brings their report:
DESIGN CHOICE [log 65]). -/
def State.noteSupplies (s : State) (w : WindowReport) : State :=
  { s with otp := { s.otp with vpp := s.otp.vpp || w.vpp }
           edge := { s.edge with panSupplyGood := s.edge.panSupplyGood || w.panGood } }

/-- A cap window ends. In DOZE it only adds the fused draw; in SLACK there are none. -/
def capWindow (w : WindowReport) (s : State) : State :=
  if !s.live || s.boot.stage == .off || s.boot.stage == .straps || s.power.sleep == .slack then s
  else
    let s := s.noteSupplies w
    if s.power.sleep == .doze then (s.addEnergy (1024 * fld (s.otpWord 0x242) 0 16)).takePower
    else
      let s := (s.countBubbles w).takePower
      let above := decide (s.cav < s.ownPower w)
      let spent := s.pEst w
      let s := (((s.sluice w).noteCalm w).slackReports w).addEnergy (1024 * spent)
      (s.retargetAll !above).finishCommits

def execCapWindow (w : WindowReport) (s : State) : Host.Outcome State Fault Refusal := .next (capWindow w s)

/-- 1,024 AON cycles in SLACK, which is 1 ms at the nominal rate (R298). -/
def energySlackTick (s : State) : State :=
  if s.power.sleep != .slack then s else s.addEnergy (10000 * fld (s.otpWord 0x242) 16 16)

def execEnergySlackTick (s : State) : Host.Outcome State Fault Refusal := .next (energySlackTick s)

-- ## Checkpoints (R237)

/-- A record of the newest 126 entries, oldest first; a shorter tally leaves zeros. A record without an entry carries the SEQ of the
newest entry that was written (DESIGN CHOICE [log 77]). -/
def State.ckptRecord (s : State) (erases : Nat) (es : List TEntry) : List Byte :=
  let newest := match es.getLast? with | some e => e.seq.toNat | none => (s.tally.head - 1).toNat
  slice (leBytes 4 0x4E345443 ++ leBytes 2 1 ++ [0, 0] ++ leBytes 4 s.boot.count.toNat ++ List.replicate 4 0 ++ leBytes 8 newest
    ++ leBytes 4 erases ++ List.replicate 36 0 ++ es.flatMap TEntry.bytes) 0 4096

/-- The sector of the next page has to be erased first: it is the next in rotation, and not the blank first one. -/
def State.ckptErases (s : State) : Bool :=
  let a := ckptArea + 4096 * s.tally.nextPage
  s.tally.nextPage % 16 == 0
    && (s.tally.nextPage != 0 || s.flash.cells.any fun kv => a ≤ kv.1 && kv.1 < a + 0x10000)

/-- A checkpoint record is written, unless a limit stops it. -/
def State.ckptWrite (s : State) : State :=
  let t := s.tally
  let sector := t.nextPage / 16
  let worn := decide (90000 ≤ t.sectorErases.look 0 sector)
  let spent := decide (t.budget ≤ t.erases.toNat)
  if !t.ckptEn || !s.flashGood then s
  else if s.ckptErases && (worn || spent) then
    { s with tally := { t with worn := t.worn || worn, budgetSpent := t.budgetSpent || spent } }
  else
    let s := if s.ckptErases then
        { s.flashErase (ckptArea + 0x10000 * sector) 0x10000 with tally := { t with
            erases := t.erases + 1, sectorErases := t.sectorErases.put 0 sector (t.sectorErases.look 0 sector + 1) } }
      else s
    let es := s.tally.entries.drop (s.tally.entries.length - 126)
    let first := match es with | e :: _ => e.seq.toNat | [] => 0
    let s := s.flashProg (ckptArea + 4096 * t.nextPage) (s.ckptRecord (s.tally.sectorErases.look 0 sector) es)
    let s := { s with tally := { s.tally with
      nextPage := (t.nextPage + 1) % 1024, since := 0, ckpts := satAdd s.tally.ckpts 1
      entries := s.tally.entries.map fun (e : TEntry) =>
        if first ≤ e.seq.toNat && !es.isEmpty then { e with flags := e.flags ||| 4 } else e } }
    s.event 0x80 evCheckpoint 0xFF

/-- CKPT_EVERY entries have been written since the last record. -/
def checkpoint (s : State) : State :=
  if !s.up || s.saltern.halted || s.power.sleep == .slack || s.tally.since < 4096 * 2 ^ s.tally.ckptK then s else s.ckptWrite

def execCheckpoint (s : State) : Host.Outcome State Fault Refusal := .next (checkpoint s)

-- ## Sleep (R276 to R280)

/-- A write of GLB_SLEEP.REQ: who may, whether a slot is armed, and whether the device is awake at all. -/
def sleepReq (slack : Bool) (ini : Ini) (s : State) : BitVec 4 × State :=
  if !s.isOperator ini then (rDenied, s)
  else if s.power.sleep != .awake then (rOk, s)
  else if s.anyArmed then (rOk, { s with power := { s.power with sleepErr := 1 } })
  else
    let s := { s with power := { s.power with sleep := if slack then .enteringSlack else .enteringDoze, wakeHeld := false } }
    (rOk, pansAll.foldl (fun s p => if (s.pan p).holds.isEmpty then s else s.modPan p fun v => { v with holds := [] }) s)

def execGlbSleepDoze (r : Req) (s : State) : Host.Outcome State Fault Refusal := .next (s.serve r id (sleepReq false r.ini))
def execGlbSleepSlack (r : Req) (s : State) : Host.Outcome State Fault Refusal := .next (s.serve r id (sleepReq true r.ini))

/-- The drain is over: no command, clear, commit under way or fuse programming is left, and no slot is armed (R176, R276, R338; DEDUCED
[log 38]). -/
def State.drainOver (s : State) : Bool :=
  s.up && !s.saltern.halted && s.cmds.isEmpty && s.memSys.clears.isEmpty && s.commits.isEmpty && !s.anyArmed
    && s.otp.job.isNone && s.otp.waiting.isEmpty

/-- Every pan's clock is gated. -/
def State.gatePans (s : State) (on : Bool) : State :=
  pansAll.foldl (fun s p => s.modPan p fun v => if v.bunded then v else { v with gated := on }) s

/-- Pan memories hold zero, and no pan holds a program. -/
def State.zeroPans (s : State) : State := pansAll.foldl State.wipePan s

/-- DOZE is entered: the pan groups are power-gated and their memories lost, as `State.panLost` shows until the wake zeroes them; a wake
event held during the entry acts now. PAN_CYCLE and PAN_ARITH stay (DESIGN CHOICE [log 68]: Table 11.1 names no pan register). -/
def dozeEntry (s : State) : State :=
  if s.power.sleep != .enteringDoze || !s.drainOver then s else
    let s := (s.gatePans true).zeroPans
    { s with power := { s.power with sleep := if s.power.wakeHeld then .waking else .doze, wakeHeld := false } }

def execDozeEntry (s : State) : Host.Outcome State Fault Refusal := .next (dozeEntry s)

/-- A wake event: it starts the wake from DOZE, and is held during an entry (R277, R280). -/
def State.wakeEvent (s : State) : State :=
  match s.power.sleep with
  | .doze => { s with power := { s.power with sleep := .waking } }
  | .enteringDoze => { s with power := { s.power with wakeHeld := true } }
  | .enteringSlack | .slack | .waking | .awake => s

/-- The groups come up at their targets with every clock running; under the spillway at OP0 (R278, R289). -/
def State.bringUp (s : State) : State :=
  let s := (s.gatePans false).takePower
  (List.range 8).foldl (fun s g =>
    let s := s.modGroup g fun v => { v with spill := s.power.spillway, climbDue := false, stretching := false, tripped := false }
    s.setPoint g (s.target g false)) s

/-- The wake from DOZE is complete: pan memories hold zero, whatever was written there on the way (R278). -/
def dozeWake (s : State) : State :=
  if s.power.sleep != .waking || !s.up then s else
    let s := s.zeroPans.bringUp
    { s with power := { s.power with sleep := .awake } }

def execDozeWake (s : State) : Host.Outcome State Fault Refusal := .next (dozeWake s)

/-- The tally in SRAM goes to the spill ring, as far as its depth reaches (R279). -/
def State.spillAll (s : State) : State :=
  let s := (s.tally.entries.drop (s.tally.entries.length - 4096)).foldl State.spillEntry s
  { s with tally := { s.tally with entries := s.tally.entries.drop (s.tally.entries.length - s.tally.depth) } }

/-- SLACK: the tally in SRAM goes to the spill ring, a checkpoint is written, the configuration is saved, READY falls, the links go down and
what Saltern SRAM, the boot window and the engines hold is lost (R237, R279, R324; DEDUCED [log 39]). REFCLK_OK stays 1 while the PLLs are
gated, since REFCLK is present (DESIGN CHOICE [log 66]). -/
def slackEntry (s : State) : State :=
  if s.power.sleep != .enteringSlack || !s.drainOver then s else
    let s := s.spillAll.ckptWrite.spillAll
    let s := (List.range 32).foldl (fun s c => s.modChan c fun v => { v with aToB := [], bToA := [], discard := 0 }) s
    let s := (((s.gatePans true).zeroPans).forget sramTally 0x50000).forget savedState 0xFE000
    let held := s.power.wakeHeld
    let link : Link := if held then .training else .down
    { s with
      boot := { s.boot with saved := some (s.cfg, s.shadow), buffer := [], area := [] }
      edge := { s.edge with ready := false, ucie0 := link, ucie1 := link }
      eng := { s.eng.wipePke with ctxs := [], waiting := [], aborted := [], pke := [], entropy := [] }
      power := { s.power with sleep := if held then .waking else .slack, wakeHeld := false } }

def execSlackEntry (s : State) : Host.Outcome State Fault Refusal := .next (slackEntry s)

/-- SLACK_WAKE high for two AON cycles: ignored in RUN and IDLE (R23); in SLACK the wake begins and both modules train. -/
def slackWake (s : State) : State :=
  if !s.live then s
  else match s.power.sleep with
    | .slack => { s with power := { s.power with sleep := .waking }, edge := { s.edge with ucie0 := .training, ucie1 := .training } }
    | .enteringSlack => { s with power := { s.power with wakeHeld := true } }
    | .awake | .enteringDoze | .doze | .waking => s.wakeEvent

def execSlackWake (s : State) : Host.Outcome State Fault Refusal := .next (slackWake s)

-- ## The fast path (R396, R397)

/-- A sealed copy in the reserve compares with the image recorded at the boot. -/
def State.copyHolds (s : State) (a : Nat) (img : Option (List Byte)) : Bool :=
  match img with
  | none => false
  | some l => !s.marked a l.length && sameBytes 48 (sha384 (s.read a l.length)) (sha384 l)

/-- Every region of every partition is reported as retained (Table 16.4). -/
def Part.retain (v : Part) : Part :=
  let mark (t : Tab Region) : Tab Region := t.map fun r => (r.1, { r.2 with status := 1 })
  { v with progs := mark v.progs, wgts := mark v.wgts }

/-- Seed material of an instantiation: entropy input, nonce, and the personalisation string (R362). -/
def State.seedMaterial (s : State) (entropy nonce : List Byte) : List Byte :=
  slice entropy 0 48 ++ slice nonce 0 24 ++ s.prefixP ++ leBytes 4 s.boot.count.toNat

/-- Raw bits pass the health tests, or the source and the DRBG are in ERROR until the next cold boot, with the test that failed recorded
(R361, R365). -/
def State.healthCheck (s : State) (raw : List Byte) : State :=
  let f := healthTests raw
  if !f.1 && !f.2 then s else
    { s with eng := { s.eng with drbg := .error, drbgK := [], drbgV := [], entropy := [], rctFail := s.eng.rctFail || f.1
                                 aptFail := s.eng.aptFail || f.2 } }

/-- The startup test of a cold boot, before the source is first used (R361). -/
def State.startupTest (s : State) (startup : List Byte) : State :=
  if s.eng.startupDone then s else
    let s := s.healthCheck startup
    if s.eng.drbg == .error then s else { s with eng := { s.eng with startupDone := true } }

/-- The instantiation, from two conditioned blocks: the entropy input and the nonce (R362). -/
def State.drbgInstantiate (s : State) (raw : List Byte) : State :=
  let s := s.healthCheck raw
  if s.eng.drbg == .error then s else
    let kv := drbgSeed (s.seedMaterial (conditioned raw 0) (conditioned raw 1))
    { s with eng := { s.eng with drbg := .ready, drbgK := kv.1, drbgV := kv.2, drbgCount := 0 } }

/-- A reseed, from one conditioned block (R362). -/
def State.drbgReseed (s : State) (raw : List Byte) : State :=
  let s := s.healthCheck raw
  if s.eng.drbg == .error then s else
    let kv := drbgUpdate (s.eng.drbgK, s.eng.drbgV) (conditioned raw 0)
    { s with eng := { s.eng with drbgK := kv.1, drbgV := kv.2, drbgCount := 0, reseeds := satAdd s.eng.reseeds 1 } }

/-- Before any draw after a wake: a reseed, or the instantiation that a tamper event left due (R362, R364). -/
def State.wakeSeed (s : State) (raw : List Byte) : State :=
  match s.eng.drbg with
  | .ready => s.drbgReseed raw
  | .uninstantiated => s.drbgInstantiate raw
  | .error => s

/-- A partition's registers that only PORST_N or a teardown resets; what the configuration and the commands gave it is gone. -/
def Part.again (v : Part) : Part :=
  { v with teardown := false, freeList := [], freeTail := 0, seed := 0, stepCount := 0, progs := [], wgts := [], lastCleared := none
           lastQueue := 4095 }

/-- A pan's registers that only PORST_N or a teardown resets, and its bunding (R433). -/
def Pan.again (v : Pan) : Pan :=
  { bunded := v.bunded, gated := v.bunded, cycles := v.cycles, arith := v.arith, freeze := v.freeze, profIssue := v.profIssue
    profCell := v.profCell, profVec := v.profVec, profMove := v.profMove, profGated := v.profGated, profBubble := v.profBubble }

/-- The cold-boot flow from step 2 after a failed comparison (R397). PORST_N has not fallen, so that what only PORST_N resets stays: the
straps, the always-on latches and counters, the locks with the key slots and the mailbox table behind them, error records, bunding and
withholding, and every sticky register and counter (R143, R238, R298, R300, R302, R321, R328, R420, R433). The boot makes the rest anew
(DEDUCED [log 40]). A regulator alert that stands goes on acting (R22). -/
def State.coldAgain (s : State) (env : BootEnv) : State :=
  let t := s.porReset .unprogrammed
  let t := { t with
    edge := { s.edge with lpPort := 0, xspiOctal := false, xspiDriven := false, lpDriven := 0 }
    dbg := s.dbg
    memSys := { unmapped := s.memSys.unmapped, sealedWrite := s.memSys.sealedWrite, sampleFail := s.memSys.sampleFail
                sampleRetry := s.memSys.sampleRetry, withheld := s.memSys.withheld }
    parts := s.parts.map fun (v : Nat × Part) => (v.1, v.2.again)
    pans := s.pans.map fun (v : Nat × Pan) => (v.1, v.2.again)
    slots := s.slots
    tally := { earlyBell := s.tally.earlyBell, bellRefused := s.tally.bellRefused }
    power := { spillway := s.power.spillway, energy := s.power.energy, energyFrac := s.power.energyFrac, sleepErr := s.power.sleepErr }
    groups := s.groups.map fun (v : Nat × Group) => (v.1, { droops := v.2.droops, spill := s.power.spillway : Group })
    saltern := { s.saltern with phase := .rom, transResult := 0, turn := 0 }
    chans := s.chans
    eng := { truncs := s.eng.truncs, shorts := s.eng.shorts, microcode := s.eng.microcode, romSet := s.eng.romSet
             fullSet := s.eng.fullSet }
    attest := { debugEver := s.attest.debugEver, reports := s.attest.reports, wakes := s.attest.wakes, mrFailed := s.attest.mrFailed }
    errs := { s.errs with vpoison := [] }
    boot := { stage := .rom, env := some env, buffer := s.boot.buffer, area := s.boot.area, afterSlack := true } }
  let t := if s.edge.regAlertLow && s.edge.ignoreOver then t.alertEngage else t
  t.boots

/-- A request that lies in the area at a wake is not examined and is refused (R314, Table 12.9). -/
def State.refuseRequest (s : State) : State := if s.requested then s.setTrans trNotAllowed else s

/-- The fast path to READY once both modules have ended their training. Committed values and shadows stand as at entry (R279; DEDUCED
[log 69]). -/
def fastWake (raw : List Byte) (env : BootEnv) (s : State) : State :=
  if s.power.sleep != .waking || s.edge.ready || !s.live || s.saltern.halted || s.edge.ucie0 == .training || s.edge.ucie1 == .training then s
  else if !s.copyHolds reserveBase s.boot.pfw || !s.copyHolds (reserveBase + 0x900000) s.boot.sfw then s.coldAgain env
  else
    let saved := match s.boot.saved with | some c => c | none => (s.cfg, s.shadow)
    let s := ((s.refuseRequest).writeKnown sramFirmware (s.boot.sfw.getD [])).wakeSeed raw
    let s := { s with
      cfg := saved.1
      shadow := saved.2
      parts := s.parts.map fun (p : Nat × Part) => (p.1, p.2.retain)
      attest := { s.attest with wakes := satAdd s.attest.wakes 1 }
      boot := { s.boot with wake := true, saved := none }
      edge := { s.edge with ready := true }
      power := { s.power with sleep := .awake } }
    let s := if s.edge.regAlertLow && s.edge.ignoreOver then s.alertEngage else s
    s.bringUp.settleDebug

def execFastWake (raw : List Byte) (env : BootEnv) (s : State) : Host.Outcome State Fault Refusal :=
  .next (fastWake raw env s)

end Sys2Proof.Machine
end

