-- ==== Sys2Proof/Machine/Port.lean ====
section
/-! DEFINITION. The host port: RD and WR (R200 to R206), the doorbells (R211 to R213), writes of the control region's registers and
windows (R5, R177, R179, R205, R236, R247, R322, R392, R466), memory behind the port (R112, R113, R131, R135, R150, R191, R436,
R442), and its events as rows of their own. -/
namespace Sys2Proof.Machine

-- ## Doorbells (R211 to R213)

/-- TAIL after a doorbell's low half, and whether it was clamped (R212). -/
def bellTail (x : Ctx) (t : Nat) : Word × Bool :=
  let d := (t + 65536 - x.head.toNat % 65536) % 65536
  if 32768 ≤ d || d ≤ (x.tail - x.head).toNat then (x.tail, false)
  else (x.head + BitVec.ofNat 32 (min d x.live.depth.toNat), decide (x.live.depth.toNat < d))

/-- CHEAD after a doorbell's high half, and whether it was clamped (R212). -/
def bellHead (x : Ctx) (h : Nat) : Word × Bool :=
  let e := (h + 65536 - x.chead.toNat % 65536) % 65536
  let room := (x.ctail - x.chead).toNat
  if 32768 ≤ e then (x.chead, false) else (x.chead + BitVec.ofNat 32 (min e room), decide (room < e))

/-- A context after a doorbell write by an initiator. -/
def Ctx.bell (x : Ctx) (ini : Ini) (v : Nat) : Ctx :=
  let (tail, c1) := bellTail x (fld v 0 16)
  let (chead, c2) := bellHead x (fld v 16 16)
  let n := (tail - x.tail).toNat
  { x with tail, chead, bellClamp := x.bellClamp || c1 || c2
           announced := if n = 0 then x.announced else x.announced ++ [(n, ini)] }

/-- A refused doorbell is counted. -/
def State.refuseBell (s : State) : State := { s with tally := { s.tally with bellRefused := satAdd s.tally.bellRefused 1 } }

/-- A doorbell write of the right shape; one from an initiator that is not bound to the queue is refused and counted (R213). -/
def bellWrite (q : Nat) (ini : Ini) (v : Nat) (s : State) : BitVec 4 × State :=
  if !s.mayRing ini q then (rDenied, s.refuseBell)
  else
    let s := (s.modCtx q fun x => x.bell ini v).wakeEvent
    (rOk, match s.queueOwner q with
      | some p => s.modPart p fun w => { w with backlogPeak := BitVec.ofNat 32 (max w.backlogPeak.toNat (s.backlog p)) }
      | none => s)

/-- A doorbell before READY is only counted (R205). -/
def State.earlyBell (s : State) : State := { s with tally := { s.tally with earlyBell := satAdd s.tally.earlyBell 1 } }

def execDoorbellWrite (r : Req) (q : BitVec 12) (value : DWord) (s : State) : Host.Outcome State Fault Refusal :=
  .next (s.serve r State.earlyBell (bellWrite q.toNat r.ini value.toNat))

-- ## Register writes

/-- An unmapped access is counted (R113). -/
def State.countUnmapped (s : State) : State :=
  { s with memSys := { s.memSys with unmapped := satAdd s.memSys.unmapped 1 } }
/-- A write that sealing keeps out is counted (R135, R191). -/
def State.countSealed (s : State) : State :=
  { s with memSys := { s.memSys with sealedWrite := satAdd s.memSys.sealedWrite 1 } }

/-- A staged register's shadow takes some bytes of a word (R247). -/
def stageWord (r : Rws) (sub : Nat) (ini : Ini) (v : Nat) (be : Nat → Bool) (s : State) : BitVec 4 × State :=
  if s.mayStage ini r then (rOk, { s with shadow := s.shadow.merge r sub v be }) else (rDenied, s)

/-- Bits of a write that are enabled and 1. -/
def ones (v : Nat) (be : Nat → Bool) (i : Nat) : Bool := bitAt v i && be (i / 8)

/-- A write of a global register word. -/
def glbWrite (off : Nat) (ini : Ini) (v : Nat) (be : Nat → Bool) (s : State) : BitVec 4 × State :=
  match rwsAt off with
  | some (r, k) => stageWord r k ini v be s
  | none =>
    if off = 0x014 then
      (rOk, { s with edge := { s.edge with
        regAlertSeen := s.edge.regAlertSeen && !ones v be 8
        thermTrip := s.edge.thermTrip && !ones v be 9
        thermShutdown := s.edge.thermShutdown && !ones v be 10 } })
    else if off = 0x104 then
      (rOk, { s with memSys := { s.memSys with
        sampleRetry := s.memSys.sampleRetry && !ones v be 5
        sampleFail := s.memSys.sampleFail && !ones v be 6 } })
    else if off = 0x300 then glbCommit ini (ones v be 0) (ones v be 1) s
    else if off = 0x808 then
      if !s.isOperator ini then (rDenied, s)
      else match ones v be 0, ones v be 1 with
        | true, false => sleepReq false ini s
        | false, true => sleepReq true ini s
        | true, true | false, false => (rOk, s)
    else if off = 0xD00 then (rOk, { s with errs := { s.errs with fatal := s.errs.fatal && !ones v be 31 } })
    else (rOk, s)

/-- A write of a word of a partition's block. -/
def prtWrite (p off : Nat) (ini : Ini) (v : Nat) (be : Nat → Bool) (s : State) : BitVec 4 × State :=
  match rwsOfPart p off with
  | some (r, k) => stageWord r k ini v be s
  | none => if off = 0x004 then prtCommit p ini (ones v be 0) (ones v be 1) s else (rOk, s)

/-- The counters of Table 19.7 at zero. -/
def Pan.profZero (v : Pan) : Pan :=
  { v with profIssue := 0, profCell := 0, profVec := 0, profMove := 0, profGated := 0, profBubble := 0 }

/-- A write of PAN_PROF_CTRL (R465). -/
def profWrite (p : Nat) (ini : Ini) (freeze : Option Bool) (clear : Bool) (s : State) : BitVec 4 × State :=
  if !s.isOperator ini then (rDenied, s)
  else (rOk, s.modPan p fun x =>
    let x := match freeze with | some b => { x with freeze := b } | none => x
    if clear then x.profZero else x)

/-- A write of a word of a pan's block (R55, R465). -/
def panWrite (p off : Nat) (ini : Ini) (v : Nat) (be : Nat → Bool) (s : State) : BitVec 4 × State :=
  if off = 0x010 then
    if !s.panRights ini p then (rDenied, s)
    else (rOk, s.modPan p fun x => { x with arith := x.arith &&& ~~~(BitVec.ofNat 5 (if be 0 then v else 0)) })
  else if off = 0x100 then profWrite p ini (if be 0 then some (bitAt v 0) else none) (ones v be 1) s
  else (rOk, s)

/-- A write of a register word of a race window; what Table 7.1 does not permit is discarded (R177, R182, R185). -/
def raceRegWrite (i off : Nat) (ini : Ini) (v : Nat) (be : Nat → Bool) (s : State) : BitVec 4 × State :=
  if off = 0x181C then stageWord (.raceCfg i) 0 ini v be s
  else if off = 0x1810 then (rOk, s.modSlot i fun x => { x with lateEver := x.lateEver && !ones v be 16 })
  else if (0x1000 ≤ off && off < 0x1100) || off = 0x1808 || off = 0x180C || off = 0x1814 || off = 0x1818 || off = 0x1820
      || off = 0x1828 || off = 0x182C then (rDenied, s)
  else (rOk, s)

-- ## Writes of the control region

/-- What follows a first result: the first status that is not OK stands. -/
def thenStatus (x : BitVec 4 × State) (f : State → BitVec 4 × State) : BitVec 4 × State :=
  let y := f x.2
  (if x.1 = rOk then y.1 else x.1, y.2)

/-- The words that hold an enabled byte, ascending. -/
def wordsOf (bs : List (Nat × Byte)) : List Nat := (bs.map fun b => b.1 / 4 * 4).eraseDups

/-- The value a write gives the word at an offset, and its byte enables. -/
def wordAt (bs : List (Nat × Byte)) (o : Nat) : Nat × (Nat → Bool) :=
  let get (k : Nat) : Option Byte := (bs.find? fun b => b.1 == o + k).map (·.2)
  (leNat ((List.range 4).map fun k => (get k).getD 0), fun k => (get k).isSome)

/-- Each word of a write in turn. -/
def eachWord (bs : List (Nat × Byte)) (f : Nat → Nat → (Nat → Bool) → State → BitVec 4 × State) (s : State) : BitVec 4 × State :=
  (wordsOf bs).foldl (fun (x : BitVec 4 × State) o => thenStatus x (f o (wordAt bs o).1 (wordAt bs o).2)) (rOk, s)

/-- A write of race windows: IN, then a doorbell, then the registers, slot by slot. -/
def raceWrite (ini : Ini) (bs : List (Nat × Byte)) (s : State) : BitVec 4 × State :=
  (List.range 4).foldl (fun (x : BitVec 4 × State) i =>
    let mine := (bs.filter fun b => (b.1 - 0x20000) / 0x2000 = i).map fun b => (b.1 % 0x2000, b.2)
    let input := mine.filter fun b => b.1 < 0x1000
    let bell := mine.filter fun b => 0x1800 ≤ b.1 && b.1 < 0x1808
    let regs := mine.filter fun b => 0x1000 ≤ b.1 && !(0x1800 ≤ b.1 && b.1 < 0x1808)
    let x := if input.isEmpty then x else thenStatus x (raceIn i ini input)
    let x := if bell.isEmpty then x else
      thenStatus x (raceDoorbell i ini (BitVec.ofNat 64 (wordAt bell 0x1800).1))
    thenStatus x (eachWord regs fun o v be => raceRegWrite i o ini v be)) (rOk, s)

/-- A write of mailbox channels whose range is `n` bytes from `start`, whatever bytes of it are enabled: a channel that the initiator is no
side of is unmapped (R322). -/
def mbxWrites (ini : Ini) (start n : Nat) (bs : List (Nat × Byte)) (s : State) : BitVec 4 × State :=
  (List.range 32).foldl (fun (x : BitVec 4 × State) c =>
    let base := 0x30000 + 0x100 * c
    let mine := (bs.filter fun b => base ≤ b.1 && b.1 < base + 0x100).map fun b => (b.1 - base, b.2)
    if !overlaps start n base 0x100 then x else
      thenStatus x fun s =>
        match (s.chan c).side ini with
        | none => (rUnmapped, if x.1 = rUnmapped then s else s.countUnmapped)
        | some b => (rOk, mbxWrite c b (overlaps start n base 16) (start / 16 * 16 = base) mine s)) (rOk, s)

/-- Doorbells of a write before READY (Table 17.2). -/
def hasBell (bs : List (Nat × Byte)) : Bool :=
  bs.any fun b => (0x10000 ≤ b.1 && b.1 < 0x18000)
    || (0x20000 ≤ b.1 && b.1 < 0x28000 && 0x1800 ≤ b.1 % 0x2000 && b.1 % 0x2000 < 0x1808)

/-- A write of the control region before READY: only the boot window is open (R205, R392, Table 17.2). -/
def earlyWrite (ini : Ini) (bs : List (Nat × Byte)) (s : State) : BitVec 4 × State :=
  let win := (bs.filter fun b => 0x40000 ≤ b.1 && b.1 < 0x50000).map fun b => (b.1 - 0x40000, b.2)
  if !win.isEmpty && s.windowOpen then bootWrite ini win s
  else (rNotReady, if hasBell bs then s.earlyBell else s)

/-- A write of the control region after READY: `start` is its first byte and `n` its length, `bs` its enabled bytes as control-region
offsets, and `bell` whether it has the shape of R211; a doorbell write of another shape, one without an enabled byte among them, is refused
and counted (R213). Every window is a whole number of 4 KiB, so a request lies in one. -/
def ctlWrite (ini : Ini) (start n : Nat) (bs : List (Nat × Byte)) (bell : Bool) (s : State) : BitVec 4 × State :=
  if start < 0x10000 then eachWord bs (fun o v be => glbWrite o ini v be) s
  else if start < 0x18000 then
    match bs with
    | [] => (rDenied, s.refuseBell)
    | b :: _ =>
      if bell then bellWrite ((b.1 - 0x10000) / 8) ini (wordAt bs (b.1 / 8 * 8)).1 s else (rDenied, s.refuseBell)
  else if 0x20000 ≤ start ∧ start < 0x28000 then raceWrite ini bs s
  else if 0x30000 ≤ start ∧ start < 0x32000 then mbxWrites ini start n bs s
  else if 0x40000 ≤ start ∧ start < 0x50000 then (rDenied, s)
  else if 0x100000 ≤ start ∧ start < 0x110000 then
    eachWord bs (fun o v be => prtWrite ((o - 0x100000) / 0x1000) (o % 0x1000) ini v be) s
  else if 0x200000 ≤ start ∧ start < 0x240000 then
    eachWord bs (fun o v be => panWrite ((o - 0x200000) / 0x1000) (o % 0x1000) ini v be) s
  else if 0x400000 ≤ start ∧ start < 0x500000 then (rDenied, s)
  else (rUnmapped, s.countUnmapped)

/-- The enabled bytes of one 8-byte slot. -/
def slotBytes8 (off : Nat) (value : DWord) (be : BitVec 8) : List (Nat × Byte) :=
  ((List.range 8).filter fun k => be.getLsbD k).map fun k => (off / 8 * 8 + k, BitVec.ofNat 8 (value.toNat >>> (8 * k)))

-- ## Reads of the control region

/-- A tally entry as an initiator sees it (R236). -/
def State.viewEntry (s : State) (ini : Ini) (e : TEntry) : TEntry :=
  if s.isOperator ini || s.boundTo ini == some e.part.toNat then e
  else { seq := e.seq, ini := 0, part := 0, queue := 0, opcode := 0, status := 0, clamp := 0, step := 0, ringIdx := 0, pans := 0
         panFirst := 0, flags := e.flags ||| 2 }

/-- The entry a position of the tally window shows (R236). -/
def State.tallyAt (s : State) (k : Nat) : Option TEntry :=
  s.tally.entries.reverse.find? fun e => e.seq.toNat % 32768 = k

/-- A byte of the tally window. -/
def State.tallyByte (s : State) (ini : Ini) (off : Nat) : Byte :=
  match s.tallyAt (off / 32) with
  | none => 0
  | some e => (s.viewEntry ini e).bytes.getD (off % 32) 0

/-- Where the control region has registers or windows without effects of reading (Table 5.1). -/
def ctlMapped (off : Nat) : Bool :=
  off < 0x18000 || (0x20000 ≤ off && off < 0x28000) || (0x40000 ≤ off && off < 0x50000) || (0x100000 ≤ off && off < 0x110000)
    || (0x200000 ≤ off && off < 0x240000) || (0x400000 ≤ off && off < 0x500000)

/-- A byte of the control region as an initiator reads it, mailboxes apart. The boot window reads zero after READY. -/
def State.ctlByte (s : State) (ini : Ini) (off : Nat) : Byte :=
  if 0x40000 ≤ off ∧ off < 0x50000 then (if s.edge.ready then 0 else s.windowByte (off - 0x40000))
  else if 0x400000 ≤ off ∧ off < 0x500000 then s.tallyByte ini (off - 0x400000)
  else BitVec.ofNat 8 (s.ctlWord ini (off / 4 * 4) >>> (8 * (off % 4)))

/-- A read of mailbox channels, channel by channel (R322, R323). -/
def mbxReads (ini : Ini) (start n : Nat) (s : State) : BitVec 4 × List Byte × State :=
  (List.range 32).foldl (fun (x : BitVec 4 × List Byte × State) c =>
    let base := 0x30000 + 0x100 * c
    let lo := max base start
    let hi := min (base + 0x100) (start + n)
    if hi ≤ lo then x else
      match (x.2.2.chan c).side ini with
      | none => (rUnmapped, x.2.1 ++ List.replicate (hi - lo) 0, if x.1 = rUnmapped then x.2.2 else x.2.2.countUnmapped)
      | some b =>
        let (d, t) := mbxRead c b (lo - base) (hi - lo) x.2.2
        (x.1, x.2.1 ++ d, t)) (rOk, [], s)

/-- A read of the control region after READY: status, data and what reading changes. -/
def ctlRead (ini : Ini) (start n : Nat) (s : State) : BitVec 4 × List Byte × State :=
  if 0x30000 ≤ start ∧ start < 0x32000 then mbxReads ini start n s
  else if ctlMapped start then (rOk, (List.range n).map fun i => s.ctlByte ini (start + i), s)
  else (rUnmapped, List.replicate n 0, s.countUnmapped)

-- ## Headers (Table 8.1)

def hUnits (h : QWord) : Nat := fld h.toNat 26 4 + 1
def hAddr (h : QWord) : Nat := fld h.toNat 32 40
def hReq (module1 : Bool) (h : QWord) : Req := { module1, ini := BitVec.ofNat 8 (fld h.toNat 8 8), tag := BitVec.ofNat 10 (fld h.toNat 16 10) }

/-- What R202 refuses. -/
def hBad (h : QWord) (type : Nat) : Bool :=
  let x := h.toNat
  fld x 0 4 != type || fld x 4 4 != 0 || 64 ≤ fld x 8 8 || fld x 30 2 != 0 || fld x 104 24 != 0 || hAddr h % 16 != 0
    || 4096 < hAddr h % 4096 + 16 * hUnits h

/-- Byte `k` of the data is enabled (FIRST_BE, LAST_BE; LAST_BE is ignored where LEN is 0). -/
def hEnabled (h : QWord) (k : Nat) : Bool :=
  if k < 16 then bitAt h.toNat (72 + k)
  else if k / 16 + 1 = hUnits h then bitAt h.toNat (88 + k % 16) else true

-- ## Memory behind the port

/-- An error that an access of the port to these bytes can meet (Table 18.2). -/
def portSees (a n : Nat) (d : Detection) : Bool :=
  let hit (u : Addr) : Bool := a ≤ u.toNat / 16 * 16 && u.toNat < a + n
  match d with
  | .panStore => (panOf a).isSome
  | .vaultArray u => hit u && (vaultOf a).isSome
  | .bondRetry u _ => hit u && (vaultOf a).isSome
  | .bondFail u => hit u && (vaultOf a).isSome
  | .lpInline u => hit u && (portOf a).isSome
  | .meshData u => hit u
  | .meshHeader => true
  | .corrected _ _ _ => true
  | .instrMemory | .accParity | .salternSram => false

/-- The header flit was lost (R437). -/
def lostHeader (ds : List Detection) : Bool := ds.any fun d => d == .meshHeader
/-- The data flit of a unit arrived with bad parity (R437). -/
def badFlit (ds : List Detection) (u : Nat) : Bool :=
  ds.any fun d => match d with
    | .meshData x => x.toNat / 16 * 16 == u
    | .panStore | .instrMemory | .accParity | .vaultArray _ | .bondRetry _ _ | .bondFail _ | .lpInline _ | .meshHeader
    | .salternSram | .corrected _ _ _ => false

/-- The initiator's partition owns the bytes (R112); a bunded pan's store is nobody's. -/
def State.portOwns (s : State) (ini : Ini) (a n : Nat) : Bool :=
  match s.boundTo ini with
  | some p => within (s.ranges p) a n
  | none => false

/-- An access to DRAM or a pan store wakes the device from DOZE (R277). -/
def State.touchMemory (s : State) (a : Nat) : State :=
  if (vaultOf a).isSome || (portOf a).isSome || (panOf a).isSome then s.wakeEvent else s

/-- A read of memory: units that are marked, lost or fenced read zero with POISONED (R436, R437, R442). -/
def memRead (ini : Ini) (a n : Nat) (ds : List Detection) (s : State) : BitVec 4 × List Byte × State :=
  let s := s.touchMemory a
  if !s.portOwns ini a n then (rUnmapped, List.replicate n 0, s.countUnmapped)
  else
    let ds := ds.filter (portSees a n)
    let s := s.detectAll (panOf a) { part := s.boundTo ini } ds
    let gone := lostHeader ds || s.fencedAt a n || (match panOf a with | some p => (s.pan p).bunded | none => false)
    let (bytes, s) := if (panOf a).isSome then s.panBytes a n else (s.read a n, s)
    let units := (List.range (n / 16)).map fun i =>
      let u := a + 16 * i
      let bad := gone || s.marked u 16 || badFlit ds u
      (bad, if bad then List.replicate 16 (0 : Byte) else slice bytes (16 * i) 16)
    (if units.any (·.1) then rPoisoned else rOk, units.flatMap (·.2), s)

/-- One unit of a write: a whole unit replaces data and mark; a part is merged, and a merge that finds the unit marked leaves it so
(R131, R435). A flit with bad parity leaves its unit marked (R437). -/
def unitWrite (u : Nat) (data : List (Option Byte)) (flit : Bool) (s : State) : BitVec 4 × State :=
  if data.all Option.isNone then (rOk, s)
  else if data.all Option.isSome then
    let s := s.write u (data.map fun b => b.getD 0)
    (rOk, if flit then s.mark u else s)
  else if s.marked u 16 then (rPoisoned, s)
  else
    let old := s.read u 16
    let s := s.write u ((List.range 16).map fun k => (data.getD k none).getD (old.getD k 0))
    (rOk, if flit then s.mark u else s)

/-- A write of memory. What keeps it out as a whole: a race pan's store, an address not owned, a sealed region, a range held for keys
and values, a bunded vault (R113, R135, R150, R191, R442). -/
def memWrite (ini : Ini) (a : Nat) (data : List (Option Byte)) (ds : List Detection) (s : State) : BitVec 4 × State :=
  let n := data.length
  let s := s.touchMemory a
  let race := match panOf a with | some p => (s.slotOf p).isSome && !(s.pan p).bunded | none => false
  if race then (rDenied, s.countSealed)
  else if !s.portOwns ini a n then (rUnmapped, s.countUnmapped)
  else if s.hitsSealed a n then (rDenied, s.countSealed)
  else match s.kvHit a n with
    | some p => (rDenied, s.modPart p fun v => { v with kvRefused := satAdd v.kvRefused 1 })
    | none =>
      let ds := ds.filter (portSees a n)
      let s := s.detectAll (panOf a) { part := s.boundTo ini } ds
      let gone := lostHeader ds || s.fencedAt a n || (match panOf a with | some p => (s.pan p).bunded | none => false)
      if gone then (rPoisoned, s)
      else
        (List.range (n / 16)).foldl (fun (x : BitVec 4 × State) i =>
          let u := a + 16 * i
          thenStatus x (unitWrite u ((data.drop (16 * i)).take 16) (badFlit ds u))) (rOk, s)

-- ## RD and WR

/-- The mesh errors that an access of the control region can meet. -/
def ctlSees (d : Detection) : Bool :=
  match d with
  | .meshHeader | .meshData _ => true
  | .panStore | .instrMemory | .accParity | .vaultArray _ | .bondRetry _ _ | .bondFail _ | .lpInline _ | .salternSram
  | .corrected _ _ _ => false

/-- Whether an address lies in the control region, gaps included. -/
def inControl (a : Nat) : Bool := controlBase ≤ a && a < controlBase + 0x500000

/-- What a RD of the port gives while it is served (R113, R204, R205). -/
def rdServe (ini : Ini) (a n : Nat) (ds : List Detection) (s : State) : BitVec 4 × List Byte × State :=
  if !s.edge.ready then
    if controlBase + 0x40000 ≤ a && a < controlBase + 0x50000 && s.windowOpen then
      (rOk, (List.range n).map fun i => s.ctlByte ini (a - controlBase + i), s)
    else (rNotReady, List.replicate n 0, s)
  else if inControl a then
    let ds := ds.filter ctlSees
    let s := s.detectAll none { part := s.boundTo ini } ds
    if lostHeader ds then (rPoisoned, List.replicate n 0, s)
    else
      let (st, d, s) := ctlRead ini (a - controlBase) n s
      let bad (i : Nat) : Bool := badFlit ds (a + i / 16 * 16)
      (if st = rOk && (List.range n).any bad then rPoisoned else st, d.mapIdx fun i b => if bad i then 0 else b, s)
  else memRead ini a n ds s

/-- The race windows, whose traffic is race class. -/
def inRaceWindow (a : Nat) : Bool := controlBase + 0x20000 ≤ a && a < controlBase + 0x28000

/-- A time lock keeps a request of the port waiting, once READY lets it in: it goes between its module's row and the row of its address
(R268). -/
def State.portHeld (s : State) (module1 : Bool) (a : Nat) : Bool :=
  s.edge.ready && !inRaceWindow a && s.addrHeld none (modRow module1) a

/-- A request that comes through: race-class traffic ends the locks whose rows it uses (Table 10.8). -/
def State.portPath (s : State) (module1 : Bool) (a : Nat) : State :=
  if s.edge.ready && inRaceWindow a then s.racePath (modRow module1) 0 else s

/-- A RD. A module that is down offers no link, and a stopped device answers nothing; one that a time lock holds has no effect yet. -/
def rd (module1 : Bool) (h : QWord) (ds : List Detection) (s : State) : State :=
  let r := hReq module1 h
  let n := 16 * hUnits h
  if !(s.link module1).isUp || s.edge.stopped then s
  else if hBad h 1 then s.respond r rMalformed (List.replicate n 0)
  else if s.portHeld module1 (hAddr h) then s
  else
    let (st, d, s) := rdServe r.ini (hAddr h) n ds (s.portPath module1 (hAddr h))
    if s.edge.stopped then s else s.respond r st d

def execRd (module1 : Bool) (hdr : QWord) (ds : List Detection) (s : State) : Host.Outcome State Fault Refusal :=
  .next (rd module1 hdr ds s)

/-- What a WR of the port does while it is served. -/
def wrServe (ini : Ini) (h : QWord) (data : List Byte) (ds : List Detection) (s : State) : BitVec 4 × State :=
  let a := hAddr h
  let n := 16 * hUnits h
  let off := a - controlBase
  let bytes := (List.range n).filter (hEnabled h)
  let bs := bytes.map fun k => (off + k, data.getD k 0)
  if !s.edge.ready then (if inControl a then earlyWrite ini bs s else (rNotReady, s))
  else if inControl a then
    let ds := ds.filter ctlSees
    let s := s.detectAll none { part := s.boundTo ini } ds
    if lostHeader ds then (rPoisoned, s)
    else
      let shape := n = 16 && (fld h.toNat 72 16 = 0x00FF || fld h.toNat 72 16 = 0xFF00)
      let good := bs.filter fun b => !badFlit ds ((controlBase + b.1) / 16 * 16)
      if good.length < bs.length then
        let (st, s) := if good.isEmpty then (rOk, s) else ctlWrite ini off n good shape s
        (if st = rOk then rPoisoned else st, s)
      else ctlWrite ini off n bs shape s
  else memWrite ini a ((List.range n).map fun k => if hEnabled h k then some (data.getD k 0) else none) ds s

/-- A WR; data beyond what the message carries are zero. One that a time lock holds has no effect yet. -/
def wr (module1 : Bool) (h : QWord) (data : List Byte) (ds : List Detection) (s : State) : State :=
  let r := hReq module1 h
  if !(s.link module1).isUp || s.edge.stopped then s
  else if hBad h 2 then s.respond r rMalformed []
  else if s.portHeld module1 (hAddr h) then s
  else
    let (st, s) := wrServe r.ini h data ds (s.portPath module1 (hAddr h))
    if s.edge.stopped then s else s.respond r st []

def execWr (module1 : Bool) (hdr : QWord) (data : List Byte) (ds : List Detection) (s : State) :
    Host.Outcome State Fault Refusal := .next (wr module1 hdr data ds s)

/-- A register write as its own row: one 8-byte slot of the control region, under the same rules as a WR that carries it. -/
def registerWrite (r : Req) (off : BitVec 24) (value : DWord) (be : BitVec 8) (s : State) : State :=
  let o := off.toNat / 8 * 8
  let bs := slotBytes8 o value be
  if !(s.link r.module1).isUp || s.edge.stopped then s
  else if 64 ≤ r.ini.toNat then s.respond r rMalformed []
  else if s.portHeld r.module1 (controlBase + o) then s
  else
    let s := s.portPath r.module1 (controlBase + o)
    let (st, s) := if !s.edge.ready then earlyWrite r.ini bs s else ctlWrite r.ini o 8 bs (be == 0xFF) s
    s.respond r st []

def execRegisterWrite (r : Req) (off : BitVec 24) (value : DWord) (be : BitVec 8) (s : State) :
    Host.Outcome State Fault Refusal := .next (registerWrite r off value be s)

-- ## Race and mailbox rows

/-- A write of RACE_DOORBELL as its own row; before READY it is counted with the doorbells (R184). -/
def execRaceDoorbell (r : Req) (slot : BitVec 2) (value : DWord) (s : State) : Host.Outcome State Fault Refusal :=
  .next (s.serveRace r State.earlyBell (raceDoorbell slot.toNat r.ini value))

/-- A write of IN from an offset on. -/
def execRaceInWrite (r : Req) (slot : BitVec 2) (off : BitVec 12) (data : List Byte) (s : State) :
    Host.Outcome State Fault Refusal :=
  .next (s.serveRace r id (raceIn slot.toNat r.ini (data.zipIdx off.toNat |>.map fun x => (x.2, x.1))))

/-- An access to a channel by a side of it; unmapped for any other initiator (R322). -/
def mbxAct (c : Nat) (ini : Ini) (act : Bool → State → State) (s : State) : BitVec 4 × State :=
  match (s.chan c).side ini with
  | none => (rUnmapped, s.countUnmapped)
  | some b => (rOk, act b s)

def execMbxPush (r : Req) (c : BitVec 5) (word : Word) (be : BitVec 4) (s : State) : Host.Outcome State Fault Refusal :=
  .next (s.serve r id (mbxAct c.toNat r.ini fun b s => (s.modChan c.toNat fun v => v.push b word (be == 15)).settleMbx))

/-- A pop as its own row: a RD of the MBX_DATA unit, 16 bytes. -/
def mbxPop (r : Req) (c : Nat) (s : State) : State :=
  if !(s.link r.module1).isUp || s.edge.stopped then s
  else if 64 ≤ r.ini.toNat then s.respond r rMalformed (List.replicate 16 0)
  else if !s.edge.ready then s.respond r rNotReady (List.replicate 16 0)
  else if s.ctlHeld r.module1 then s
  else
    let (st, d, s) := mbxReads r.ini (0x30000 + 0x100 * c) 16 s
    s.respond r st d

def execMbxPop (r : Req) (c : BitVec 5) (s : State) : Host.Outcome State Fault Refusal := .next (mbxPop r c.toNat s)

def execFlushIn (r : Req) (c : BitVec 5) (s : State) : Host.Outcome State Fault Refusal :=
  .next (s.serve r id (mbxAct c.toNat r.ini fun b s => s.modChan c.toNat fun v => v.setIn b ((v.incoming b).drop 8)))

/-- CLEAR of PAN_PROF_CTRL as its own row: FREEZE stands. -/
def execProfClear (r : Req) (p : BitVec 6) (s : State) : Host.Outcome State Fault Refusal :=
  .next (s.serve r id (profWrite p.toNat r.ini none true))

end Sys2Proof.Machine
end

