-- ==== Sys2Proof/Machine/Debug.lean ====
section
/-! DEFINITION. Operator debug (R457 to R464): halts, what debug reaches, and the TAP with its DBG register. -/
namespace Sys2Proof.Machine

-- ## Halts (R461, R462)

/-- Debug touches a pan: the time lock of a command whose pan set holds it ends (Table 10.8). -/
def State.touchPan (s : State) (p : Nat) : State := s.lockPan p 5

/-- A hold is put on a pan; refused where the pan is bunded. -/
def State.hold (s : State) (p : Nat) (x : Session) : Bool × State :=
  if (s.pan p).bunded then (false, s) else
    let s := s.touchPan p
    let s := if (s.pan p).holds.contains x then s else s.modPan p fun v => { v with holds := v.holds ++ [x] }
    (true, match s.slotOf p with
      | some i => if (s.slot i).st = .busy then s.modSlot i fun v => { v with met := v.met ||| 4 } else s
      | none => s)

-- ## What debug reaches (R457, R458, Table 19.3)

-- Status codes of R460.
def dOk : BitVec 3 := 0
def dDenied : BitVec 3 := 2
def dUnmapped : BitVec 3 := 3
def dPoisoned : BitVec 3 := 4
def dHaltRefused : BitVec 3 := 5

/-- What a debug-only or device address is to debug. -/
inductive Reach where
  | none
  | refused
  /-- Plain memory. -/
  | memory
  /-- Memory whose contents or layout no rule fixes. -/
  | free
  /-- A pan's store or accumulator buffer; its instruction memory. -/
  | pan (p : Nat)
  | imem (p : Nat)
  | control
  deriving DecidableEq, Repr

/-- The class of an address (R116, R457). -/
def State.reach (s : State) (a : Nat) : Reach :=
  if (vaultOf a).isSome then
    let o := a - reserveBase
    if a < reserveBase then .memory
    else if o < 0x900000 then .refused
    else if (0xB00000 ≤ o && o < 0xC00000) || (0x3000000 ≤ o && o < 0x3C00000) then .free
    else .memory
  else if (portOf a).isSome then (if within s.lpRanges a 1 then .memory else .none)
  else match panOf a with
    | some p => .pan p
    | none =>
      if inControl a then .control
      else if 0x3A00000000 ≤ a ∧ a < 0x3A04000000 then
        let p := (a - 0x3A00000000) / 0x100000
        let o := a % 0x100000
        if o < 0x40000 then .pan p else if 0x80000 ≤ o ∧ o < 0xA0000 then .imem p else .none
      else if salternBase ≤ a ∧ a < salternBase + 0x100000000 then
        let o := a - salternBase
        if o < 0x10000 || (0x10000000 ≤ o && o < 0x10060000) || (0x20000000 ≤ o && o < 0x20010000) then .free
        else if 0x40000000 ≤ o ∧ o < 0x80000000 then .refused
        else .none
      else .none

/-- Memory as debug reads it: a marked unit or a bunded vault reads zero with POISONED. -/
def State.plainRead (s : State) (a n : Nat) : BitVec 3 × List Byte :=
  if s.fencedAt a n || s.marked a n then (dPoisoned, List.replicate n 0) else (dOk, s.read a n)

/-- A pan's memory as debug reads it; a bunded pan is out of its reach. -/
def State.panRead (s : State) (p a n : Nat) : BitVec 3 × List Byte × State :=
  if (s.pan p).bunded then (dDenied, List.replicate n 0, s)
  else if s.marked a n then (dPoisoned, List.replicate n 0, s.touchPan p)
  else let r := s.panBytes a n; (dOk, r.1, r.2.touchPan p)

/-- Debug reads up to 16 bytes of one unit. -/
def dbgRead (ini : Ini) (a n : Nat) (s : State) : BitVec 3 × List Byte × State :=
  let zeros : List Byte := List.replicate n 0
  match s.reach a with
  | .none => (dUnmapped, zeros, s)
  | .refused => (dDenied, zeros, s)
  | .memory => let r := s.plainRead a n; (r.1, r.2, s)
  | .free => let r := s.looseBytes a n; (dOk, r.1, r.2)
  | .pan p => s.panRead p a n
  | .imem p => s.panRead p a n
  | .control =>
    let (st, d, t) := ctlRead ini (a - controlBase) n s
    if st = rOk then (dOk, d, t) else (dUnmapped, zeros, s)

/-- A refused debug write that no other counter counts (R458, R464). -/
def State.refuse (s : State) : State := { s with dbg := { s.dbg with refused := satAdd s.dbg.refused 1 } }

/-- A write of memory by debug, kept out of sealed and held ranges. -/
def plainWrite (a : Nat) (bs : List Byte) (s : State) : BitVec 3 × State :=
  let n := bs.length
  if s.hitsSealed a n then (dDenied, s.countSealed)
  else match s.kvHit a n with
    | some p => (dDenied, s.modPart p fun v => { v with kvRefused := satAdd v.kvRefused 1 })
    | none =>
      if s.fencedAt a n then (dPoisoned, s)
      else
        let u := a / 16 * 16
        let data := (List.range 16).map fun k => if a ≤ u + k then bs[u + k - a]? else none
        let (st, s) := unitWrite u data false s
        (if st = rOk then dOk else dPoisoned, s)

/-- Doorbells and race inputs count their own refusals. -/
def ownCounter (off : Nat) : Bool :=
  (0x10000 ≤ off && off < 0x18000)
    || (0x20000 ≤ off && off < 0x28000 && (off % 0x2000 < 0x1000 || (0x1800 ≤ off % 0x2000 && off % 0x2000 < 0x1808)))

/-- A write of the control region by debug, at any time. -/
def dbgCtlWrite (ini : Ini) (a : Nat) (bs : List Byte) (s : State) : BitVec 3 × State :=
  let off := a - controlBase
  let cells := bs.zipIdx.map fun b => (off + b.2, b.1)
  let (st, t) := if 0x40000 ≤ off && off < 0x50000 && !s.edge.ready then earlyWrite ini cells s
    else ctlWrite ini off bs.length cells (bs.length = 8) s
  if st = rOk then (dOk, t)
  else if st = rUnmapped then (dUnmapped, s.refuse)
  else (dDenied, if ownCounter off then t else t.refuse)

/-- Debug writes up to 16 bytes of one unit. -/
def dbgWrite (ini : Ini) (a : Nat) (bs : List Byte) (s : State) : BitVec 3 × State :=
  match s.reach a with
  | .none => (dUnmapped, s.refuse)
  | .refused => (dDenied, s.refuse)
  | .free => (dDenied, s.refuse)
  | .memory => if reserveBase ≤ a && (vaultOf a).isSome then (dDenied, s.refuse) else plainWrite a bs s
  | .pan p =>
    if (s.pan p).bunded then (dDenied, s.refuse)
    else if (panOf a).isSome && (s.slotOf p).isSome then (dDenied, s.countSealed)
    else plainWrite a bs (s.touchPan p)
  | .imem _ => (dDenied, s.refuse)
  | .control => dbgCtlWrite ini a bs s

/-- A read of a race pan's store is held while its slot is BUSY (R191). -/
def State.readHeld (s : State) (a n : Nat) : Bool :=
  pansAll.any fun p => overlaps a n (storeBase p) 0x200000
    && (match s.slotOf p with | some i => (s.slot i).st == .busy | none => false)

-- ## The TAP (R459)

/-- An instruction is loaded. The TAP lives with VDD_AON. -/
def loadTap (t : TapInstr) (f : State → State) (s : State) : Host.Outcome State Fault Refusal :=
  .next (if s.edge.aonUp then f { s with dbg := { s.dbg with tap := t } } else s)

def State.setShift (s : State) (w : Word) : State := { s with dbg := { s.dbg with shiftOut := w } }

/-- Test-Logic-Reset selects IDCODE and ends the JTAG session. -/
def execTestLogicReset (s : State) : Host.Outcome State Fault Refusal :=
  loadTap .idcode (fun s => (s.setShift 0x24E649AF).endSession .jtag) s
def execExtest (s : State) : Host.Outcome State Fault Refusal := loadTap .extest id s
/-- The pins are sampled into the boundary register. -/
def execSamplePreload (pins : DWord) (s : State) : Host.Outcome State Fault Refusal :=
  loadTap .samplePreload (fun s => { s with dbg := { s.dbg with boundary := pins } }) s
def execIdcode (s : State) : Host.Outcome State Fault Refusal := loadTap .idcode (fun s => s.setShift 0x24E649AF) s
def execHighz (s : State) : Host.Outcome State Fault Refusal := loadTap .highz id s
def execClamp (s : State) : Host.Outcome State Fault Refusal := loadTap .clamp id s
/-- DBG begins the JTAG session, the first time since Test-Logic-Reset. -/
def execDbg (s : State) : Host.Outcome State Fault Refusal := loadTap .dbg (fun s => s.beginSession .jtag) s
/-- The 1-bit bypass register captures 0, as the standard has it (PRESUMED [log 42]). -/
def execBypass (s : State) : Host.Outcome State Fault Refusal := loadTap .bypass (fun s => s.setShift 0) s

-- ## The DBG register (R460)

/-- What Capture-DR loads after an operation. -/
def State.dbgResult (s : State) (op : Nat) (st : BitVec 3) (a d : Nat) : State :=
  { s with dbg := { s.dbg with
    result := BitVec.ofNat 112 (op * 2 ^ 108 + st.toNat * 2 ^ 104 + a % 2 ^ 40 * 2 ^ 64 + d % 2 ^ 64) } }

/-- Debug reaches nothing: in DOZE and SLACK (R460), in a device that 125 °C has stopped, whose domains are gated (R30), and in a SCRAPPED
one, where only boundary scan remains (R312; DEDUCED [log 41]: the DBG register still answers). -/
def State.dbgShut (s : State) : Bool :=
  s.power.sleep == .doze || s.power.sleep == .slack || s.edge.dark || s.saltern.phase == .stopped

/-- An operation, while the TAP holds DBG; where debug reaches nothing, only NOP and STATUS are done. -/
def dbgOp (op a : Nat) (always write : Bool) (act : State → BitVec 3 × Nat × State) (s : State) :
    Host.Outcome State Fault Refusal :=
  .next (
    if !s.edge.aonUp || s.dbg.tap != .dbg then s
    else if !always && s.dbgShut then
      (if write then s.refuse else s).dbgResult op dDenied a 0
    else let (st, d, s) := act s; s.dbgResult op st a d)

def execDbgNop (s : State) : Host.Outcome State Fault Refusal := dbgOp 0 0 true false (fun s => (dOk, 0, s)) s

/-- A read that is held has no effect yet. -/
def execRead8B (a : Addr) (s : State) : Host.Outcome State Fault Refusal :=
  if s.readHeld (a.toNat / 8 * 8) 8 then .next s
  else dbgOp 1 a.toNat false false (fun s => let (st, d, s) := dbgRead jtagIni (a.toNat / 8 * 8) 8 s; (st, leNat d, s)) s

def execWrite8B (a : Addr) (d : DWord) (s : State) : Host.Outcome State Fault Refusal :=
  dbgOp 2 a.toNat false true
    (fun s => let (st, s) := dbgWrite jtagIni (a.toNat / 8 * 8) (leBytes 8 d.toNat) s; (st, 0, s)) s

def execHaltPan (p : BitVec 6) (s : State) : Host.Outcome State Fault Refusal :=
  dbgOp 3 p.toNat false false
    (fun s => let (ok, s) := s.hold p.toNat .jtag; (if ok then dOk else dHaltRefused, 0, s)) s

def execResumePan (p : BitVec 6) (s : State) : Host.Outcome State Fault Refusal :=
  dbgOp 4 p.toNat false false (fun s => (dOk, 0, s.unhold p.toNat .jtag)) s

def execHaltSaltern (s : State) : Host.Outcome State Fault Refusal :=
  dbgOp 5 0 false false (fun s => (dOk, 0, { s with saltern := { s.saltern with halted := true } })) s

/-- What waited for the Saltern core goes on: a push, commits, clears, the boot, services, and debug records. A stopped device does
none of it (R18). -/
def State.resumeCore (s : State) : State :=
  if !s.saltern.halted then s else
    let s := { s with saltern := { s.saltern with halted := false } }
    if s.edge.stopped then s else
    let s := match s.boot.ctrl with
      | some (ini, c) =>
        let s := { s with boot := { s.boot with ctrl := none } }
        if s.edge.ready then s else (pushCtrl ini c s).2
      | none => s
    let s := ((s.nextDevice.kickClear.boots).settleMbx).settleDebug
    s.settle (s.cmds.length + 1)

def execResumeSaltern (s : State) : Host.Outcome State Fault Refusal :=
  dbgOp 6 0 false false (fun s => (dOk, 0, s.resumeCore)) s

def execDbgStatus (s : State) : Host.Outcome State Fault Refusal :=
  dbgOp 7 0 true false (fun s => (dOk, s.debugStatus, s)) s

end Sys2Proof.Machine
end

