-- ==== Sys2Proof/Machine/Engine.lean ====
section
/-! DEFINITION. The Saltern's engines as the firmware drives them (R348 to R365): the rows of digest descriptors, PKE programs, the DRBG and
the entropy source, and the tamper event (R318 to R320). -/
namespace Sys2Proof.Machine

/-- The engines run: they go on while the core is halted (R462). -/
def State.enginesRun (s : State) : Bool := ({ s with saltern := { s.saltern with halted := false } } : State).salternRuns

-- ## Digest descriptors (R349 to R352)

/-- The firmware places a descriptor, and the bytes of a source in SRAM, and the engine runs it. -/
def digestDescriptor (window : Addr) (at32 : Nat) (desc input : List Byte) (s : State) : State :=
  if !s.salternRuns || !inSram at32 32 then s else
    let s := { s with saltern := { s.saltern with window } }
    let src := leAt desc 8 4
    let stream := bitAt (leAt desc 1 1) 3
    let s := if !stream && inSram src input.length && !input.isEmpty then s.writeKnown (salternBase + src) input else s
    ((s.writeKnown (salternBase + at32) desc).descTry (at32, input)).settleDigests

def execDigestDescriptor (place : DescPlace) (desc input : List Byte) (s : State) : Host.Outcome State Fault Refusal :=
  .next (digestDescriptor place.window place.at32.toNat (slice desc 0 32) input s)

-- ## The PKE engine (R355 to R359): each row issues one program, and the operands that the load path gives it

/-- A program is issued by the firmware. -/
def pkeRow (prog : Nat) (slot : Option Nat) (ops : List (List DWord)) (strs : List (List Byte)) (s : State) :
    Host.Outcome State Fault Refusal :=
  .next (if s.salternRuns then s.pkeIssue { prog, slot, ops, strs } else s)

def execP256Sign (slot : BitVec 5) (ops : List (List DWord)) (s : State) : Host.Outcome State Fault Refusal :=
  pkeRow 0 (some slot.toNat) ops [] s
def execP256Verify (ops : List (List DWord)) (s : State) : Host.Outcome State Fault Refusal := pkeRow 1 none ops [] s
def execP256Public (slot : BitVec 5) (s : State) : Host.Outcome State Fault Refusal := pkeRow 2 (some slot.toNat) [] [] s
def execP384Sign (slot : BitVec 5) (ops : List (List DWord)) (s : State) : Host.Outcome State Fault Refusal :=
  pkeRow 3 (some slot.toNat) ops [] s
def execP384Verify (ops : List (List DWord)) (s : State) : Host.Outcome State Fault Refusal := pkeRow 4 none ops [] s
def execP384Public (slot : BitVec 5) (s : State) : Host.Outcome State Fault Refusal := pkeRow 5 (some slot.toNat) [] [] s
def execP384Ecdh (slot : BitVec 5) (ops : List (List DWord)) (s : State) : Host.Outcome State Fault Refusal :=
  pkeRow 6 (some slot.toNat) ops [] s
def execMldsaPublic (slot : BitVec 5) (s : State) : Host.Outcome State Fault Refusal := pkeRow 7 (some slot.toNat) [] [] s
def execMldsaSign (slot : BitVec 5) (msg : List Byte) (s : State) : Host.Outcome State Fault Refusal :=
  pkeRow 8 (some slot.toNat) [] [msg] s
def execMldsaVerify (pub msg sig : List Byte) (s : State) : Host.Outcome State Fault Refusal := pkeRow 9 none [] [pub, msg, sig] s
def execRsa3072Verify (ops : List (List DWord)) (s : State) : Host.Outcome State Fault Refusal := pkeRow 10 none ops [] s
def execRsa4096Verify (ops : List (List DWord)) (s : State) : Host.Outcome State Fault Refusal := pkeRow 11 none ops [] s

-- ## The DRBG (R361 to R365)

/-- The startup test of a boot and the instantiation, or the one that follows a tamper event. What waited for it goes on. -/
def execDrbgInstantiate (startup raw : List Byte) (s : State) : Host.Outcome State Fault Refusal :=
  .next (if !s.salternRuns || s.eng.drbg != .uninstantiated then s else
    let s := s.startupTest startup
    (if s.eng.drbg == .error then s else s.drbgInstantiate raw).boots.settleEngines)

/-- A reseed: due after 65,536 requests, or at the firmware's request. -/
def execDrbgReseed (raw : List Byte) (s : State) : Host.Outcome State Fault Refusal :=
  .next (if !s.salternRuns || s.eng.drbg != .ready then s else (s.drbgReseed raw).boots.settleEngines)

/-- The pan entropy buffer is refilled by one generate when it is empty (R363); a halted core does not stop it (R462). -/
def execEntropyBufferRefill (s : State) : Host.Outcome State Fault Refusal :=
  .next (if !s.enginesRun || !s.eng.entropy.isEmpty then s else
    match s.drbgTake 4096 with
    | none => s
    | some (bs, s) => { s with eng := { s.eng with entropy := bs } })

/-- A health test fails on the source's raw bits: the source and the DRBG are in ERROR until the next cold boot. What waited goes on as R365
says. -/
def healthTestFail (raw : List Byte) (s : State) : State :=
  if !s.live || s.boot.stage == .off || s.power.sleep == .slack || s.eng.drbg == .error then s
  else (s.healthCheck raw).boots.settleEngines

def execHealthTestFail (raw : List Byte) (s : State) : Host.Outcome State Fault Refusal := .next (healthTestFail raw s)

-- ## Tamper (R318 to R320, R364)

/-- The sensor of a source works: the pin and the VDD_AON sensor whenever VDD_AON is in range, the others with their domain. -/
def State.sensorOn (s : State) (src : TamperSource) : Bool :=
  match src with
  | .pin | .aonGlitch => s.edge.aonUp
  | .coreGlitch | .clockGlitch => s.edge.porst && s.power.sleep != .slack

/-- A tamper event: slots, contexts, operands and DRBG are wiped, programming stops, and the latch and the record stand. -/
def tamperEvent (src : TamperSource) (left : FuseOutcome) (s : State) : State :=
  if !s.sensorOn src then s else
    let early := s.boot.stage != .done
    let s := s.stopJobs left (if early then svProgFail else svAborted)
    let t := s.saltern
    let asleep := s.power.sleep == SleepState.slack
    let clockHit := src == TamperSource.clockGlitch
    let voltHit := src == TamperSource.aonGlitch || src == TamperSource.coreGlitch
    let pinHit := src == TamperSource.pin
    let d := if s.eng.drbg == DrbgState.error then DrbgState.error else DrbgState.uninstantiated
    let t := { t with slots := [], tamperCount := satAdd t.tamperCount 1, tampered := true, inSlack := asleep }
    let t := { t with clockGlitch := t.clockGlitch || clockHit, voltGlitch := t.voltGlitch || voltHit
                      pinSeen := t.pinSeen || pinHit }
    let e := ((s.eng.abortCtxs fun _ => true).abortPke).wipePke
    let e := { e with ctxs := [], drbg := d, drbgK := [], drbgV := [], drbgCount := 0, entropy := [] }
    let s := { s with saltern := t, eng := e }
    ((if s.enginesRun then s.settleEngines else s).boots).settleMbx

def execTamperEvent (src : TamperSource) (left : FuseOutcome) (s : State) : Host.Outcome State Fault Refusal :=
  .next (tamperEvent src left s)

end Sys2Proof.Machine
end

