-- ==== Sys2Proof/Machine/I3cTarget.lean ====
section
/-! DEFINITION. The management bus (R449 to R455, R421, R423): the I3C target's addresses, the common command codes it answers, and its
private commands. -/
namespace Sys2Proof.Machine

/-- The provisioned ID (Table 19.1). -/
def State.pid (s : State) : Nat := 0x2A6E * 2 ^ 33 + 0x4E64 * 2 ^ 16 + s.i3c.addrSel.toNat * 2 ^ 12 + 0x021

/-- The target takes part: VDD_AON is in range and ADDR_SEL has been sampled (R421). -/
def State.i3cLive (s : State) : Bool := s.edge.aonUp && s.i3c.sampled

/-- A change of the target by a command that it sees. -/
def i3cRow (f : State → I3c) (s : State) : Host.Outcome State Fault Refusal :=
  .next (if s.i3cLive then { s with i3c := f s } else s)

/-- Bytes the target puts on the bus. -/
def i3cSay (f : State → List Byte) (s : State) : Host.Outcome State Fault Refusal :=
  i3cRow (fun s => { s.i3c with answer := f s }) s

-- ## Common command codes (R450, R453)

/-- A target without a dynamic address answers with its ID, BCR and DCR and takes the address. -/
def execEntdaa (a : BitVec 7) (s : State) : Host.Outcome State Fault Refusal :=
  i3cRow (fun s => match s.i3c.dynAddr with
    | some _ => s.i3c
    | none => { s.i3c with dynAddr := some a, answer := beBytes 6 s.pid ++ [0, 0] }) s

/-- A target without a dynamic address takes the one sent to its static address, 0x50 + ADDR_SEL. -/
def execSetdasa (static dyn : BitVec 7) (s : State) : Host.Outcome State Fault Refusal :=
  i3cRow (fun s =>
    if s.i3c.dynAddr = none ∧ static.toNat = 0x50 + s.i3c.addrSel.toNat then { s.i3c with dynAddr := some dyn } else s.i3c) s

def execRstdaa (s : State) : Host.Outcome State Fault Refusal := i3cRow (fun s => { s.i3c with dynAddr := none }) s
def execGetpid (s : State) : Host.Outcome State Fault Refusal := i3cSay (fun s => beBytes 6 s.pid) s
def execGetbcr (s : State) : Host.Outcome State Fault Refusal := i3cSay (fun _ => [0x00]) s
def execGetdcr (s : State) : Host.Outcome State Fault Refusal := i3cSay (fun _ => [0x00]) s

/-- The 16 bits of GETSTATUS; the protocol-error bit is the standard's and reads 0 here (PRESUMED [log 42]). -/
def State.i3cStatus (s : State) : Nat :=
  b2n s.edge.ready * 2 ^ 15 + phaseCode s.saltern.phase * 2 ^ 12 + b2n s.edge.faultLow * 2 ^ 11 + b2n s.i3c.holdLatch * 2 ^ 10
    + b2n s.i3c.onRefclk * 2 ^ 9

def execGetstatus (s : State) : Host.Outcome State Fault Refusal := i3cSay (fun s => beBytes 2 s.i3cStatus) s
/-- Accepted; there is no interrupt for it to affect. -/
def execEnec (s : State) : Host.Outcome State Fault Refusal := .next s
/-- Accepted; there is no interrupt for it to affect. -/
def execDisec (s : State) : Host.Outcome State Fault Refusal := .next s

-- ## Private commands (R454, R455)

/-- Registers that REG_READ returns at all times (R455). -/
def i3cAlways (off : Nat) : Bool :=
  [0x000, 0x010, 0x014, 0x848, 0x84C, 0xA08, 0xD00].contains off || (0xD40 ≤ off && off < 0xE40)

/-- The response to REG_READ: a status and the words. A word that reads as 0 for want of READY takes precedence over a clamp, whose
code says that the data are valid (DEDUCED [log 45]). -/
def State.regReadResponse (s : State) (off count : Nat) : List Byte :=
  let o := off / 4 * 4
  let n0 := min 16 (max 1 count)
  let n := min n0 ((0x10000 - o) / 4)
  let offs := (List.range n).map fun i => o + 4 * i
  let hidden (x : Nat) : Bool := !s.edge.ready && !i3cAlways x
  let st : Byte := if offs.any hidden then 1 else if o != off || n != count then 3 else 0
  st :: offs.flatMap fun x => leBytes 4 (if hidden x then 0 else s.glbWord x)

def execRegRead (off : BitVec 16) (count : Byte) (s : State) : Host.Outcome State Fault Refusal :=
  i3cRow (fun s => { s.i3c with response := s.regReadResponse off.toNat count.toNat }) s

/-- HOLD_SET acts at once, even while PORST_N is low. -/
def execHoldSet (s : State) : Host.Outcome State Fault Refusal :=
  i3cRow (fun s => { s.i3c with holdLatch := true, response := [0x00] }) s
def execHoldClear (s : State) : Host.Outcome State Fault Refusal :=
  i3cRow (fun s => { s.i3c with holdLatch := false, response := [0x00] }) s

/-- A private read returns the response from its start; it ends where the response does. -/
def execI3cPrivateRead (n : BitVec 8) (s : State) : Host.Outcome State Fault Refusal :=
  i3cSay (fun s => s.i3c.response.take n.toNat) s

/-- While the bus is idle after a STOP, the target takes REFCLK where the always-on domain sees its edges, else the AON oscillator
(R452). -/
def execI3cClockSourceSwitch (refclk : Bool) (s : State) : Host.Outcome State Fault Refusal :=
  .next (if s.edge.aonUp && (!refclk || !s.edge.porst || s.edge.refclkOk) then { s with i3c := { s.i3c with onRefclk := refclk } } else s)

end Sys2Proof.Machine
end

