-- ==== Sys2Proof/Machine/Query.lean ====
section
/-! DEFINITION. QUERY (R223, R236, R255, R409) with its operator selectors (R463), STAGE (R217, R220), and two events of the pans and
vaults: clock gating (R275) and refresh (R268). -/
namespace Sys2Proof.Machine

-- ## QUERY

/-- The 40-bit RESULT address and RLEN. -/
def Cmd.result (c : Cmd) : Nat := c.addr 24
def Cmd.rlen (c : Cmd) : Nat := c.f 32 4

/-- A QUERY with its result: the first RLEN bytes are written, if the partition may write them (R216; DEDUCED [log 43]). `src` is what the
device reads in memory for it, as base and length: a bunded vault there counts with the result's, and a marked unit, which no check reads,
ends the command after them (R436, R442). -/
def queryFrom (src : Nat × Nat) (bytes : List Byte) (c : Cmd) (s : State) : State :=
  let out := bytes.take c.rlen
  checked [(s.noWrite c.part c.result out.length, stDenied),
    (s.fencedAt c.result out.length || s.fencedAt src.1 src.2, stFenced), (s.marked src.1 src.2 && src.2 != 0, stPoison)]
    (fun s => (s.engineWrite c.result out).complete c.seq (if c.rlen < bytes.length then stTrunc else stOk)) c s

/-- A QUERY whose result needs no memory. -/
def queryPut (bytes : List Byte) (c : Cmd) (s : State) : State := queryFrom (0, 0) bytes c s

/-- A QUERY whose named object exists gives its result; otherwise BAD_HANDLE. -/
def queryRow (what : Nat) (result : Cmd → State → Option (List Byte)) (seq : DWord) (s : State) :
    Host.Outcome State Fault Refusal :=
  .next (startRow 11 (fun x => x == what) (fun c s =>
    match result c s with
    | none => s.complete c.seq stBadHandle
    | some bytes => queryPut bytes c s) seq s)

/-- Masks of the partitions in service and of the bunded pans. -/
def State.serviceMask (s : State) : Nat := listMask (partsAll.filter s.inService)
def State.bundedMask (s : State) : Nat := listMask (pansAll.filter fun p => (s.pan p).bunded)

def queryDeviceBytes (_ : Cmd) (s : State) : Option (List Byte) :=
  some (leBytes 4 0x00020001 ++ leBytes 2 s.serviceMask ++ [0, 0] ++ leBytes 8 s.bundedMask)

def execQueryDevice (seq : DWord) (s : State) : Host.Outcome State Fault Refusal := queryRow 0 queryDeviceBytes seq s

/-- Table 8.10. The fields shown are those in force; CHANGE_PENDING tells of committed ones in waiting (R209). -/
def queryQueueBytes (c : Cmd) (s : State) : Option (List Byte) :=
  let q := c.f 10 2
  if s.queueOwner q != some c.part then none else
    let x := s.ctx q
    let pending := !x.live.sameRings (s.cfg.ctx q)
    some (leBytes 4 x.tail.toNat ++ leBytes 4 x.head.toNat ++ leBytes 4 x.ctail.toNat ++ leBytes 4 x.chead.toNat
      ++ leBytes 8 x.live.ringBase.toNat ++ leBytes 8 x.live.cplBase.toNat ++ leBytes 2 x.live.depth.toNat
      ++ [x.live.weight, BitVec.ofNat 8 (b2n x.live.enable + 2 * b2n pending)]
      ++ leBytes 4 (s.cmds.filter fun d => d.queue == q).length ++ leBytes 8 x.lastSeq.toNat)

def execQueryQueue (seq : DWord) (s : State) : Host.Outcome State Fault Refusal := queryRow 1 queryQueueBytes seq s

/-- Table 8.11. -/
def queryProgramBytes (c : Cmd) (s : State) : Option (List Byte) :=
  let r := s.region false c.part (c.f 9 1)
  if !r.loaded then none else
    let g := r.prog
    some (leBytes 4 g.nInstr ++ leBytes 1 g.nDesc ++ [g.flags] ++ leBytes 1 g.pansMin ++ leBytes 1 g.pansMax
      ++ leBytes 4 g.staticCycles.toNat ++ leBytes 4 g.clampedWords ++ leBytes 4 (g.firstClamped.getD 0xFFFFFFFF)
      ++ leBytes 4 (b2n (8192 < g.nDesc + g.nInstr)) ++ leBytes 8 r.base ++ leBytes 8 r.len ++ List.replicate 8 0
      ++ slice r.digest 0 48)

def execQueryProgram (seq : DWord) (s : State) : Host.Outcome State Fault Refusal := queryRow 2 queryProgramBytes seq s

/-- The retained entries from ARG on, each as the initiator may see it. -/
def queryTallyBytes (c : Cmd) (s : State) : Option (List Byte) :=
  let arg := c.f 16 8
  let es := s.tally.entries.filter fun e => arg ≤ e.seq.toNat
  let first := if s.tally.head.toNat ≤ arg then arg else max arg s.tallyOldest.toNat
  some (leBytes 8 first ++ leBytes 4 es.length ++ List.replicate 4 0 ++ es.flatMap fun e => (s.viewEntry c.ini e).bytes)

def execQueryTally (seq : DWord) (s : State) : Host.Outcome State Fault Refusal := queryRow 3 queryTallyBytes seq s

/-- An entry of a record as the initiator may see it: the filter of R236 on its bytes. A place that holds no entry reads zero. -/
def State.viewBytes (s : State) (ini : Ini) (b : List Byte) : List Byte :=
  if s.isOperator ini || s.boundTo ini == some (leAt b 9 1) || b.all (· == 0) then b
  else slice b 0 8 ++ List.replicate 18 0 ++ [(b.getD 26 0) ||| 2] ++ List.replicate 5 0

/-- The newest checkpoint record, by the SEQ of its newest entry. -/
def queryCkptBytes (c : Cmd) (s : State) : Option (List Byte) :=
  let pages := ((List.range 1024).map fun i => s.flashRead (ckptArea + 4096 * i) 4096).filter fun r => leAt r 0 4 == 0x4E345443
  let best := pages.foldl (fun (m : Option (List Byte)) r => match m with
    | none => some r
    | some x => if leAt x 0x10 8 ≤ leAt r 0x10 8 then some r else some x) none
  if !s.boot.flashPresent then none else
    best.map fun r => slice r 0 64 ++ (List.range 126).flatMap fun i => s.viewBytes c.ini (slice r (64 + 32 * i) 32)

def execQueryTallyCkpt (seq : DWord) (s : State) : Host.Outcome State Fault Refusal := queryRow 4 queryCkptBytes seq s

/-- Table 16.5. -/
def queryWeightsBytes (c : Cmd) (s : State) : Option (List Byte) :=
  let r := s.region true c.part (c.f 9 1)
  if !r.loaded then none else
    some (leBytes 8 r.base ++ leBytes 8 r.len ++ leBytes 8 r.plen.toNat ++ leBytes 8 r.loadSeq.toNat
      ++ leBytes 16 r.status.toNat ++ slice r.digest 0 48)

def execQueryWeights (seq : DWord) (s : State) : Host.Outcome State Fault Refusal := queryRow 5 queryWeightsBytes seq s

/-- Table 9.18. -/
def queryPartBytes (c : Cmd) (s : State) : Option (List Byte) :=
  let p := c.part
  let v := s.part p
  some (leBytes 4 (s.prtState p) ++ leBytes 4 v.epoch.toNat ++ leBytes 8 (s.cfg.part p).pans.toNat ++ leBytes 8 (listMask (s.usable p))
    ++ leBytes 4 (s.prtDispatch p) ++ leBytes 4 (s.backlog p) ++ leBytes 4 (s.kvState p) ++ leBytes 4 v.confLast.toNat
    ++ leBytes 4 v.confMax.toNat ++ leBytes 4 v.confCount.toNat ++ leBytes 8 v.stepCount.toNat ++ List.replicate 8 0)

def execQueryPartition (seq : DWord) (s : State) : Host.Outcome State Fault Refusal := queryRow 6 queryPartBytes seq s

/-- NH and the committed length of each head stream of a bound handle; a header that cannot be read ends the command after the checks of
R216 (R436, R442). -/
def querySeqAct (c : Cmd) (s : State) : State :=
  let h := c.f 16 8
  let q := s.seqH h
  if 4096 ≤ h || !q.bound || q.part != c.part then s.complete c.seq stBadHandle
  else queryFrom (q.table, 16 * q.nh) (leBytes 4 q.nh ++ (List.range q.nh).flatMap fun i => s.read (q.header i) 4) c s

def execQuerySequence (seq : DWord) (s : State) : Host.Outcome State Fault Refusal :=
  .next (startRow 11 (fun x => x == 7) querySeqAct seq s)

-- ## Operator selectors (R463)

/-- 64 bytes of a pan's counters. -/
def State.profileBytes (s : State) (p : Nat) : List Byte :=
  let v := s.pan p
  leBytes 8 v.cycles.toNat ++ leBytes 8 v.profIssue.toNat ++ leBytes 8 v.profCell.toNat ++ leBytes 8 v.profVec.toNat
    ++ leBytes 8 v.profMove.toNat ++ leBytes 8 v.profGated.toNat ++ leBytes 8 v.profBubble.toNat ++ leBytes 4 (s.panStatus p)
    ++ List.replicate 4 0

def profileResult (c : Cmd) (s : State) : Option (List Byte) :=
  let mask := c.f 16 8
  some ((if mask = 0 then pansAll else maskList mask 64).flatMap s.profileBytes)

def execProfile (seq : DWord) (s : State) : Host.Outcome State Fault Refusal := queryRow 0x80 profileResult seq s

/-- A selector of a session: the session begins with it. -/
def debugRow (what : Nat) (act : Cmd → State → State) (seq : DWord) (s : State) : State :=
  startRow 11 (fun x => x == what) (fun c s => act c (s.beginSession (.query c.ini))) seq s

/-- RLEN rounded up to 16 B and clamped to 1 MiB, and the clamp bit of a change. -/
def dbgLen (n : Nat) : Nat × BitVec 16 :=
  let k := min 0x100000 (cdiv n 16 * 16)
  (k, if k = n then 0 else cLength)

/-- `[a, a + n)` cut at 16 B units, as address and length. -/
def unitCuts (fuel a n : Nat) : List (Nat × Nat) :=
  match fuel with
  | 0 => []
  | fuel + 1 =>
    if n = 0 then [] else
      let k := min n (16 - a % 16)
      (a, k) :: unitCuts fuel (a + k) (n - k)

/-- What a debug access met over all its units: POISON comes first. -/
def dbgStatusOf (sts : List (BitVec 3)) : Byte :=
  if sts.contains dPoisoned then stPoison else if sts.all (· == dOk) then stOk else stDenied

def dbgReadAct (c : Cmd) (s : State) : State :=
  let (n, m) := dbgLen c.rlen
  let s := s.clampCmd c.seq m
  checked [(s.noWrite c.part c.result n, stDenied), (s.fencedAt c.result n, stFenced)] (fun s =>
    let (sts, d, s) := (unitCuts (n / 16 + 2) (c.f 16 8) n).foldl
      (fun (x : List (BitVec 3) × List Byte × State) u =>
        let (st, d, s) := if u.1 < 2 ^ 40 then dbgRead c.ini u.1 u.2 x.2.2 else (dUnmapped, List.replicate u.2 0, x.2.2)
        (x.1 ++ [st], x.2.1 ++ d, s)) ([], [], s)
    (s.engineWrite c.result d).complete c.seq (dbgStatusOf sts)) c s

/-- A read that a race slot holds has no effect yet (R191). -/
def execDbgRead (seq : DWord) (s : State) : Host.Outcome State Fault Refusal :=
  .next (match s.cmd? seq with
    | some c => if s.readHeld (c.f 16 8) (dbgLen c.rlen).1 then s else debugRow 0x88 dbgReadAct seq s
    | none => s)

/-- The source is RESULT; a poisoned unit of it is skipped. -/
def dbgWriteAct (c : Cmd) (s : State) : State :=
  let (n, m) := dbgLen c.rlen
  let s := s.clampCmd c.seq m
  checked [(s.noRead c.part c.result n, stDenied), (s.fencedAt c.result n, stFenced)] (fun s =>
    let to' := c.f 16 8
    let (sts, s) := (unitCuts (n / 16 + 2) to' n).foldl (fun (x : List (BitVec 3) × State) u =>
        let src := c.result + (u.1 - to')
        let (st, s) := if x.2.marked src u.2 then (dPoisoned, x.2)
          else if u.1 < 2 ^ 40 then dbgWrite c.ini u.1 (x.2.read src u.2) x.2 else (dUnmapped, x.2.refuse)
        (x.1 ++ [st], s)) ([], s)
    s.complete c.seq (dbgStatusOf sts)) c s

def execDbgWrite (seq : DWord) (s : State) : Host.Outcome State Fault Refusal := .next (debugRow 0x89 dbgWriteAct seq s)

/-- HANDLE 0 halts, 1 resumes; a bunded pan cannot be halted (R462). -/
def dbgHaltAct (c : Cmd) (s : State) : State :=
  let p := fld (c.f 16 1) 0 6
  if 1 < c.f 9 1 then s.complete c.seq stBadHandle
  else if c.f 9 1 = 1 then (s.unhold p (.query c.ini)).complete c.seq stOk
  else
    let (ok, s) := s.hold p (.query c.ini)
    s.complete c.seq (if ok then stOk else stFenced)

/-- DBG_HALT with HANDLE 0. The row of the table for HANDLE 1 is `execDbgResume`. -/
def haltRow (resume : Bool) (seq : DWord) (s : State) : State :=
  match s.cmd? seq with
  | some c => if (c.f 9 1 == 1) != resume then s else debugRow 0x8A dbgHaltAct seq s
  | none => s

def execDbgHalt (seq : DWord) (s : State) : Host.Outcome State Fault Refusal := .next (haltRow false seq s)
def execDbgResume (seq : DWord) (s : State) : Host.Outcome State Fault Refusal := .next (haltRow true seq s)

/-- DBG_PANSTATE. The widths of the step offset and the gather count within the 64 bytes are the model's (DESIGN CHOICE [log 44]); how
full a pan's queues are is a free value. -/
def panstateAct (c : Cmd) (s : State) : State :=
  let p := fld (c.f 16 1) 0 6
  let v := s.touchPan p |>.pan p
  let idx := (v.loops.reverse.map fun l => l.iter) ++ List.replicate (4 - v.loops.length) 0
  let (occ, s) := (s.touchPan p).freeBytes 3
  queryPut (leBytes 4 (s.panStatus p) ++ leBytes 4 (s.panProg p) ++ (idx.take 4).flatMap (leBytes 4) ++ leBytes 8 v.stepOff.toNat
    ++ leBytes 4 v.gcount ++ occ ++ List.replicate 25 0) c s

def execDbgPanstate (seq : DWord) (s : State) : Host.Outcome State Fault Refusal := .next (debugRow 0x8B panstateAct seq s)

def execDbgEnd (seq : DWord) (s : State) : Host.Outcome State Fault Refusal :=
  .next (startRow 11 (fun x => x == 0x8F) (fun c s => (s.endSession (.query c.ini)).complete c.seq stOk) seq s)

-- ## STAGE (R220)

/-- A staged context field. -/
def CtxCfg.stage (c : CtxCfg) (field v : Nat) : CtxCfg :=
  let low := v % 2 ^ 32
  match field with
  | 0 => { c with ringBase := BitVec.ofNat 64 (v % 2 ^ 40) }
  | 1 => { c with cplBase := BitVec.ofNat 64 (v % 2 ^ 40) }
  | 2 => { c with depth := BitVec.ofNat 16 (min low 0xFFFF) }
  | 3 => { c with weight := BitVec.ofNat 8 (min low 0xFF) }
  | _ => { c with enable := low != 0 }

/-- What one entry stages, or the status that it fails with. -/
def State.stageEntry (s : State) (c : Cmd) (e : List Byte) : Except Byte (DevCfg → DevCfg) :=
  let op := s.isOperator c.ini
  let v := leAt e 8 8
  match leAt e 0 1 with
  | 0 =>
    match rwsAt (leAt e 4 4) with
    | some (r, 0) =>
      if leAt e 4 4 % 4 = 0 && (op || s.rwsPart r == some c.part) then
        .ok fun d => d.set r (if r.width = 4 then v % 2 ^ 32 else v)
      else .error stDenied
    | _ => .error stDenied
  | 1 =>
    let q := leAt e 2 2
    if 4 < leAt e 1 1 then .error stBadHandle
    else if 4096 ≤ q || !(op || s.queueOwner q == some c.part) then .error stDenied
    else .ok fun d => d.setCtx q ((d.ctx q).stage (leAt e 1 1) v)
  | _ => .error stBadHandle

/-- Every entry in order: the first that fails sets the status. -/
def State.stageAll (s : State) (c : Cmd) (d : DevCfg) : List (List Byte) → Except Byte DevCfg
  | [] => .ok d
  | e :: es => match s.stageEntry c e with
    | .error st => .error st
    | .ok f => State.stageAll s c (f d) es

def stageAct (c : Cmd) (s : State) : State :=
  let a := c.addr 16
  let n := c.f 24 8
  checked [(s.noRead c.part a n, stDenied), (s.fencedAt a n, stFenced)] (fun s =>
    if n < 16 then s.countShort.complete c.seq stShort
    else if s.marked a 16 then s.countShort.complete c.seq stPoison else
    let count := min 256 (s.readN a 4)
    let s := s.clampCmd c.seq (if s.readN a 4 = count then 0 else cLength)
    let need := 16 + 16 * count
    if n < need then s.countShort.complete c.seq stShort
    else if s.marked a need then s.countShort.complete c.seq stPoison
    else match s.stageAll c s.shadow ((List.range count).map fun i => s.read (a + 16 + 16 * i) 16) with
      | .error st => s.complete c.seq st
      | .ok d =>
        let s := if need < n then s.countTrunc else s
        ({ s with shadow := d } : State).complete c.seq (if need < n then stTrunc else stOk)) c s

def execStage (seq : DWord) (s : State) : Host.Outcome State Fault Refusal := .next (startRow 12 (fun _ => true) stageAct seq s)

-- ## Clock gating and refresh

/-- A pan whose last command has ended gates its clock, after the GATE_DELAY pan cycles of its partition, which PAN_CYCLE counts; the
pan of an armed slot never does (R54, R275). How long a pan of no partition waits is a free value. -/
def panClockGate (p : Nat) (s : State) : State :=
  let v := s.pan p
  let armed := match s.slotOf p with
    | some i => (s.slot i).st == .armed || (s.slot i).st == .busy || (s.slot i).st == .arming
    | none => false
  if !s.up || v.gated || v.bunded || v.run.isSome || v.st != .idle || armed then s else
    match s.panPart p with
    | some q => s.modPan p fun v => { v with gated := true, cycles := v.cycles + BitVec.ofNat 64 (fld (s.cfg.part q).pwr.toNat 0 10) }
    | none =>
      let (k, s) := s.draw
      s.modPan p fun v => { v with gated := true, cycles := v.cycles + BitVec.ofNat 64 (freeCycles k).toNat }

def execPanClockGate (p : BitVec 6) (s : State) : Host.Outcome State Fault Refusal := .next (panClockGate p.toNat s)

/-- What a refresh of a channel can find (R130): errors of the vault's array in that channel, which the 256 B interleave gives. -/
def refreshSees (v ch : Nat) (d : Detection) : Bool :=
  match d with
  | .vaultArray u => vaultOf u.toNat == some v && u.toNat % vaultSize / 256 % 16 == ch
  | .corrected p _ l => p == 0 && l == 0
  | .panStore | .instrMemory | .accParity | .bondRetry _ _ | .bondFail _ | .lpInline _ | .meshData _ | .meshHeader | .salternSram =>
    false

/-- The time-locked command whose locked rows hold a vault. -/
def State.lockedOver (s : State) (v : Nat) : Option Cmd := s.cmds.find? fun c => c.locked && c.pans.any fun p => p / 8 = v

/-- A refresh of a channel falls due: postponed under a time lock, up to 8; a ninth ends the lock (R123, R268). Errors that the refresh
meets are handled as on a read. In DOZE and SLACK the DRAM refreshes itself. -/
def vaultRefresh (v ch : Nat) (ds : List Detection) (s : State) : State :=
  if !s.live || s.power.sleep == .doze || s.power.sleep == .slack then s else
    let key := 16 * v + ch
    let n := s.memSys.postponed.look 0 key
    let put (s : State) (k : Nat) : State := { s with memSys := { s.memSys with postponed := s.memSys.postponed.put 0 key k } }
    let done (s : State) : State := (put s 0).detectAll none {} (ds.filter (refreshSees v ch))
    match s.lockedOver v with
    | none => done s
    | some _ => if n < 8 then put s (n + 1) else done (s.lockWhere (fun c => c.onPath v v) 6)

def execVaultRefresh (v : BitVec 3) (ch : BitVec 4) (ds : List Detection) (s : State) : Host.Outcome State Fault Refusal :=
  .next (vaultRefresh v.toNat ch.toNat ds s)

end Sys2Proof.Machine
end

