-- ==== Sys2Proof/Machine/Dispatch.lean ====
section
/-! DEFINITION. The dispatch: one arm per command, each one call of that command's meaning. -/
namespace Sys2Proof.Machine

-- The effect of a command on everything but the queue.
def exec (i : Instr) (s : State) : Host.Outcome State Fault Refusal :=
  match i with
  | .registerWrite r off value be => Sys2Proof.Machine.execRegisterWrite r off value be s
  | .latchedLowWordRead ini off => Sys2Proof.Machine.execLatchedLowWordRead ini off s
  | .latchedHighWordRead ini off => Sys2Proof.Machine.execLatchedHighWordRead ini off s
  | .vddAonRise => Sys2Proof.Machine.execVddAonRise s
  | .i3cAddrSample a b c => Sys2Proof.Machine.execI3cAddrSample a b c s
  | .vddAonLoss => Sys2Proof.Machine.execVddAonLoss s
  | .porstNFall left => Sys2Proof.Machine.execPorstNFall left s
  | .porstNRise env => Sys2Proof.Machine.execPorstNRise env s
  | .strapWindowStart => Sys2Proof.Machine.execStrapWindowStart s
  | .strapSample a b c => Sys2Proof.Machine.execStrapSample a b c s
  | .railFault rail => Sys2Proof.Machine.execRailFault rail s
  | .panSupplyFault g => Sys2Proof.Machine.execPanSupplyFault g s
  | .refclkLoss => Sys2Proof.Machine.execRefclkLoss s
  | .tamperEvent src left => Sys2Proof.Machine.execTamperEvent src left s
  | .ignorePeriodEnd pinLow => Sys2Proof.Machine.execIgnorePeriodEnd pinLow s
  | .regAlertAssert => Sys2Proof.Machine.execRegAlertAssert s
  | .thermTrip => Sys2Proof.Machine.execThermTrip s
  | .thermShutdown => Sys2Proof.Machine.execThermShutdown s
  | .spillwayRelease => Sys2Proof.Machine.execSpillwayRelease s
  | .spillwayClimb g => Sys2Proof.Machine.execSpillwayClimb g s
  | .slackWake => Sys2Proof.Machine.execSlackWake s
  | .ucieTrainingDone module1 res => Sys2Proof.Machine.execUcieTrainingDone module1 res s
  | .ucieModuleDrop module1 => Sys2Proof.Machine.execUcieModuleDrop module1 s
  | .rd module1 hdr ds => Sys2Proof.Machine.execRd module1 hdr ds s
  | .wr module1 hdr data ds => Sys2Proof.Machine.execWr module1 hdr data ds s
  | .doorbellWrite r q value => Sys2Proof.Machine.execDoorbellWrite r q value s
  | .commandAccept => Sys2Proof.Machine.execCommandAccept s
  | .contextRingChange q => Sys2Proof.Machine.execContextRingChange q s
  | .nop seq => Sys2Proof.Machine.execNop seq s
  | .runProgram seq => Sys2Proof.Machine.execRunProgram seq s
  | .loadProgram seq => Sys2Proof.Machine.execLoadProgram seq s
  | .loadWeights seq => Sys2Proof.Machine.execLoadWeights seq s
  | .sealedCopyDone seq ds => Sys2Proof.Machine.execSealedCopyDone seq ds s
  | .measureProgram seq => Sys2Proof.Machine.execMeasureProgram seq s
  | .measureWeights seq => Sys2Proof.Machine.execMeasureWeights seq s
  | .measureOwner seq => Sys2Proof.Machine.execMeasureOwner seq s
  | .kvBind seq => Sys2Proof.Machine.execKvBind seq s
  | .kvRelease seq => Sys2Proof.Machine.execKvRelease seq s
  | .clearRegionProgram seq => Sys2Proof.Machine.execClearRegionProgram seq s
  | .clearRegionWeights seq => Sys2Proof.Machine.execClearRegionWeights seq s
  | .clearRegionRange seq => Sys2Proof.Machine.execClearRegionRange seq s
  | .setSeed seq => Sys2Proof.Machine.execSetSeed seq s
  | .fenceQueue seq => Sys2Proof.Machine.execFenceQueue seq s
  | .fencePartition seq => Sys2Proof.Machine.execFencePartition seq s
  | .abortCommand seq => Sys2Proof.Machine.execAbortCommand seq s
  | .abortQueue seq => Sys2Proof.Machine.execAbortQueue seq s
  | .abortPartition seq => Sys2Proof.Machine.execAbortPartition seq s
  | .queryDevice seq => Sys2Proof.Machine.execQueryDevice seq s
  | .queryQueue seq => Sys2Proof.Machine.execQueryQueue seq s
  | .queryProgram seq => Sys2Proof.Machine.execQueryProgram seq s
  | .queryTally seq => Sys2Proof.Machine.execQueryTally seq s
  | .queryTallyCkpt seq => Sys2Proof.Machine.execQueryTallyCkpt seq s
  | .queryWeights seq => Sys2Proof.Machine.execQueryWeights seq s
  | .queryPartition seq => Sys2Proof.Machine.execQueryPartition seq s
  | .querySequence seq => Sys2Proof.Machine.execQuerySequence seq s
  | .profile seq => Sys2Proof.Machine.execProfile seq s
  | .dbgRead seq => Sys2Proof.Machine.execDbgRead seq s
  | .dbgWrite seq => Sys2Proof.Machine.execDbgWrite seq s
  | .dbgHalt seq => Sys2Proof.Machine.execDbgHalt seq s
  | .dbgResume seq => Sys2Proof.Machine.execDbgResume seq s
  | .dbgPanstate seq => Sys2Proof.Machine.execDbgPanstate seq s
  | .dbgEnd seq => Sys2Proof.Machine.execDbgEnd seq s
  | .stage seq => Sys2Proof.Machine.execStage seq s
  | .commitPartition seq => Sys2Proof.Machine.execCommitPartition seq s
  | .commitDevice seq => Sys2Proof.Machine.execCommitDevice seq s
  | .prtCommitGo r p => Sys2Proof.Machine.execPrtCommitGo r p s
  | .prtCommitDiscard r p => Sys2Proof.Machine.execPrtCommitDiscard r p s
  | .glbCommitGo r => Sys2Proof.Machine.execGlbCommitGo r s
  | .glbCommitDiscard r => Sys2Proof.Machine.execGlbCommitDiscard r s
  | .epochBoundary p => Sys2Proof.Machine.execEpochBoundary p s
  | .partitionClearDone p v => Sys2Proof.Machine.execPartitionClearDone p v s
  | .copy p ds => Sys2Proof.Machine.execCopy p ds s
  | .fill p ds => Sys2Proof.Machine.execFill p ds s
  | .cycle p ds => Sys2Proof.Machine.execCycle p ds s
  | .matmulTile p ds => Sys2Proof.Machine.execMatmulTile p ds s
  | .matmulStream p ds => Sys2Proof.Machine.execMatmulStream p ds s
  | .kvAppend p ds => Sys2Proof.Machine.execKvAppend p ds s
  | .add p ds => Sys2Proof.Machine.execAdd p ds s
  | .sub p ds => Sys2Proof.Machine.execSub p ds s
  | .mul p ds => Sys2Proof.Machine.execMul p ds s
  | .fma p ds => Sys2Proof.Machine.execFma p ds s
  | .max p ds => Sys2Proof.Machine.execMax p ds s
  | .min p ds => Sys2Proof.Machine.execMin p ds s
  | .abs p ds => Sys2Proof.Machine.execAbs p ds s
  | .neg p ds => Sys2Proof.Machine.execNeg p ds s
  | .convert p ds => Sys2Proof.Machine.execConvert p ds s
  | .shr p ds => Sys2Proof.Machine.execShr p ds s
  | .recip p ds => Sys2Proof.Machine.execRecip p ds s
  | .rsqrt p ds => Sys2Proof.Machine.execRsqrt p ds s
  | .exp p ds => Sys2Proof.Machine.execExp p ds s
  | .sigmoid p ds => Sys2Proof.Machine.execSigmoid p ds s
  | .silu p ds => Sys2Proof.Machine.execSilu p ds s
  | .iadd p ds => Sys2Proof.Machine.execIadd p ds s
  | .isub p ds => Sys2Proof.Machine.execIsub p ds s
  | .imul p ds => Sys2Proof.Machine.execImul p ds s
  | .reduceAdd p ds => Sys2Proof.Machine.execReduceAdd p ds s
  | .reduceMax p ds => Sys2Proof.Machine.execReduceMax p ds s
  | .quantRuntime p ds => Sys2Proof.Machine.execQuantRuntime p ds s
  | .quantLearned p ds => Sys2Proof.Machine.execQuantLearned p ds s
  | .dequantFp32 p ds => Sys2Proof.Machine.execDequantFp32 p ds s
  | .dequantBf16 p ds => Sys2Proof.Machine.execDequantBf16 p ds s
  | .score p ds => Sys2Proof.Machine.execScore p ds s
  | .softmax p ds => Sys2Proof.Machine.execSoftmax p ds s
  | .value p ds => Sys2Proof.Machine.execValue p ds s
  | .gatherKeys p ds => Sys2Proof.Machine.execGatherKeys p ds s
  | .gatherValues p ds => Sys2Proof.Machine.execGatherValues p ds s
  | .greedy p ds => Sys2Proof.Machine.execGreedy p ds s
  | .categorical p ds => Sys2Proof.Machine.execCategorical p ds s
  | .barrier p ds => Sys2Proof.Machine.execBarrier p ds s
  | .gatherAll p ds => Sys2Proof.Machine.execGatherAll p ds s
  | .sum p ds => Sys2Proof.Machine.execSum p ds s
  | .lseMerge p ds => Sys2Proof.Machine.execLseMerge p ds s
  | .argmax p ds => Sys2Proof.Machine.execArgmax p ds s
  | .broadcast p ds => Sys2Proof.Machine.execBroadcast p ds s
  | .confluenceRelease seq skew => Sys2Proof.Machine.execConfluenceRelease seq skew s
  | .loop p ds => Sys2Proof.Machine.execLoop p ds s
  | .wait p ds => Sys2Proof.Machine.execWait p ds s
  | .step p ds => Sys2Proof.Machine.execStep p ds s
  | .endProgram p ds => Sys2Proof.Machine.execEndProgram p ds s
  | .programBlockFetch p ds => Sys2Proof.Machine.execProgramBlockFetch p ds s
  | .panClockGate p => Sys2Proof.Machine.execPanClockGate p s
  | .vaultRefresh v ch ds => Sys2Proof.Machine.execVaultRefresh v ch ds s
  | .raceDoorbell r slot value => Sys2Proof.Machine.execRaceDoorbell r slot value s
  | .raceComplete slot late fabric => Sys2Proof.Machine.execRaceComplete slot late fabric s
  | .raceInWrite r slot off data => Sys2Proof.Machine.execRaceInWrite r slot off data s
  | .raceArmDone slot => Sys2Proof.Machine.execRaceArmDone slot s
  | .raceDisarm d => Sys2Proof.Machine.execRaceDisarm d s
  | .glbSleepDoze r => Sys2Proof.Machine.execGlbSleepDoze r s
  | .glbSleepSlack r => Sys2Proof.Machine.execGlbSleepSlack r s
  | .dozeEntry => Sys2Proof.Machine.execDozeEntry s
  | .slackEntry => Sys2Proof.Machine.execSlackEntry s
  | .dozeWake => Sys2Proof.Machine.execDozeWake s
  | .fastWake raw env => Sys2Proof.Machine.execFastWake raw env s
  | .capWindow w => Sys2Proof.Machine.execCapWindow w s
  | .droopTrip g => Sys2Proof.Machine.execDroopTrip g s
  | .stretchEnd g => Sys2Proof.Machine.execStretchEnd g s
  | .opIncrease r => Sys2Proof.Machine.execOpIncrease r s
  | .replanPoint => Sys2Proof.Machine.execReplanPoint s
  | .energySlackTick => Sys2Proof.Machine.execEnergySlackTick s
  | .checkpoint => Sys2Proof.Machine.execCheckpoint s
  | .mbxPush r c word be => Sys2Proof.Machine.execMbxPush r c word be s
  | .mbxPop r c => Sys2Proof.Machine.execMbxPop r c s
  | .flushIn r c => Sys2Proof.Machine.execFlushIn r c s
  | .serviceTimeout c => Sys2Proof.Machine.execServiceTimeout c s
  | .keyInfo c => Sys2Proof.Machine.execKeyInfo c s
  | .keyDerive c => Sys2Proof.Machine.execKeyDerive c s
  | .keyGenerate c => Sys2Proof.Machine.execKeyGenerate c s
  | .keyImport c => Sys2Proof.Machine.execKeyImport c s
  | .keyHmac c => Sys2Proof.Machine.execKeyHmac c s
  | .keySign c => Sys2Proof.Machine.execKeySign c s
  | .keyEcdh c => Sys2Proof.Machine.execKeyEcdh c s
  | .keyZeroise c => Sys2Proof.Machine.execKeyZeroise c s
  | .keyPublic c => Sys2Proof.Machine.execKeyPublic c s
  | .otpRead c => Sys2Proof.Machine.execOtpRead c s
  | .otpProgram c => Sys2Proof.Machine.execOtpProgram c s
  | .otpLock c => Sys2Proof.Machine.execOtpLock c s
  | .otpPulse left => Sys2Proof.Machine.execOtpPulse left s
  | .digest c => Sys2Proof.Machine.execDigest c s
  | .hmacVerify c => Sys2Proof.Machine.execHmacVerify c s
  | .random c => Sys2Proof.Machine.execRandom c s
  | .attestReport c => Sys2Proof.Machine.execAttestReport c s
  | .attestLog c => Sys2Proof.Machine.execAttestLog c s
  | .attestChain c => Sys2Proof.Machine.execAttestChain c s
  | .attestMr c => Sys2Proof.Machine.execAttestMr c s
  | .imageWrite c => Sys2Proof.Machine.execImageWrite c s
  | .digestDescriptor place desc input => Sys2Proof.Machine.execDigestDescriptor place desc input s
  | .p256Sign slot ops => Sys2Proof.Machine.execP256Sign slot ops s
  | .p256Verify ops => Sys2Proof.Machine.execP256Verify ops s
  | .p256Public slot => Sys2Proof.Machine.execP256Public slot s
  | .p384Sign slot ops => Sys2Proof.Machine.execP384Sign slot ops s
  | .p384Verify ops => Sys2Proof.Machine.execP384Verify ops s
  | .p384Public slot => Sys2Proof.Machine.execP384Public slot s
  | .p384Ecdh slot ops => Sys2Proof.Machine.execP384Ecdh slot ops s
  | .mldsaPublic slot => Sys2Proof.Machine.execMldsaPublic slot s
  | .mldsaSign slot msg => Sys2Proof.Machine.execMldsaSign slot msg s
  | .mldsaVerify pub msg sig => Sys2Proof.Machine.execMldsaVerify pub msg sig s
  | .rsa3072Verify ops => Sys2Proof.Machine.execRsa3072Verify ops s
  | .rsa4096Verify ops => Sys2Proof.Machine.execRsa4096Verify ops s
  | .drbgInstantiate startup raw => Sys2Proof.Machine.execDrbgInstantiate startup raw s
  | .drbgReseed raw => Sys2Proof.Machine.execDrbgReseed raw s
  | .entropyBufferRefill => Sys2Proof.Machine.execEntropyBufferRefill s
  | .healthTestFail raw => Sys2Proof.Machine.execHealthTestFail raw s
  | .transitionExamine => Sys2Proof.Machine.execTransitionExamine s
  | .bootClearDone v => Sys2Proof.Machine.execBootClearDone v s
  | .selfTestDone p pass => Sys2Proof.Machine.execSelfTestDone p pass s
  | .readyRise => Sys2Proof.Machine.execReadyRise s
  | .pushChunk r ctrl => Sys2Proof.Machine.execPushChunk r ctrl s
  | .abandon r ctrl => Sys2Proof.Machine.execAbandon r ctrl s
  | .profClear r p => Sys2Proof.Machine.execProfClear r p s
  | .testLogicReset => Sys2Proof.Machine.execTestLogicReset s
  | .extest => Sys2Proof.Machine.execExtest s
  | .samplePreload pins => Sys2Proof.Machine.execSamplePreload pins s
  | .idcode => Sys2Proof.Machine.execIdcode s
  | .highz => Sys2Proof.Machine.execHighz s
  | .clamp => Sys2Proof.Machine.execClamp s
  | .dbg => Sys2Proof.Machine.execDbg s
  | .bypass => Sys2Proof.Machine.execBypass s
  | .dbgNop => Sys2Proof.Machine.execDbgNop s
  | .read8B a => Sys2Proof.Machine.execRead8B a s
  | .write8B a d => Sys2Proof.Machine.execWrite8B a d s
  | .haltPan p => Sys2Proof.Machine.execHaltPan p s
  | .resumePan p => Sys2Proof.Machine.execResumePan p s
  | .haltSaltern => Sys2Proof.Machine.execHaltSaltern s
  | .resumeSaltern => Sys2Proof.Machine.execResumeSaltern s
  | .dbgStatus => Sys2Proof.Machine.execDbgStatus s
  | .entdaa a => Sys2Proof.Machine.execEntdaa a s
  | .setdasa static dyn => Sys2Proof.Machine.execSetdasa static dyn s
  | .rstdaa => Sys2Proof.Machine.execRstdaa s
  | .getpid => Sys2Proof.Machine.execGetpid s
  | .getbcr => Sys2Proof.Machine.execGetbcr s
  | .getdcr => Sys2Proof.Machine.execGetdcr s
  | .getstatus => Sys2Proof.Machine.execGetstatus s
  | .enec => Sys2Proof.Machine.execEnec s
  | .disec => Sys2Proof.Machine.execDisec s
  | .regRead off count => Sys2Proof.Machine.execRegRead off count s
  | .holdSet => Sys2Proof.Machine.execHoldSet s
  | .holdClear => Sys2Proof.Machine.execHoldClear s
  | .i3cPrivateRead n => Sys2Proof.Machine.execI3cPrivateRead n s
  | .i3cClockSourceSwitch refclk => Sys2Proof.Machine.execI3cClockSourceSwitch refclk s
  | .vppOtpLoss left => Sys2Proof.Machine.execVppOtpLoss left s
  | .droopDetectorClear g => Sys2Proof.Machine.execDroopDetectorClear g s
  | .boostLeave100C g => Sys2Proof.Machine.execBoostLeave100C g s
  | .clearRegionDone seq v => Sys2Proof.Machine.execClearRegionDone seq v s

end Sys2Proof.Machine
end

