-- ==== Sys2Proof/Safety.lean ====
section
/-! DEFINITION. The terms that claims about the block are stated in: the canonical form of memory, what a command leaves unchanged, and
what a pan's instruction leaves. -/
namespace Sys2Proof.Machine

/-- Memory in its one form: addresses rising, and no byte equal to what an unlisted address reads as. -/
abbrev Memory.wf (m : List Host.Cell) : Prop := Tab.wf m 0

/-- The byte at an address. -/
def State.byte (s : State) (a : Nat) : Byte := Tab.look s.mem 0 a

/-- A byte of the tally's spill ring in the Saltern reserve, which an entry of the tally may write (R116, R234). -/
def InSpill (s : State) (a : Nat) : Prop := reserveBase + 0x1000000 ≤ a ∧ a < reserveBase + 0x1000000 + 32 * s.tally.depth

/-- The pan is to execute a word of the class and function next. -/
def Runs (s : State) (p : BitVec 6) (e : PEnv) (cls func : Nat) : Prop :=
  s.fetch p.toNat = some e ∧ iClass e.w = cls ∧ iFunc e.w = func

/-- The bytes of an operand: `n` from its start. -/
def InSlot (p : Nat) (sl : Slot22) (n a : Nat) : Prop := ∃ k, k < n ∧ slotAddr p sl k = a

/-- A byte of the pan's store or accumulator. -/
def OwnMemory (p a : Nat) : Prop :=
  InSlot p { acc := false, ofs := 0 } 0x200000 a ∨ InSlot p { acc := true, ofs := 0 } 0x40000 a

/-- The half byte that an odd count of 4-bit elements at an operand leaves as it was. -/
def halfKept (s : State) (p : Nat) (sl : Slot22) (f : Fmt) (n : Nat) : List Nat :=
  if f.bits = 4 && n % 2 == 1 then [fld (leNat (s.slotRead p sl (n / 2) 1)) 4 4] else []

/-- What an instruction of a pan that only writes bytes leaves: beside the bytes of `hit`, everything as in `s`, where the pan is `v`
but for its sticky flags and its counters. -/
def PanFrame (p : Nat) (hit : Nat → Prop) (s : State) (v : Pan) (u : State) : Prop :=
  { u with mem := s.mem, poison := s.poison, pans := s.pans, drawn := s.drawn } = s
    ∧ (∀ q, q ≠ p → u.pan q = s.pan q)
    ∧ { u.pan p with
        arith := v.arith, cycles := v.cycles, profIssue := v.profIssue, profCell := v.profCell, profVec := v.profVec
        profMove := v.profMove, profGated := v.profGated } = v
    ∧ ∀ a, ¬ hit a → u.byte a = s.byte a

/-- The command completes: before the pan's program counter moves on, the operand holds the bytes, the flags have joined PAN_ARITH, and
nothing else changed from `s0`, where the pan was `v`. -/
def PanWrites (i : Instr) (p : Nat) (sl : Slot22) (bs : List Byte) (fl : AFlags) (s s0 : State) (v : Pan) : Prop :=
  ∃ u, exec i s = .next (u.advance p) ∧ u.slotRead p sl 0 bs.length = bs ∧ (u.pan p).arith = (s.pan p).arith ||| fl
    ∧ PanFrame p (InSlot p sl bs.length) s0 v u

/-- The accepted command is one of the opcode that the order of starts lets start, and whose row runs it. -/
def Starts (s : State) (c : Cmd) (op : Nat) : Prop :=
  s.cmd? c.seq = some c ∧ c.op = op ∧ c.bad = 0 ∧ s.canStart c = true ∧ s.noRow c = none

/-- The command as it stands once it has started. -/
def Cmd.begun (c : Cmd) : Cmd := { c with started := true, clamp := c.clamp ||| (if c.rsv then cRsv else 0) }

/-- The value a measurement register takes when an event is extended into it. -/
def extended (mr : List Byte) (index kind flags handle : Nat) (value : List Byte) : List Byte :=
  sha384 (mr ++ sha384 ([BitVec.ofNat 8 index, BitVec.ofNat 8 kind, BitVec.ofNat 8 flags, BitVec.ofNat 8 handle] ++ value))

/-- The state once what completes by itself has completed. -/
def State.settled (s : State) : State := s.settle (s.cmds.length + 1)

/-- The command completes with the status, and then what waited for it. -/
def State.ends (s : State) (seq : DWord) (st : Byte) : State := (s.complete seq st).settled

/-- A request that the port takes: its module is up, the device runs and is ready, and the initiator is one of the port's. -/
def Taken (s : State) (r : Req) : Prop :=
  (s.link r.module1).isUp = true ∧ s.edge.stopped = false ∧ r.ini.toNat < 64 ∧ s.edge.ready = true

/-- A request to the control region that the port serves: it takes it, and no time lock keeps it waiting. -/
def Served (s : State) (r : Req) : Prop := Taken s r ∧ s.ctlHeld r.module1 = false

/-- The state with another queue of PKE programs. -/
def State.withPke (s : State) (l : List PkeReq) : State := { s with eng := { s.eng with pke := l } }

/-- The initiator that a service channel acts for. -/
def State.asker (s : State) (c : Nat) : Ini := BitVec.ofNat 8 (s.chan c).sideA

/-- The Saltern takes a request of the service on the channel next, for a requester whose partition is not torn down; `u` is the state
once the request has left the channel. -/
def Asks (s : State) (c code : Nat) (r : SvcReq) (u : State) : Prop :=
  s.nextService = some c ∧ (s.chan c).request = some r ∧ r.code = code ∧ u = s.takeRequest c r
    ∧ ∀ p, u.boundRaw (s.asker c) = some p → (u.part p).teardown = false

/-- The service replies from a state, and requests with reserved codes behind it are answered in their turn. -/
def State.replies (u : State) (c : Nat) (r : SvcReq) (st : Nat) (ws : List Nat := []) (clamp : Bool := false) : State :=
  (u.answer c r st ws clamp).settleMbx

end Sys2Proof.Machine
end

