-- ==== Sys2Proof/Certificates/Slice0/Obligations.lean ====
section
/-! DEFINITION. The statements for the provers, one definition each; each docstring says in words what its definition states. -/
open Sys2Proof Sys2Proof.Machine

/-- When a pan is to execute a VEC word with INT clear and FUNC 0 to 7 or 0xA to 0xE, the command completes. Before the program counter
moves on, D holds the FP32 results of the named function over A, B and, for FMA, C, in ascending element order, where BB and BC make
element 0 of B or C serve every element; the flags of every element have joined PAN_ARITH; and no other byte, register or pan changed,
counters apart. (R45 (02_pans_and_cells.md); R95 (04_pan_programs.md); R84 (04_pan_programs.md)) -/
def Obligations.VecFloatFunctionsGiveResults : Prop :=
  (∀ (s : State) (p : BitVec 6) (e : PEnv) (f : Nat), Runs s p e kVec f → bitAt e.w 118 = false →
    let n := vecLen e.w
    let a := vecSource s p.toNat (slotAt e.w 70) false n
    let b := vecSource s p.toNat (slotAt e.w 48) (bitAt e.w 117) n
    let c := vecSource s p.toNat (slotAt e.w 26) (bitAt e.w 116) n
    let puts (i : Instr) (r : List Nat × AFlags) : Prop :=
      PanWrites i p.toNat (slotAt e.w 4) (pack .fp32 r.1) r.2 s s (s.pan p.toNat)
    let two (op : Nat → Nat → Arith Nat) := Arith.go ((a.zip b).mapM fun x => op x.1 x.2)
    (f = 0 → puts (.add p []) (two add32)) ∧ (f = 1 → puts (.sub p []) (two sub32)) ∧ (f = 2 → puts (.mul p []) (two mul32))
      ∧ (f = 3 → puts (.fma p []) (Arith.go ((a.zip (b.zip c)).mapM fun x => fma32 x.1 x.2.1 x.2.2)))
      ∧ (f = 4 → puts (.max p []) (two max32)) ∧ (f = 5 → puts (.min p []) (two min32)))
    ∧ (∀ (s : State) (p : BitVec 6) (e : PEnv) (f : Nat), Runs s p e kVec f → bitAt e.w 118 = false →
    let a := vecSource s p.toNat (slotAt e.w 70) false (vecLen e.w)
    let puts (i : Instr) (op : Nat → Arith Nat) : Prop :=
      PanWrites i p.toNat (slotAt e.w 4) (pack .fp32 (Arith.go (a.mapM op)).1) (Arith.go (a.mapM op)).2 s s (s.pan p.toNat)
    (f = 6 → puts (.abs p []) abs32) ∧ (f = 7 → puts (.neg p []) neg32) ∧ (f = 10 → puts (.recip p []) recip32)
      ∧ (f = 11 → puts (.rsqrt p []) rsqrt32) ∧ (f = 12 → puts (.exp p []) exp32) ∧ (f = 13 → puts (.sigmoid p []) sigmoid32)
      ∧ (f = 14 → puts (.silu p []) silu32))

/-- When a pan is to execute a VEC word with INT set and FUNC 0 to 2, or with INT clear and FUNC 8 or 9, the command completes. IADD, ISUB
and IMUL give sat32 of the exact result; SHR shifts every element of A by the count in bits [4:0] of the C slot; CONVERT takes elements
of SFMT to DFMT, packed, where the half byte beyond an odd count of 4-bit elements keeps its value. Flags have joined PAN_ARITH and
nothing else changed, counters apart. (R45 (02_pans_and_cells.md); R87 (04_pan_programs.md); R95 (04_pan_programs.md)) -/
def Obligations.VecIntegerAndConvertResults : Prop :=
  ∀ (s : State) (p : BitVec 6) (e : PEnv) (f : Nat), Runs s p e kVec f →
    let n := vecLen e.w
    let a := vecSource s p.toNat (slotAt e.w 70) false n
    let b := vecSource s p.toNat (slotAt e.w 48) (bitAt e.w 117) n
    let d := slotAt e.w 4
    let puts (i : Instr) (r : List Nat × AFlags) : Prop := PanWrites i p.toNat d (pack .fp32 r.1) r.2 s s (s.pan p.toNat)
    let two (op : Nat → Nat → Arith Nat) := Arith.go ((a.zip b).mapM fun x => op x.1 x.2)
    (bitAt e.w 118 = true → (f = 0 → puts (.iadd p []) (two iadd32)) ∧ (f = 1 → puts (.isub p []) (two isub32))
        ∧ (f = 2 → puts (.imul p []) (two imul32)))
      ∧ (bitAt e.w 118 = false →
        (f = 9 → puts (.shr p []) (a.map fun x => shr32 x (fld e.w 26 5), 0))
          ∧ (f = 8 → ∀ src dst, fmt4 (fld e.w 112 4) = some src → fmt4 (fld e.w 108 4) = some dst →
            let r := Arith.go ((s.slotElems p.toNat (slotAt e.w 70) 0 src n).mapM (convert src dst))
            PanWrites (.convert p []) p.toNat d (pack dst (r.1 ++ halfKept s p.toNat d dst n)) r.2 s s (s.pan p.toNat)))

/-- When a pan is to execute a REDUCE word, the command completes: vector element r of D is the reduction of the r-th source vector of L
elements by R46 (ADD, or INT32 ADD where INT is set, or MAX), a float NaN entering as the canonical one, rows starting ceil(L / 64) x 256
bytes apart; the flags have joined PAN_ARITH and nothing else changed, counters apart. (R46 (02_pans_and_cells.md); R96
(04_pan_programs.md)) -/
def Obligations.ReduceGivesOneResultARow : Prop :=
  ∀ (s : State) (p : BitVec 6) (e : PEnv) (f : Nat), Runs s p e kReduce f →
    let n := vecLen e.w
    let row (r : Nat) := s.slotElems p.toNat (slotAt e.w 70) (r * (cdiv n 64 * 256)) .fp32 n
    let all (first : Nat → Arith Nat) (op : Nat → Nat → Arith Nat) :=
      Arith.go ((List.range (fld e.w 108 10 + 1)).mapM fun r => reduceVec first op (row r))
    let puts (i : Instr) (first : Nat → Arith Nat) (op : Nat → Nat → Arith Nat) : Prop :=
      PanWrites i p.toNat (slotAt e.w 4) (pack .fp32 (all first op).1) (all first op).2 s s (s.pan p.toNat)
    (f = 0 → bitAt e.w 118 = true → puts (.reduceAdd p []) pure iadd32)
      ∧ (f = 0 → bitAt e.w 118 = false → puts (.reduceAdd p []) canon32 add32) ∧ (f = 1 → puts (.reduceMax p []) canon32 max32)

/-- When a pan is to execute a MOVE word, FILL and CYCLE complete. FILL leaves the 32-bit pattern in every one of its ROWS local rows, RLEN
bytes each and LSTRIDE apart, and changes no other byte. CYCLE writes the 8 bytes of PAN_CYCLE and 8 bytes of zero at LOCAL. With RANK0
set on another rank than 0 either acts as a WAIT of no units: nothing but counters changes. When a pan runs a command and is to execute
a COPY word that its rank executes, whose remote rows lie outside the pan, in memory of the command's partition, outside bunded vaults
and, for a read, free of marked units or, for a write, free of sealed and key-value-held bytes, the command completes. Every byte
outside the destination rows keeps its value, and the status of the command does not change but for the lock that R269 ends, with which
the refreshes owed under it take place. A COPY of
one row leaves in its destination the bytes its source held. (R90 (04_pan_programs.md); R54 (02_pans_and_cells.md); R90, R91
(04_pan_programs.md); R113, R135 (05_memory_vaults.md); R436, R442 (18_containment.md)) -/
def Obligations.MoveWordsFillCopyAndShowTheCycle : Prop :=
  (∀ (s : State) (p : BitVec 6) (e : PEnv) (f : Nat), Runs s p e kMove f →
    let q := p.toNat
    let sl := slotAt e.w 95
    let len := moveLen e.w
    let rowAt (r : Nat) : Nat := r * moveLocalStride e.w
    let hit (a : Nat) : Prop := ∃ r k, r < moveRows e.w ∧ k < len ∧ slotAddr q sl (rowAt r + k) = a
    let skips (i : Instr) : Prop := ∃ u : State, exec i s = .next (u.advance q) ∧ PanFrame q (fun _ => False) s (s.pan q) u
    (f = 1 → (rank0Skips e = true → skips (.fill p [])) ∧ (rank0Skips e = false →
        ∃ u : State, exec (.fill p []) s = .next (u.advance q) ∧ PanFrame q hit s (s.pan q) u
          ∧ ∀ r, r < moveRows e.w → u.slotRead q sl (rowAt r) len = (List.replicate (len / 4) (leBytes 4 (fld e.w 55 32))).flatten))
      ∧ (f = 2 → (rank0Skips e = true → skips (.cycle p [])) ∧ (rank0Skips e = false →
        PanWrites (.cycle p []) q sl (leBytes 8 (s.pan q).cycles.toNat ++ List.replicate 8 0) 0 s s (s.pan q))))
    ∧ (∀ (s : State) (p : BitVec 6) (e : PEnv), Runs s p e kMove 0 → e.run.race = false → rank0Skips e = false →
    let q := p.toNat
    let sl := slotAt e.w 95
    let out := bitAt e.w 118
    let len := moveLen e.w
    let far (r : Nat) : Nat := fld e.w 55 40 + r * moveRemoteStride e.w
    (∀ r, r < moveRows e.w → within (s.ranges e.run.part) (far r) len = true ∧ s.fencedAt (far r) len = false
      ∧ overlaps (far r) len (storeBase q) 0x200000 = false ∧ overlaps (far r) len (accBase q) 0x40000 = false
      ∧ (out = true → s.hitsSealed (far r) len = false ∧ s.kvHit (far r) len = none)
      ∧ (out = false → s.marked (far r) len = false)) →
    ∃ u : State, exec (.copy p []) s = .next (u.advance q)
      ∧ (∀ c, s.cmd? e.run.seq = some c → ∃ l k, u.cmd? e.run.seq = some { c with locked := l, cause := k })
      ∧ PanFrame q (fun a => ∃ r k, r < moveRows e.w ∧ k < len
          ∧ (if out then far r + k else slotAddr q sl (r * moveLocalStride e.w + k)) = a)
          { s with cmds := u.cmds, memSys := u.memSys } (s.pan q) u
      ∧ { u.memSys with postponed := s.memSys.postponed } = s.memSys
      ∧ (moveRows e.w = 1 → if out then u.read (far 0) len = s.slotRead q sl 0 len else u.slotRead q sl 0 len = s.read (far 0) len))

/-- When a pan is to execute a MATMUL word, the command of its mode completes. Row m of column block b of C stands in accumulator row DROW +
b x M + m, each element folded from 0 or, with ACC_INIT LOAD, from the element that stood there, for every block and row of a C that
fits the accumulator. With KVAPP the rows are handed to the append path. No byte outside the accumulator changes. (R40, R41
(02_pans_and_cells.md); R65, R66, R67, R68 (03_quantised_operands.md); R92, R93 (04_pan_programs.md); R155 (06_attention_kv.md)) -/
def Obligations.MatmulFillsAccumulatorRows : Prop :=
  ∀ (s : State) (p : BitVec 6) (e : PEnv) (fa fb : Fmt), s.fetch p.toNat = some e → iClass e.w = kMatmul →
    fmt3 (fld e.w 116 3) = some fa → fmt3 (fld e.w 113 3) = some fb →
    let q := p.toNat
    let qa := qdesc e.descs (fld e.w 105 8)
    let qb := qdesc e.descs (fld e.w 97 8)
    let rows := fld e.w 87 10 + 1
    let k := fld e.w 73 14 + 1
    let cols := fld e.w 57 16 + 1
    let sl : Slot22 := { acc := true, ofs := fld e.w 11 10 }
    let astride := if fld e.w 30 10 = 0 then cdiv (k * fa.bits) 128 * 16 else fld e.w 30 10 * 16
    let width (b : Nat) : Nat := min 64 (cols - 64 * b)
    let start (b m : Nat) : List Nat :=
      if bitAt e.w 121 then s.slotElems q sl ((b * rows + m) * 256) .fp32 (width b) else List.replicate (width b) 0
    let product (b m : Nat) : List Nat := (Arith.go ((start b m).zipIdx.mapM fun x =>
      mmElement s q fa fb qa qb (fld e.w 21 9 * 4096) cols k m (64 * b + x.2) x.1
        (actRow s q fa (fld e.w 40 17 * 16) astride m k))).1
    let job : AppendJob := { desc := BitVec.ofNat 128 (cleanAppend (descAt e.descs (fld e.w 2 8)) cols), rows, cols
                             drow := fld e.w 11 10, isInt := fa.isInt && fb.isInt && qa.isNone && qb.isNone }
    let v := if bitAt e.w 10 then { s.pan q with append := some job } else s.pan q
    ∃ u : State, exec (if bitAt e.w 120 then .matmulStream p [] else .matmulTile p []) s = .next (u.advance q)
      ∧ PanFrame q (InSlot q sl 0x40000) s v u
      ∧ (cdiv cols 64 * rows ≤ 1024 → ∀ b m, b < cdiv cols 64 → m < rows →
        u.slotRead q sl ((b * rows + m) * 256) (4 * width b) = pack .fp32 (product b m))

/-- When a pan of a command holds an append that a MATMUL handed over, runs, no time lock lies between it and its partition's key-value
memory, and the append meets no error, the command completes: the pan's
append is gone, so that it may issue its next instruction, its program counter stands, and the command holds every head stream that the
append's columns fall in as owned, with at least POFF plus its rows appended past the base. (R145, R155, R159, R161
(06_attention_kv.md)) -/
def Obligations.KvAppendTakesItsStreams : Prop :=
  ∀ (s : State) (p : BitVec 6) (job : AppendJob) (run : PanRun) (c : Cmd), (s.pan p.toNat).append = some job →
    (s.pan p.toNat).run = some run → run.race = false → s.edge.stopped = false → (s.pan p.toNat).bunded = false →
    (s.pan p.toNat).st = .run → (s.pan p.toNat).holds = [] → s.cmd? run.seq = some c → 0 < job.rows →
    (∀ r ∈ s.kvHeld run.part, s.addrHeld (some run.seq) (p.toNat / 8) r.1 = false
      ∧ s.addrHeld (some run.seq) (p.toNat / 8) (r.1 + r.2 - 1) = false) →
    let e : PEnv := { p := p.toNat, run, w := 0, descs := [] }
    let h := handleOf run (fld job.desc.toNat 0 12)
    let plan := (planAppend run (s.seqH h) job.desc.toNat).1
    (appendRun e job s).2 = none →
    ∃ t : State, exec (.kvAppend p []) s = .next t ∧ (t.pan p.toNat).append = none ∧ (t.pan p.toNat).pc = (s.pan p.toNat).pc
      ∧ ∀ x ∈ planColumns plan run.rank job.cols, ∃ d, t.cmd? run.seq = some d
        ∧ ∃ v ∈ d.kv, v.handle = h ∧ v.stream = x.1 ∧ v.owned = true ∧ plan.poff + job.rows ≤ v.added

/-- A QUANT or DEQUANT word that a pan is to execute completes, whatever its rows and formats, and changes no byte outside the pan's own
memories, counters and flags apart. QUANT of one row leaves at D the packed codes of its groups, each made with the scale and zero point
read from the metadata (LEARNED), or with those of R71 computed from the group (RUNTIME), which then stand in the metadata record where
that record lies apart from D, and changes no byte beside those. DEQUANT leaves at D, for every row that no later row overlaps,
rne32(s x (q - z)) of each code with the scale and zero point of its group, in FP32 or narrowed to BF16; with one row nothing but D
changed and the flags of its elements have joined PAN_ARITH. (R71 (03_quantised_operands.md); R97 (04_pan_programs.md); R63
(03_quantised_operands.md); R72 (03_quantised_operands.md)) -/
def Obligations.QuantAndDequantConvertTheirRows : Prop :=
  (∀ (s : State) (p : BitVec 6) (e : PEnv), Runs s p e kQuant 0 →
    let q := p.toNat
    let k := fld e.w 83 16 + 1
    let dst := slotAt e.w 39
    ∃ t u : State, exec (.quantRuntime p []) s = .next t ∧ t = u.advance q ∧ PanFrame q (OwnMemory q) s (s.pan q) u
      ∧ ∀ d, qdesc e.descs (fld e.w 111 8) = some d → fld e.w 99 10 = 0 →
        let xs := (Arith.go (quantInput s q (slotAt e.w 61) (fld e.w 109 2) 0 k)).1
        let made (x : List Nat) := (Arith.go (quantGroup d none x)).1
        let groups := rowGroups d xs
        let bytes := pack d.fmt ((groups.flatMap fun g => (made g).1) ++ halfKept s q dst d.fmt k)
        let record (a : Nat) : Prop := InSlot q { acc := false, ofs := d.addr } (3 * d.ng k) a
        (∀ a, ¬ record a → ¬ InSlot q dst bytes.length a → u.byte a = s.byte a)
          ∧ ((∀ a, record a → ¬ InSlot q dst bytes.length a) → u.slotRead q dst 0 bytes.length = bytes
            ∧ ∀ g ∈ groups.zipIdx, u.storeRead q (d.addr + 2 * g.2) 2 = leBytes 2 (made g.1).2.1))
    ∧ (∀ (s : State) (p : BitVec 6) (e : PEnv), Runs s p e kQuant 1 →
    let q := p.toNat
    let k := fld e.w 83 16 + 1
    let dst := slotAt e.w 39
    ∃ t u : State, exec (.quantLearned p []) s = .next t ∧ t = u.advance q ∧ PanFrame q (OwnMemory q) s (s.pan q) u
      ∧ ∀ d, qdesc e.descs (fld e.w 111 8) = some d → fld e.w 99 10 = 0 →
        let xs := (Arith.go (quantInput s q (slotAt e.w 61) (fld e.w 109 2) 0 k)).1
        let codes := (rowGroups d xs).zipIdx.flatMap fun g => (Arith.go (quantGroup d (some (actMeta s q d k 0 g.2)) g.1)).1.1
        let bytes := pack d.fmt (codes ++ halfKept s q dst d.fmt k)
        u.slotRead q dst 0 bytes.length = bytes ∧ ∀ a, ¬ InSlot q dst bytes.length a → u.byte a = s.byte a)
    ∧ (∀ (s : State) (p : BitVec 6) (e : PEnv) (bf16 : Bool), Runs s p e kDequant (if bf16 then 1 else 0) →
    let q := p.toNat
    let k := fld e.w 83 16 + 1
    let src := slotAt e.w 61
    let dst := slotAt e.w 39
    let out : Fmt := if bf16 then .bf16 else .fp32
    let stride := qdStride (fld e.w 29 10) (k * out.bytes)
    ∃ t u : State, exec (if bf16 then .dequantBf16 p [] else .dequantFp32 p []) s = .next t ∧ t = u.advance q
      ∧ PanFrame q (OwnMemory q) s (s.pan q) u
      ∧ ∀ d, qdesc e.descs (fld e.w 111 8) = some d →
        let vals (m : Nat) := Arith.go ((s.slotElems q src (m * qdStride (fld e.w 19 10) (cdiv (k * d.fmt.bits) 8)) d.fmt k).zipIdx.mapM
          fun x => let sz := actMeta s q d k m (d.groupOf x.2); dequantOne d (d.widen sz.1, sz.2) bf16 x.1)
        let bytes (m : Nat) : List Byte := pack out (vals m).1
        (∀ m, m ≤ fld e.w 99 10 → (∀ n i j, m < n → n ≤ fld e.w 99 10 → i < k * out.bytes → j < k * out.bytes →
            slotAddr q dst (m * stride + i) ≠ slotAddr q dst (n * stride + j)) →
          u.slotRead q dst (m * stride) (k * out.bytes) = bytes m)
          ∧ (fld e.w 99 10 = 0 → (u.pan q).arith = (s.pan q).arith ||| (vals 0).2
            ∧ ∀ a, ¬ InSlot q dst (k * out.bytes) a → u.byte a = s.byte a))

/-- When a pan is to execute an ATTN SCORE word whose keys buffer shows an accepted format, the command completes. Row i of the scores,
folded over the copied positions in order, gives minus infinity for an ABSENT position and for one past the position of row i, else the
product of R70 times RSQRT(HD); element k of it stands in lane k mod 64 of its row of D wherever D has room for every row. ATTN SOFTMAX
completes; with the scores in the accumulator, D in the pan store and room for every record there, the record of each row holds the
maximum, the sum, the row index, the flags and the BF16 probabilities of R168, over L positions or, with LSRC, over the gather count
capped by L. ATTN VALUE whose values buffer shows an accepted format completes: the record of each row holds the tag GROUP x TSTEP plus
the row index of the softmax record, its m and l, and the HD sums over the runs of one page; an EMPTY row gives an EMPTY record with
zero sums. A differing HD, an L below COUNT or too many ROWS records the ATTN clamp. Nothing outside the results changed, counters and
flags apart. (R167 (06_attention_kv.md); R70 (03_quantised_operands.md); R98 (04_pan_programs.md); R86 (04_pan_programs.md); R168
(06_attention_kv.md); R99 (04_pan_programs.md); R169 (06_attention_kv.md)) -/
def Obligations.AttentionScoresSoftmaxesAndWeighsValues : Prop :=
  (∀ (s : State) (p : BitVec 6) (e : PEnv) (h : GHeader), Runs s p e kAttn 0 →
    gheader (s.slotRead p.toNat (slotAt e.w 39) 0 16) = some h →
    let q := p.toNat
    let b := slotAt e.w 39
    let d := slotAt e.w 17
    let qd := qdesc e.descs (fld e.w 111 8)
    let fa := match qd with | some x => x.fmt | none => .bf16
    let rows := min (attnRows e.w) (rateOf fa h.fmt).mmax
    let n := min h.count (attnL e.w)
    let bytes := rowBytes fa h.hd
    let row (i : Nat) : List Nat := (Arith.go ((List.range n).mapM fun k =>
      let r := grec s q b k
      let scale : Nat × Int := match qd with
        | some x => let y := actMeta s q x h.hd (16 * h.adisp / bytes + i) 0; (x.widen y.1, y.2)
        | none => (one32, 0)
      if r.absent || (h.len : Int) - cdiv rows h.qgrp + (i / h.qgrp : Nat) < (r.pos : Int) then pure negInf
      else do
        let x ← groupStep fa h.fmt 0 scale (h.meta' r)
          ((s.slotElems q (slotAt e.w 61) (16 * h.adisp + i * bytes) fa h.hd).zip (grow s q b h (attnL e.w) k))
        mul32 x (Arith.go (rsqrt32 (int32f h.hd))).1)).1
    let room := cdiv n 64 * rows * 256
    ∃ u : State, exec (.score p []) s = .next (u.advance q)
      ∧ PanFrame q (InSlot q d room) (e.clamp s (attnClamps e h fa) cAttn) (s.pan q) u
      ∧ (room ≤ (if d.acc then 0x40000 else 0x200000) → ∀ i k, i < rows → k < n →
        u.slotRead q d ((k / 64 * rows + i) * 256 + k % 64 * 4) 4 = leBytes 4 ((row i).getD k 0)))
    ∧ ((∀ (s : State) (p : BitVec 6) (e : PEnv), Runs s p e kAttn 1 →
    let q := p.toNat
    let a := slotAt e.w 61
    let d := slotAt e.w 17
    let l := attnL e.w
    let rows := attnRows e.w
    let n := if bitAt e.w 110 then min (s.pan q).gcount l else l
    let scores (i : Nat) : List Nat := (List.range n).map fun k =>
      (s.slotElems q a ((k / 64 * rows + i) * 256 + k % 64 * 4) .fp32 1).headD 0
    ∃ u : State, exec (.softmax p []) s = .next (u.advance q) ∧ PanFrame q (InSlot q d (rows * recSize l)) s (s.pan q) u
      ∧ (a.acc = true → d.acc = false → rows * recSize l ≤ 0x200000 → ∀ i, i < rows →
        u.slotRead q d (i * recSize l) (recSize l) = (Arith.go (softmaxRow (scores i) l i)).1))
    ∧ (∀ (s : State) (p : BitVec 6) (e : PEnv) (h : GHeader), Runs s p e kAttn 2 →
    gheader (s.slotRead p.toNat (slotAt e.w 39) 0 16) = some h →
    let q := p.toNat
    let b := slotAt e.w 39
    let d := slotAt e.w 17
    let l := attnL e.w
    let rows := min (attnRows e.w) (rateOf .bf16 h.fmt).mmax
    let n := min h.count l
    let size := 16 + 4 * h.hd
    let sm (i : Nat) : List Byte := s.slotRead q (slotAt e.w 61) (i * recSize l) (recSize l)
    let runs := pageRuns h.ps ((List.range n).map fun k => (k, grec s q b k))
    let o (i : Nat) : List Nat := (Arith.go ((List.range h.hd).mapM fun j => valueColumn h runs (fun k => leAt (sm i) (16 + 2 * k) 2)
      (fun k => (((List.range n).map fun k => grow s q b h l k).getD k []).getD j 0) 0)).1
    let tag (i : Nat) : List Byte := leBytes 2 (h.group * h.tstep + leAt (sm i) 8 1)
    let record (i : Nat) : List Byte :=
      if bitAt (leAt (sm i) 9 1) 0 then tag i ++ [1, BitVec.ofNat 8 (h.hd - 1)] ++ leBytes 4 negInf ++ List.replicate (8 + 4 * h.hd) 0
      else tag i ++ [0, BitVec.ofNat 8 (h.hd - 1)] ++ slice (sm i) 0 8 ++ List.replicate 4 0 ++ pack .fp32 (o i)
    ∃ u : State, exec (.value p []) s = .next (u.advance q)
      ∧ PanFrame q (InSlot q d (rows * size)) (e.clamp s (attnClamps e h .bf16) cAttn) (s.pan q) u
      ∧ ∀ i, i < rows → u.slotRead q d (i * size) size = record i))

/-- The softmax record of a row whose every score is minus infinity, or that has none, is EMPTY with m minus infinity, l zero, zero
probabilities and no flag raised. ATTN VALUE gives for an EMPTY softmax record an attention record with EMPTY set, m minus infinity, l
and all o zero. Merging an EMPTY record changes nothing, and what an EMPTY accumulation merges with is taken as it is. (R171
(06_attention_kv.md): "A row with no position, or with every position masked, is EMPTY. It has m = −inf, l = +0 and o all +0. It
produces no NaN, and it is the identity of the merge in R172.") -/
def Obligations.ARowThatAttendsToNothingIsEmpty : Prop :=
  (∀ (xs : List Nat) (l i : Nat), (∀ x ∈ xs, x = negInf) →
      Arith.go (softmaxRow xs l i) = (leBytes 4 negInf ++ leBytes 4 0 ++ [BitVec.ofNat 8 i, 1] ++ List.replicate (recSize l - 10) 0, 0))
    ∧ (∀ (s : State) (p : BitVec 6) (e : PEnv) (h : GHeader), Runs s p e kAttn 2 →
      gheader (s.slotRead p.toNat (slotAt e.w 39) 0 16) = some h →
      ∃ u : State, exec (.value p []) s = .next (u.advance p.toNat)
        ∧ ∀ i, i < min (attnRows e.w) (rateOf .bf16 h.fmt).mmax →
          bitAt (s.byte (slotAddr p.toNat (slotAt e.w 61) (i * recSize (attnL e.w) + 9))).toNat 0 = true →
          u.slotRead p.toNat (slotAt e.w 17) (i * (16 + 4 * h.hd) + 2) (14 + 4 * h.hd)
            = [1, BitVec.ofNat 8 (h.hd - 1)] ++ leBytes 4 0xFF800000 ++ leBytes 4 0 ++ List.replicate 4 0
              ++ List.replicate (4 * h.hd) 0)
    ∧ (∀ acc r : ARec, r.empty = true → foldRec acc r = pure acc)
    ∧ ∀ acc r : ARec, r.empty = false → acc.empty = true → foldRec acc r = pure r

/-- When a pan of a command is to execute a GATHER word that names a bound sequence of its partition and a stream below NH, whose header and
pages are readable, the command completes. With LEN the effective length, the copied positions are the last LMAX of the rank's part of
the selection: the header, a record and a row for each of them stand at D, ABSENT rows zero; the gather count is their number; a
truncation records the GATHER clamp and PRT_KV_TRUNC; and no byte outside the buffer changed. (R163, R164, R165 (06_attention_kv.md);
R99 (04_pan_programs.md); R145 (06_attention_kv.md)) -/
def Obligations.GatherCopiesTheSelection : Prop :=
  ∀ (s : State) (p : BitVec 6) (e : PEnv) (f : Nat), Runs s p e kGather f → e.run.race = false →
    let q := p.toNat
    let d := if fld e.w 92 8 = 0 then 15 * 2 ^ 52 else cleanPattern (descAt e.descs (fld e.w 92 8))
    let split := fld d 45 6 + 1
    let group := e.run.rank / split
    let handle := handleOf e.run (fld e.w 107 12)
    let sq := s.seqH handle
    let stream := fld e.w 100 7 + (if bitAt d 51 then group else 0)
    let lmax := fld e.w 76 16 + 1
    let len := (s.sample e.run.seq handle stream).1.len
    let glob := (List.range (fld d 14 7)).map fun i => s.storeN q (fld d 24 21 + 4 * i) 4
    let sel := selectPositions len (fld d 0 14) (fld d 21 3) glob
    let lo := e.run.rank % split * sel.length / split
    let part := (sel.drop lo).take ((e.run.rank % split + 1) * sel.length / split - lo)
    let copied := part.drop (part.length - lmax)
    let values := f = 1
    let got (k : Nat) := gatherOne s e.run.part sq stream values (copied.getD k 0)
    let dst := slotAt e.w 54
    let rb := rowBytes sq.fmt sq.hd
    let rows := 16 + cdiv (8 * lmax) 16 * 16
    f ≤ 1 → sq.bound = true → sq.part = e.run.part → stream < sq.nh →
    s.unitStatus e.run.part (sq.header stream) 16 = none →
    (∀ k, k < copied.length → (got k).1 = none) → rows + lmax * rb ≤ (if dst.acc then 0x40000 else 0x200000) →
    ∃ u : State, exec (if values then .gatherValues p [] else .gatherKeys p []) s = .next (u.advance q)
      ∧ u.slotRead q dst 0 16 = leBytes 4 copied.length ++ leBytes 4 len
        ++ [BitVec.ofNat 8 (sq.pfmt.toNat + 8 * b2n sq.sfmt + 16 * b2n values), BitVec.ofNat 8 (sq.hd - 1), BitVec.ofNat 8 group,
            BitVec.ofNat 8 (fld d 67 5)] ++ leBytes 2 (group * fld d 57 10) ++ [BitVec.ofNat 8 sq.ps, BitVec.ofNat 8 (fld d 52 4)]
      ∧ (∀ k, k < copied.length → u.slotRead q dst (16 + 8 * k) 8 = (got k).2.1 ∧ u.slotRead q dst (rows + k * rb) rb = (got k).2.2)
      ∧ (∀ x, u.part x = if x = e.run.part then
          { s.part x with kvTrunc := satAdd (s.part x).kvTrunc (if lmax < part.length then 1 else 0) } else s.part x)
      ∧ (∀ c, s.cmd? e.run.seq = some c →
          ∃ x, u.cmd? e.run.seq = some x ∧ x.clamp = c.clamp ||| (if lmax < part.length then cGather else 0))
      ∧ PanFrame q (InSlot q dst (rows + lmax * rb)) { s with cmds := u.cmds, parts := u.parts }
          { s.pan q with gcount := copied.length } u

/-- When a pan is to execute a SAMPLE word, the command completes. GREEDY leaves at D the greatest logit and its index. CATEGORICAL leaves
the greatest of the keys rne32(rne32(x t) + g) and its index, where g is the Gumbel variate of F(seed, step, index) with SOURCE = SEED,
or of the next words of the entropy buffer with SOURCE = ENTROPY, where they can be had; then only the engine state changed beside. The
chosen element has a key that is a number no smaller than any other that is one, and every element before it has another key; with no
number among the keys it is the canonical NaN with the first index. (R100 (04_pan_programs.md); R261, R262, R263 (10_determinism.md)) -/
def Obligations.SampleChoosesTheGreatestKey : Prop :=
  (∀ (s : State) (p : BitVec 6) (e : PEnv) (f : Nat), Runs s p e kSample f →
    let q := p.toNat
    let n := fld e.w 79 18 + 1
    let base := fld e.w 97 20 + (if bitAt e.w 117 then e.run.rank * n else 0)
    let xs : List (Nat × Nat) := (s.slotElems q (slotAt e.w 57) 0 .fp32 n).zipIdx.map fun x => (x.1, (base + x.2) % 2 ^ 32)
    let t := (s.slotElems q (slotAt e.w 35) 0 .fp32 1).headD 0
    let keys (rs : List Nat) := Arith.go (categoricalKeys t (xs.zip rs))
    let bytes (b : Nat × Nat) : List Byte := leBytes 4 b.1 ++ leBytes 4 b.2 ++ List.replicate 8 0
    (f = 0 → PanWrites (.greedy p []) q (slotAt e.w 13) (bytes (bestKey xs)) (if xs.any fun x => (v32 x.1).isNan then fNanIn else 0)
        s s (s.pan q))
      ∧ (f = 1 → bitAt e.w 118 = false →
        let rs := xs.map fun x => genF (s.part e.run.part).seed.toNat (sampleStep e s) x.2
        PanWrites (.categorical p []) q (slotAt e.w 13) (bytes (bestKey (keys rs).1)) (keys rs).2 s s (s.pan q))
      ∧ (f = 1 → bitAt e.w 118 = true → ∀ rs s0, s.entropyWords n = some (rs, s0) →
        PanWrites (.categorical p []) q (slotAt e.w 13) (bytes (bestKey (keys rs).1)) (keys rs).2 s s0 (s.pan q)))
    ∧ (∀ xs : List (Nat × Nat), (∀ x ∈ xs, x.1 < 2 ^ 32) →
    ((∃ x ∈ xs, (v32 x.1).isNan = false) → ∃ i, ∃ h : i < xs.length, bestKey xs = xs[i] ∧ (v32 (bestKey xs).1).isNan = false
        ∧ (∀ x ∈ xs, (v32 x.1).isNan = false → (v32 x.1).le (v32 (bestKey xs).1) = true)
        ∧ ∀ j, j < i → ∀ hj : j < xs.length, (xs[j]).1 ≠ (bestKey xs).1)
      ∧ ((∀ x ∈ xs, (v32 x.1).isNan = true) → bestKey xs = (0x7FC00000, (xs.headD (0, 0)).2)))

/-- When a pan of a command is to execute a CONFLUENCE word, no pan of the command has ended, and FUNC and ORDER agree with those of the
pans that wait, the command of its function completes: the pan shows AT_CONFLUENCE with its contribution noted, it joins the pans that
wait, its program counter stands, and no memory or other pan changes. Otherwise the running command stops with ABORTED. When every pan
of a running command has arrived, the release completes: with BYTES and ROOT those of the lowest rank, each pan holds the result of the
function at its D, has joined the flags of the fold, shows RUN with no arrival, and then advances; the telemetry of R109 is kept, a
disagreement records the CONFLUENCE clamp, and no other byte or pan changes. While a pan is still to come, nothing happens. (R107, R110
(04_pan_programs.md); R53 (02_pans_and_cells.md); R107, R108, R109, R110 (04_pan_programs.md); R172 (06_attention_kv.md); R254
(09_partitions.md)) -/
def Obligations.ConfluencesGatherAndReleaseTheirPans : Prop :=
  (∀ (s : State) (p : BitVec 6) (e : PEnv) (f : Nat) (c : Cmd), Runs s p e kConf f → f ≤ 5 → e.run.race = false →
    s.cmd? e.run.seq = some c →
    let q := p.toNat
    let i : Instr := match f with
      | 0 => .barrier p [] | 1 => .gatherAll p [] | 2 => .sum p [] | 3 => .lseMerge p [] | 4 => .argmax p [] | _ => .broadcast p []
    let a : Arrival :=
      { func := BitVec.ofNat 4 f, order := bitAt e.w 118, root := BitVec.ofNat 6 (fld e.w 112 6), units := fld e.w 96 16 + 1
        s := fld e.w 74 21, d := fld e.w 52 21 }
    let agree := c.ended = [] ∧ ∀ x ∈ c.arrived, ∀ b, (s.pan x).arrival = some b → b.func = a.func ∧ b.order = a.order
    (agree → ∃ u, exec i s = .next u
        ∧ PanFrame q (fun _ => False) { s with cmds := u.cmds } { s.pan q with st := .atConfluence, arrival := some a } u
        ∧ u.cmd? e.run.seq = some { c with arrived := c.arrived ++ [q] })
      ∧ (¬ agree → exec i s = .next (s.stopCmd e.run.seq stAborted)))
    ∧ (∀ (s : State) (seq : DWord) (skew : Word) (c : Cmd), s.cmd? seq = some c → s.edge.stopped = false → c.pans ≠ [] → c.pans.Nodup →
    let arr (q : Nat) : Arrival := (s.pan q).arrival.getD { func := 0, order := false, root := 0, units := 1, s := 0, d := 0 }
    let low := arr (c.pans.headD 0)
    let f := low.func.toNat
    let contrib (q : Nat) : List Byte := s.slotRead q { acc := false, ofs := (arr q).s } 0 (low.units * 16)
    let ranked := if f = 0 then [] else c.pans.map contrib
    let r := confluenceResult f (min low.root.toNat (c.pans.length - 1)) ranked (if low.order then c.arrived.map contrib else ranked)
    let clash := (c.pans.any fun q => (arr q).units != low.units)
      || (f == 5 && (c.pans.length ≤ low.root.toNat || c.pans.any fun q => (arr q).root != low.root))
    (c.arrived.length ≠ c.pans.length → exec (.confluenceRelease seq skew) s = .next s)
      ∧ (c.arrived.length = c.pans.length → r.1.length ≤ 0x200000 → ∃ u : State,
        exec (.confluenceRelease seq skew) s
            = .next (c.pans.foldl (fun v q => if ((v.pan q).run.map fun x => x.seq) = some seq then v.advance q else v) u)
          ∧ (∀ q ∈ c.pans, u.slotRead q { acc := false, ofs := (arr q).d } 0 r.1.length = r.1 ∧ (u.pan q).st = .run
            ∧ (u.pan q).arrival = none ∧ (u.pan q).arith = (s.pan q).arith ||| r.2.1 ∧ (u.pan q).pc = (s.pan q).pc)
          ∧ u.part c.part = confTelemetry skew.toNat (c.arrived.getLastD 0) c.pans.length (s.part c.part)
          ∧ u.cmd? seq = some { c with arrived := [], clamp := c.clamp ||| (if clash then cConfluence else 0) ||| r.2.2 }
          ∧ (∀ q, q ∉ c.pans → u.pan q = s.pan q)
          ∧ ∀ a, (∀ q ∈ c.pans, ¬ InSlot q { acc := false, ofs := (arr q).d } r.1.length a) → u.byte a = s.byte a))

/-- When a pan is to execute a LOOP, WAIT or STEP word, the command completes. LOOP moves the program counter past itself and opens the
innermost loop with BODY, COUNT, the signed strides SA, SB and SD and iteration 0. STEP adds N to the step offset. WAIT finds every
earlier instruction complete. Beside that only counters change, and then STEP and WAIT advance. Reaching the end of a body for the k-th
time, k below COUNT, goes back to its first word in iteration k with the enclosing loops as they were; the COUNT-th time the loop is
left, and the enclosing loops see the word after the body as reached. When a pan of a command is to execute END, the command completes
and the pan runs nothing more. While other pans of the command go on, its step offset is noted and nothing else but the counters
changes. With the last one the command is gone, its tally entry shows OK and DONE, and, where no FENCE or ABORT waited, its completion
stands as that of OK. Where pans wait at a confluence, the command stops with ABORTED. Running past the last word does the same. (R101,
R102, R104 (04_pan_programs.md); R104 (04_pan_programs.md); R103, R110 (04_pan_programs.md); R259 (10_determinism.md)) -/
def Obligations.SequencerWordsLoopStepAndEnd : Prop :=
  ((∀ (s : State) (p : BitVec 6) (e : PEnv), s.fetch p.toNat = some e → iFunc e.w = 0 →
    let q := p.toNat
    let frame : LoopFrame :=
      { start := (s.pan q).pc + 1, body := fld e.w 90 13 + 1, count := fld e.w 103 16 + 1, iter := 0
        sa := BitVec.ofNat 24 (fld e.w 66 24), sb := BitVec.ofNat 24 (fld e.w 42 24), sd := BitVec.ofNat 24 (fld e.w 18 24) }
    (iClass e.w = kLoop → ∃ u, exec (.loop p []) s = .next u ∧ PanFrame q (fun _ => False) s
        { s.pan q with pc := (s.pan q).pc + 1, loops := frame :: (s.pan q).loops } u)
      ∧ (iClass e.w = kStep → ∃ u : State, exec (.step p []) s = .next (u.advance q) ∧ PanFrame q (fun _ => False) s
        { s.pan q with stepOff := (s.pan q).stepOff + BitVec.ofNat 64 (fld e.w 103 16) } u)
      ∧ (iClass e.w = kWait → ∃ u : State, exec (.wait p []) s = .next (u.advance q)
        ∧ PanFrame q (fun _ => False) s (s.pan q) u))
    ∧ (∀ (f : LoopFrame) (fs : List LoopFrame), f.iter = 0 → 0 < f.count →
    let again (x : Nat × List LoopFrame) : Nat × List LoopFrame := advanceLoops (f.start + f.body) x.2
    (∀ k, k < f.count → Nat.repeat again k (f.start, f :: fs) = (f.start, { f with iter := k } :: fs))
      ∧ Nat.repeat again f.count (f.start, f :: fs) = advanceLoops (f.start + f.body) fs))
    ∧ (∀ (s : State) (p : BitVec 6) (e : PEnv) (c : Cmd), Runs s p e kEnd 0 → e.run.race = false → s.cmd? e.run.seq = some c →
    let q := p.toNat
    let note := c.ended ++ [(q, (s.pan q).stepOff)]
    let v := (s.modPan q Pan.leave).modCmd e.run.seq fun d => { d with ended := d.ended ++ [(q, (s.pan q).stepOff)] }
    let closed' := if c.arrived ≠ [] then v.stopCmd e.run.seq stAborted
      else if note.length = c.pans.length then v.complete e.run.seq stOk else v
    (∃ u, exec (.endProgram p []) s = .next u ∧ (u.pan q).run = none ∧ { u with pans := closed'.pans, drawn := closed'.drawn } = closed'
        ∧ (c.arrived = [] → note.length ≠ c.pans.length → u.cmd? e.run.seq = some { c with ended := note })
        ∧ (c.arrived ≠ [] ∨ note.length = c.pans.length → u.cmd? e.run.seq = none))
      ∧ ((advanceLoops ((s.pan q).pc + 1) (s.pan q).loops).1 ≥ (s.pan q).nInstr → ((s.advance q).pan q).run = none
        ∧ { s.advance q with pans := closed'.pans, drawn := closed'.drawn } = closed'))

/-- When a pan of a command runs a streamed program, issues from the newer of its blocks, block j - 1, has words left after it, and block
j lies in no marked unit or bunded vault and behind no other command's time lock, the fetch completes: the words of block j, as the sealed
copy holds them, stand in buffer j mod 2, and the buffers hold blocks j - 1 and j. With READY high, the gating of a pan that is idle, in
no command, not bunded and not the pan of an armed slot completes: its clock is gated, and PAN_CYCLE has counted the GATE_DELAY cycles of
its partition, or, for a pan of none, a number that no rule gives; the pan of an armed slot is not gated. Outside DOZE and SLACK a refresh
completes: with no time-locked command over the vault it takes place; under locks it is postponed while fewer than eight are owed, and the
ninth takes place after ending the locks over the vault with cause 0x6. (R80 (04_pan_programs.md); R436, R442 (18_containment.md); R275
(11_power_clocks.md); R123 (05_memory_vaults.md); R268 (10_determinism.md)) -/
def Obligations.FetchGatingAndRefreshComplete : Prop :=
  (∀ (s : State) (p : BitVec 6) (run : PanRun) (part h : Nat) (load : DWord) (j : Nat),
    let q := p.toNat
    let v := s.pan q
    let region := (s.part part).progs.look {} h
    let n := min 2048 (v.nInstr - 2048 * j)
    let src := region.base + 64 + 16 * (v.nDesc + 2048 * j)
    let dst := imemBase q + 16 * (4096 + 2048 * (j % 2))
    v.run = some run → v.held = some (part, h, load) → v.streamed = true → v.bunded = false → s.edge.stopped = false → v.st = .run →
    v.blocks.foldl max 0 + 1 = j → v.pc / 2048 + 1 = j → 2048 * j < v.nInstr → s.marked src (16 * n) = false →
    s.fencedAt src (16 * n) = false → s.addrHeld (some run.seq) (q / 8) src = false →
    ∃ u, exec (.programBlockFetch p []) s = .next u ∧ u.read dst (16 * n) = s.read src (16 * n)
      ∧ (u.pan q).blocks = [j - 1, j] ∧ (u.pan q).pc = v.pc ∧ (u.pan q).loops = v.loops
      ∧ { u with mem := s.mem, poison := s.poison, pans := s.pans, cmds := s.cmds, memSys := s.memSys } = s
      ∧ { u.memSys with postponed := s.memSys.postponed } = s.memSys
      ∧ (∀ x, x ≠ q → u.pan x = s.pan x)
      ∧ ∀ a, a < dst ∨ dst + 16 * n ≤ a → u.byte a = s.byte a)
    ∧ ((∀ (s : State) (p : BitVec 6),
      let v := s.pan p.toNat
      let armed (i : Nat) : Prop := (s.slot i).st = .armed ∨ (s.slot i).st = .busy ∨ (s.slot i).st = .arming
      (s.up = true → v.gated = false → v.bunded = false → v.run = none → v.st = .idle →
        (∀ i, s.slotOf p.toNat = some i → ¬ armed i) →
        (∀ x, s.panPart p.toNat = some x → exec (.panClockGate p) s
          = .next (s.setPan p.toNat { v with gated := true, cycles := v.cycles + BitVec.ofNat 64 ((s.cfg.part x).pwr.toNat % 1024) }))
          ∧ (s.panPart p.toNat = none → ∃ n, exec (.panClockGate p) s
            = .next ({ s with drawn := s.drawn + 1 }.setPan p.toNat { v with gated := true, cycles := v.cycles + n })))
        ∧ (∀ i, s.slotOf p.toNat = some i → armed i → exec (.panClockGate p) s = .next s))
    ∧ ∀ (s : State) (v : BitVec 3) (ch : BitVec 4), s.live = true → s.power.sleep ≠ .doze → s.power.sleep ≠ .slack →
      let key := 16 * v.toNat + ch.toNat
      let owed := s.memSys.postponed.look 0 key
      let put (t : State) (k : Nat) : State := { t with memSys := { t.memSys with postponed := t.memSys.postponed.put 0 key k } }
      (s.lockedOver v.toNat = none → exec (.vaultRefresh v ch []) s = .next (put s 0))
        ∧ ∀ c, s.lockedOver v.toNat = some c →
          (owed < 8 → exec (.vaultRefresh v ch []) s = .next (put s (owed + 1)))
            ∧ (8 ≤ owed → ∃ t : State, exec (.vaultRefresh v ch []) s = .next (put t 0)
              ∧ { t with cmds := s.cmds, memSys := { t.memSys with postponed := s.memSys.postponed } } = s
              ∧ ∀ d, s.cmd? c.seq = some d → d.locked = true → t.cmd? c.seq = some { d with locked := false, cause := 6 }))

/-- Where the round, or a new round (with which the commits end that waited for it), has a partition whose turn is not used up and which
has an eligible queue, the acceptance completes: the 64 bytes at HEAD of one of its eligible queues are taken (or are zero, with FENCED or
POISON kept, where they cannot be read) with the next sequence number, its announcing initiator and the DOORBELL clamp in waiting; HEAD
advances; the turn counts it; and memory beside the tally's spill ring keeps its bytes. Where there is none, no command is accepted. A
change of ring fields takes effect exactly when TAIL = HEAD = CTAIL, and restarts the counters. (R227, R228, R229
(08_decot_queues_tally.md); R209, R212 (08_decot_queues_tally.md); R232 (08_decot_queues_tally.md)) -/
def Obligations.AcceptanceTakesTheNextCommandOfAnEligibleQueue : Prop :=
  (∀ (s v : State) (pu : Nat × Nat),
      (v = s ∧ s.nextPart s.tally.roundPart s.tally.turnUsed = some pu)
        ∨ (s.nextPart s.tally.roundPart s.tally.turnUsed = none ∧ v = s.newRound.finishCommits ∧ v.nextPart 0 0 = some pu) →
      ∃ (q : Nat) (u : State), q ∈ v.eligibles pu.1 ∧ exec .commandAccept s = .next u.settled ∧
        let x := v.ctx q
        let a := x.live.ringBase.toNat + x.head.toNat % (max 1 x.live.depth.toNat) * 64
        let bad := if v.fencedAt a 64 then stFenced else if v.marked a 64 then stPoison else 0
        u.cmds = v.cmds ++ [{ seq := v.tally.head, queue := q, part := pu.1, ini := x.nextIni, idx := x.head
                              bytes := if bad = 0 then v.read a 64 else List.replicate 64 0, bad
                              clamp := if x.bellClamp then cDoorbell else 0 }]
          ∧ u.ctx q = { x with head := x.head + 1, bellClamp := false, announced := takeAnnounced x.announced
                               lastSeq := v.tally.head }
          ∧ (u.part pu.1).lastQueue = q ∧ u.tally.roundPart = pu.1 ∧ u.tally.turnUsed = pu.2 + 1
          ∧ (v.tally.begun = true → v.boot.stage = .done → u.tally.head = v.tally.head + 1)
          ∧ (∀ a, ¬ InSpill v a → u.byte a = v.byte a) ∧ (∀ p, p ≠ pu.1 → u.part p = v.part p) ∧ ∀ i, i ≠ q → u.ctx i = v.ctx i)
    ∧ (∀ s : State, let v := s.newRound.finishCommits
      s.nextPart s.tally.roundPart s.tally.turnUsed = none → v.nextPart 0 0 = none →
      ∃ t : State, exec .commandAccept s = .next t ∧ { t with tally := v.tally } = v
        ∧ t.tally.entries = v.tally.entries ∧ t.tally.head = s.tally.head ∧ ∀ c ∈ t.cmds, ∃ d ∈ s.cmds, d.seq = c.seq)
    ∧ ∀ (s : State) (q : BitVec 12),
      let x := s.ctx q.toNat
      let c := s.cfg.ctx q.toNat
      ∃ t : State, exec (.contextRingChange q) s = .next t ∧ { t with ctxs := s.ctxs } = s
        ∧ t.ctx q.toNat = (if x.live.sameRings c = false ∧ x.tail = x.head ∧ x.head = x.ctail then
            { x with live := { x.live with ringBase := c.ringBase, cplBase := c.cplBase, depth := c.depth }
                     tail := 0, head := 0, ctail := 0, chead := 0 } else x)
        ∧ ∀ i, i ≠ q.toNat → t.ctx i = s.ctx i

/-- The quota of a partition in service is 64 + floor((4096 - 64 n) W / sum of W) over the n partitions in service, with W from 1 to 16; the
quotas of all partitions never sum to more than 4,096; so while every partition is within its quota, one below its own quota finds the
command table not full. (R228 (08_decot_queues_tally.md): "Here n is the number of partitions in service, W_p is the dispatch weight of
1–16 that Partitions, Clients and Runtime Configuration assigns, and the sum runs over partitions in service. The quotas never sum to
more than 4,096, so a partition always reaches its own quota.") -/
def Obligations.QuotasShareTheCommandTable : Prop :=
  ∀ s : State,
    let on := partsAll.filter s.inService
    let total := (on.map fun p => (s.cfg.part p).dweight).foldl (· + ·) 0
    (∀ p ∈ on, s.quota p = 64 + (4096 - 64 * on.length) * (s.cfg.part p).dweight / total
        ∧ 1 ≤ (s.cfg.part p).dweight ∧ (s.cfg.part p).dweight ≤ 16)
      ∧ (partsAll.map s.quota).foldl (· + ·) 0 ≤ 4096
      ∧ ((∀ c ∈ s.cmds, c.part ∈ on) → (∀ p ∈ on, s.inflight p ≤ s.quota p) →
        ∀ p ∈ on, s.inflight p < s.quota p → s.cmds.length < 4096)

/-- A command that ends with a status is no longer in flight; its completion entry stands at CTAIL of its ring, unless a bunded vault or a
sealed region hides it, with its index, status, phase, clamp mask and sequence number; its tally entry shows the status, the clamps and
DONE; the step counter advances by the largest step offset only for a RUN_PROGRAM that ends with OK or TRUNC; KV_FULL is counted; a
command that was time-locked leaves its result in PRT_DET_LAST and PRT_DET_SEQ; a stream it owned is released, with its committed length
set only where the command ended with OK or TRUNC; CTAIL advances. (R222, R224, R225 (08_decot_queues_tally.md); R232
(08_decot_queues_tally.md); R145 (06_attention_kv.md); R259, R270 (10_determinism.md); R154 (06_attention_kv.md)) -/
def Obligations.CompletionWritesEntriesAndCounters : Prop :=
  ∀ (s : State) (c : Cmd) (st : Byte), s.cmd? c.seq = some c →
    let t := s.completeOne c st
    let good := st = stOk ∨ st = stTrunc
    let x := s.ctx c.queue
    let at' := x.live.cplBase.toNat + x.ctail.toNat % (max 1 x.live.depth.toNat) * 16
    let cause : BitVec 4 := if c.locked = true ∧ ¬ good then 8 else c.cause
    t.cmd? c.seq = none
      ∧ (s.fencedAt at' 16 = false → s.hitsSealed at' 16 = false → t.read at' 16 = leBytes 4 c.idx.toNat
          ++ [st, BitVec.ofNat 8 (1 - x.ctail.toNat / max 1 x.live.depth.toNat % 2)] ++ leBytes 2 c.clamp.toNat ++ leBytes 8 c.seq.toNat)
      ∧ (∀ e ∈ s.tally.entries, e.seq = c.seq → { e with
          status := st, clamp := c.clamp, flags := e.flags ||| 1
          step := if c.started then e.step else BitVec.ofNat 32 (t.part c.part).stepCount.toNat } ∈ t.tally.entries)
      ∧ (t.part c.part).stepCount = (s.part c.part).stepCount
          + (if good ∧ c.op = 1 then BitVec.ofNat 64 ((c.ended.map fun e => e.2.toNat).foldl max 0) else 0)
      ∧ (t.part c.part).kvFull = satAdd (s.part c.part).kvFull (if st = stKvFull then 1 else 0)
      ∧ (c.wasLocked = true → (t.part c.part).detSeq = c.seq
          ∧ (t.part c.part).detLast = BitVec.ofNat 32 ((if cause = 0 then 2 ^ 31 else 0) + cause.toNat))
      ∧ (c.wasLocked = false → (t.part c.part).detSeq = (s.part c.part).detSeq ∧ (t.part c.part).detLast = (s.part c.part).detLast)
      ∧ (x.live.sameRings (s.cfg.ctx c.queue) = true → (t.ctx c.queue).ctail = x.ctail + 1)
      ∧ ∀ u, c.kv = [u] → u.owned = true → (s.seqH u.handle).bound = true →
        let hdr := (s.seqH u.handle).header u.stream
        s.fencedAt hdr 16 = false → overlaps hdr 16 at' 16 = false → (∀ k, k < 16 → ¬ InSpill s (hdr + k)) →
          t.readN hdr 4 = (if good then (u.base + u.added) % 2 ^ 32 else s.readN hdr 4) ∧ bitAt (t.readN (hdr + 11) 1) 0 = false

/-- At its start a command's tally entry takes the step counter, which may write the tally's spill ring, and the command its RSV clamp;
nothing else changes. An accepted command that may start completes its start: NOP ends with OK and no other effect; FENCE waits for the
commands of its queue or partition accepted before it, and has ended where there are none; ABORT ends each of its targets that has not
started or runs on pans, touches no other command, then waits for the rest, and gives BAD_HANDLE where its target is no earlier command,
or no queue, of its partition; SET_SEED sets the seed and the step counter of its partition but for those it is told to keep, and ends
with OK. (R222, R230 (08_decot_queues_tally.md); R258 (10_determinism.md); R110 (04_pan_programs.md)) -/
def Obligations.WaitingAndSeedCommandsComplete : Prop :=
  ∀ (s : State) (c : Cmd),
    let b := s.beginCmd c
    let waits (u : State) : State := (u.modCmd c.seq fun d => { d with working := true, status := stOk }).settled
    let before := b.cmds.takeWhile fun d => d.seq ≠ c.seq
    let aborts (i : Instr) (pick : Cmd → Bool) : Prop :=
      let targets := before.filter fun d => !d.exempt && pick d
      ∃ u : State, exec i s = .next (waits u)
        ∧ (∀ d ∈ targets, (∀ d' ∈ b.cmds, d'.seq = d.seq → d' = d) → d.started = false ∨ (d.op = 1 ∧ d.pans ≠ []) → u.cmd? d.seq = none)
        ∧ ∀ d ∈ b.cmds, (∀ x ∈ targets, x.seq ≠ d.seq) → d ∈ u.cmds
    ({ b with tally := s.tally, cmds := s.cmds, mem := s.mem, poison := s.poison } = s ∧ b.tally.head = s.tally.head
        ∧ (∀ a, ¬ InSpill s a → b.byte a = s.byte a) ∧ (s.cmd? c.seq = some c → b.cmd? c.seq = some c.begun))
      ∧ (Starts s c 0 → exec (.nop c.seq) s = .next (b.ends c.seq stOk))
      ∧ (Starts s c 9 → c.f 8 1 = 0 → exec (.fenceQueue c.seq) s = .next (waits b)
        ∧ ((∀ d ∈ before, d.queue ≠ c.queue) → (waits b).cmd? c.seq = none))
      ∧ (Starts s c 9 → c.f 8 1 ≠ 0 → exec (.fencePartition c.seq) s = .next (waits b)
        ∧ ((∀ d ∈ before, d.part ≠ c.part) → (waits b).cmd? c.seq = none))
      ∧ (Starts s c 10 → c.f 8 1 = 0 → (b.abortKnows c (c.f 16 8) = true →
          aborts (.abortCommand c.seq) fun d => d.seq.toNat == c.f 16 8 && d.part == c.part)
        ∧ (b.abortKnows c (c.f 16 8) = false → exec (.abortCommand c.seq) s = .next (b.ends c.seq stBadHandle)))
      ∧ (Starts s c 10 → c.f 8 1 = 1 → (s.queueOwner (c.f 10 2) = some c.part → aborts (.abortQueue c.seq) fun d => d.queue == c.f 10 2)
        ∧ (s.queueOwner (c.f 10 2) ≠ some c.part → exec (.abortQueue c.seq) s = .next (b.ends c.seq stBadHandle)))
      ∧ (Starts s c 10 → c.f 8 1 = 2 → aborts (.abortPartition c.seq) fun d => d.part == c.part)
      ∧ (Starts s c 8 → exec (.setSeed c.seq) s = .next ((b.setPart c.part { s.part c.part with
          seed := if bitAt (c.f 24 1) 0 then (s.part c.part).seed else BitVec.ofNat 64 (c.f 8 8)
          stepCount := if bitAt (c.f 24 1) 1 then (s.part c.part).stepCount else BitVec.ofNat 64 (c.f 16 8) }).ends c.seq stOk))

/-- A load whose checks pass and, for a program, whose image stands and decodes, starts: its handle names an open sealed region at DEST of
the rounded length with the header's fields, the load works, the clamps of its header, words and alignment are noted, and memory
beside the tally's spill ring is unchanged. Where its image fails to decode it ends with BAD_HANDLE. When the copy ends, behind no time
lock and with the source readable, the region holds the source's bytes and a zero tail, is closed with its digest, the partition's MR is
extended with that digest, and the load ends with its status; where a source unit cannot be read, the input counts as SHORT and the clear
of the region joins the clear engine's queue for the command, and nothing else changes. (R74, R77
(04_pan_programs.md); R133, R134 (05_memory_vaults.md); R217 (08_decot_queues_tally.md); R353 (14_crypto_engines.md); R401, R402, R406
(16_attestation.md)) -/
def Obligations.LoadsCopyMeasureAndCloseTheirRegion : Prop :=
  (∀ (s : State) (c : Cmd) (h : Header), Starts s c 2 →
      let b := s.beginCmd c
      let src := c.addr 16
      let plen := c.f 24 8
      firstFail (loadChecks false b c plen) = none → 64 ≤ plen → b.marked src 64 = false → readHeader (b.read src 64) = some h →
      h.need ≤ plen → b.marked src h.need = false →
      let checked := checkProgram (b.words (src + 64) h.nDesc) (b.words (src + 64 + 16 * h.nDesc) h.nInstr)
      let v := b.clampCmd c.seq (alignClamp (c.addr 32) 0x10000)
      (checked = none → exec (.loadProgram c.seq) s = .next (v.ends c.seq stBadHandle))
        ∧ ∀ k, checked = some k → ∃ u : State, exec (.loadProgram c.seq) s = .next u.settled
          ∧ u.region false c.part (c.f 8 1) =
            { used := true, base := c.addr 32 / 0x10000 * 0x10000, len := up64k h.need, plen := BitVec.ofNat 64 plen, loadSeq := c.seq
              prog := { nInstr := h.nInstr, nDesc := h.nDesc, flags := BitVec.ofNat 8 k.flags, pansMin := h.pmin, pansMax := h.pmax
                        staticCycles := BitVec.ofNat 32 h.cycles, clampedWords := k.clamped, firstClamped := k.first } }
          ∧ u.cmd? c.seq = some { c.begun with
            working := true, status := if h.need < plen then stTrunc else stOk
            clamp := c.begun.clamp ||| alignClamp (c.addr 32) 0x10000 ||| ((if h.clamped || h.flags != k.flags then cHeader else 0)
              ||| (if k.clamped = 0 then 0 else cProgramField)) }
          ∧ { u with parts := s.parts, cmds := s.cmds, tally := s.tally, mem := s.mem, poison := s.poison } = s
          ∧ ∀ a, ¬ InSpill s a → u.byte a = s.byte a)
    ∧ (∀ (s : State) (c : Cmd), Starts s c 3 →
      let plen := max 1 (c.f 24 8)
      firstFail (loadChecks true (s.beginCmd c) c plen) = none →
      ∃ u : State, exec (.loadWeights c.seq) s = .next u.settled
        ∧ u.region true c.part (c.f 8 1) =
          { used := true, base := c.addr 32 / 0x10000 * 0x10000, len := up64k plen, plen := BitVec.ofNat 64 plen, loadSeq := c.seq }
        ∧ u.cmd? c.seq = some { c.begun with
          working := true, status := stOk
          clamp := c.begun.clamp ||| (alignClamp (c.addr 32) 0x10000 ||| (if c.f 24 8 = 0 then cLength else 0)) }
        ∧ { u with parts := s.parts, cmds := s.cmds, tally := s.tally, mem := s.mem, poison := s.poison } = s
        ∧ ∀ a, ¬ InSpill s a → u.byte a = s.byte a)
    ∧ ∀ (s : State) (c : Cmd) (weights : Bool), s.cmd? c.seq = some c → c.op = (if weights then 3 else 2) → c.working = true →
      s.edge.stopped = false → s.saltern.halted = false → (∀ j ∈ s.memSys.clears, j.whole = true ∨ j.seq ≠ c.seq) →
      let h := c.f 8 1
      let r := s.region weights c.part h
      s.copyHeld (c.addr 16) r.base = false →
      let n := if weights then r.plen.toNat else 64 + 16 * (r.prog.nDesc + r.prog.nInstr)
      let src := c.addr 16
      let data := s.read src n
      let digest := if weights then weightDigest data else sha384 data
      let kind := if weights then 0x11 else 0x10
      n ≤ r.len → overlaps r.base r.len logBase 0x400000 = false →
      (s.marked src n = false → s.fencedAt src n = false → s.fencedAt r.base r.len = false →
          ∃ u : State, exec (.sealedCopyDone c.seq []) s = .next (u.complete c.seq c.status)
            ∧ u.read r.base n = data ∧ (∀ a, r.base + n ≤ a → a < r.base + r.len → u.byte a = 0)
            ∧ u.region weights c.part h = { r with closed := true, digest, status := 0 }
            ∧ u.mr (8 + c.part) = extended (s.mr (8 + c.part)) (8 + c.part) kind 0 h digest
            ∧ u.eng.truncs = satAdd s.eng.truncs (if c.status = stTrunc then 1 else 0)
            ∧ ∀ a, ¬ (r.base ≤ a ∧ a < r.base + r.len) → ¬ (logBase ≤ a ∧ a < logBase + 0x400000) → u.byte a = s.byte a)
        ∧ (s.marked src n = true ∨ s.fencedAt src n = true → r.used = true → r.closed = false → r.loadSeq = c.seq →
          ∃ u : State, exec (.sealedCopyDone c.seq []) s = .next u
            ∧ u.memSys = { s.memSys with clears := s.memSys.clears
                ++ [{ whole := false, part := c.part, seq := c.seq, ranges := s.unfenced r.base r.len, pans := 0 }] }
            ∧ u.eng = { s.eng with shorts := satAdd s.eng.shorts 1 }
            ∧ u.cmd? c.seq = some { c with working := true, status := stOk }
            ∧ { u with memSys := s.memSys, eng := s.eng, cmds := s.cmds } = s)

/-- MEASURE of a loaded region whose RESULT may be written and whose bytes can be read completes: the digest stands at RESULT and is
extended into the partition's MR; the region is REMEASURED and the command ends with OK where the digest is as it was, else MISMATCH and
POISON. MEASURE of OWNER data by an initiator that is no operator gives DENIED; with an MR outside 24 to 31, BAD_HANDLE; else, where
source and RESULT are in reach, the SHA-384 digest of the PLEN bytes is extended into that MR and stands at RESULT, or, where a marked
unit fails the input, the failed value is extended and the command ends with POISON; while all four contexts hold messages, it waits. (R407, R408 (16_attestation.md); R401, R402
(16_attestation.md); R350, R353 (14_crypto_engines.md)) -/
def Obligations.MeasureHashesAndExtends : Prop :=
  ∀ (s : State) (c : Cmd), Starts s c 4 →
    let b := s.beginCmd c
    let res := c.addr 32
    let region (weights : Bool) : Prop :=
      let h := c.f 9 1
      let r := s.region weights c.part h
      let n := if weights then r.plen.toNat else 64 + 16 * (r.prog.nDesc + r.prog.nInstr)
      let data := b.read r.base n
      let digest := if weights then weightDigest data else sha384 data
      let kind := if weights then 0x13 else 0x12
      let same := digest = r.digest
      r.loaded = true → b.noWrite c.part res 48 = false → s.fencedAt res 48 = false → b.marked r.base n = false →
      s.fencedAt r.base n = false → overlaps res 48 logBase 0x400000 = false →
      ∃ u : State, exec (if weights then .measureWeights c.seq else .measureProgram c.seq) s
          = .next (u.ends c.seq (if same then stOk else stPoison))
        ∧ u.read res 48 = digest ∧ u.region weights c.part h = { r with status := if same then 2 else 3 }
        ∧ u.mr (8 + c.part) = extended (s.mr (8 + c.part)) (8 + c.part) kind (if same then 0 else 2) h digest
    let mr := c.f 10 1
    let src := c.addr 16
    let n := c.f 24 8
    let i : Instr := .measureOwner c.seq
    (c.f 8 1 = 0 → region false) ∧ (c.f 8 1 = 1 → region true)
      ∧ (c.f 8 1 = 2 → s.isOperator c.ini = false → exec i s = .next (b.ends c.seq stDenied))
      ∧ (c.f 8 1 = 2 → s.isOperator c.ini = true → mr < 24 ∨ 31 < mr → exec i s = .next (b.ends c.seq stBadHandle))
      ∧ (c.f 8 1 = 2 → s.isOperator c.ini = true → 24 ≤ mr → mr ≤ 31 → b.noRead c.part src n = false → b.noWrite c.part res 48 = false →
        s.fencedAt src n = false → s.fencedAt res 48 = false → overlaps res 48 logBase 0x400000 = false → s.ctxsFull = false →
        (b.marked src n = false → ∃ u : State, exec i s = .next (u.ends c.seq stOk) ∧ u.read res 48 = sha384 (b.read src n)
            ∧ u.mr mr = extended (s.mr mr) mr 0x14 0 0 (sha384 (b.read src n)))
          ∧ (b.marked src n = true → ∃ u : State, exec i s = .next (u.ends c.seq stPoison)
            ∧ u.mr mr = extended (s.mr mr) mr 0x14 1 0 (List.replicate 48 0xFF) ∧ u.attest.mrFailed = true))
      ∧ (c.f 8 1 = 2 → s.isOperator c.ini = true → 24 ≤ mr → mr ≤ 31 → s.ctxsFull = true → exec i s = .next s)

/-- KV_BIND of an unbound handle with an accepted page format, a page that fits a slot, and a table and a scale record that the partition
may write binds the handle with the limited NH, HD, PS and MAXLEN: each stream header shows length zero and the learned scales and zero
points (zero points only for integer pages), every page-table entry is zero, the command ends with OK, and no byte outside the table
changed. A bound handle or a format that is none gives BAD_HANDLE. KV_RELEASE of a handle of its partition outside bunded vaults appends
the pages of the entries that can be read to the free list, where they stand in the partition's free-list ring from its tail on, zeroes
the table, unbinds the handle and ends with OK, with no byte changed beside those; of any other handle it gives BAD_HANDLE. (R146, R147
(06_attention_kv.md); R149, R153 (06_attention_kv.md)) -/
def Obligations.SequencesAreBoundAndReleased : Prop :=
  ∀ (s : State) (c : Cmd),
    let b := s.beginCmd c
    let h := c.f 8 2 % 4096
    (∀ f : Fmt, Starts s c 5 → fmt3 (c.f 13 1 % 8) = some f → f ≠ .uint4 → f ≠ .uint8 → (s.seqH h).bound = false →
        let slot := (s.cfg.part c.part).slotBytes
        let hd0 := limit 1 128 (c.f 11 1)
        let hd := if f = .int4 then hd0 + hd0 % 2 else hd0
        let q : Seq :=
          { bound := true, part := c.part, nh := limit 1 128 (c.f 10 1), hd, ps := (fitPs f hd slot (nearPs (c.f 12 1))).getD 16
            pfmt := BitVec.ofNat 3 (c.f 13 1), sfmt := bitAt (c.f 13 1) 3, maxlen := limit 1 131072 (c.f 16 4)
            table := c.addr 24 / 4096 * 4096 }
        let scales := c.addr 32
        let z (i : Nat) : Byte := if f = .int4 ∨ f = .int8 then b.byte (scales + i) else 0
        (fitPs f hd slot (nearPs (c.f 12 1))).isSome = true → b.noWrite c.part q.table q.tableLen = false →
        b.noWrite c.part scales (8 * q.nh) = false → s.fencedAt q.table q.tableLen = false → s.fencedAt scales (8 * q.nh) = false →
        b.marked scales (8 * q.nh) = false →
        ∃ u : State, exec (.kvBind c.seq) s = .next (u.ends c.seq stOk) ∧ u.seqH h = q
          ∧ (∀ i, i < q.nh → u.read (q.header i) 12 = leBytes 4 0
            ++ [b.byte (scales + 8 * i), b.byte (scales + 8 * i + 1), z (8 * i + 2), 0,
                b.byte (scales + 8 * i + 4), b.byte (scales + 8 * i + 5), z (8 * i + 6), 0])
          ∧ (∀ a, q.table + 16 * q.nh ≤ a → a < q.table + q.tableLen → u.byte a = 0)
          ∧ (∀ a, ¬ (q.table ≤ a ∧ a < q.table + q.tableLen) → u.byte a = b.byte a)
          ∧ ∀ i, i ≠ h → u.seqH i = s.seqH i)
      ∧ (Starts s c 5 → ((s.seqH h).bound = true ∨ ∀ f, fmt3 (c.f 13 1 % 8) = some f → f = .uint4 ∨ f = .uint8) →
        exec (.kvBind c.seq) s = .next (b.ends c.seq stBadHandle))
      ∧ (Starts s c 6 →
        let q := s.seqH h
        (q.bound = false ∨ q.part ≠ c.part → exec (.kvRelease c.seq) s = .next (b.ends c.seq stBadHandle))
          ∧ (q.bound = true → q.part = c.part → s.fencedAt q.table q.tableLen = false →
            let ring := freeRing c.part
            let v := s.part c.part
            let pages := b.pagesOf q
            ∃ u : State, exec (.kvRelease c.seq) s = .next (u.ends c.seq stOk) ∧ u.seqH h = {}
              ∧ u.part c.part = { v with freeList := v.freeList ++ pages, freeTail := (u.part c.part).freeTail }
              ∧ (pages ≠ [] → (u.part c.part).freeTail = (v.freeTail + pages.length) % 65536)
              ∧ (pages.length ≤ 65536 → overlaps q.table q.tableLen ring 0x20000 = false → ∀ i, i < pages.length →
                u.readN (ring + 2 * ((v.freeTail + i) % 65536)) 2 = pages.getD i 0)
              ∧ (∀ a, q.table ≤ a → a < q.table + q.tableLen → u.byte a = 0)
              ∧ ∀ a, ¬ (q.table ≤ a ∧ a < q.table + q.tableLen) → ¬ (ring ≤ a ∧ a < ring + 0x20000) → u.byte a = b.byte a))

/-- CLEAR_REGION of a loaded handle, or of a range of its partition that meets no sealed region and no bunded vault, completes its start:
the range, rounded to 4 KiB with a clamp noted, joins the clear engine's queue, and the command works. When the engine has done a clear
that waits for nothing and meets no failure twice, every byte of its ranges is zero and unmarked, no other byte changed, the handle is
free, and the command ends with its status; a vault or port that failed twice ends it with POISON, and vault 7 stops the device with
FATAL. Where the clear is that of a load cut short, the handle is free, the failed value is extended, and the load ends with SHORT. (R136,
R137, R139 (05_memory_vaults.md); R442, R444 (18_containment.md)) -/
def Obligations.ClearsAreQueuedAndZeroTheirRanges : Prop :=
  ∀ (s : State) (c : Cmd),
    let b := s.beginCmd c
    let queued (i : Instr) (m : BitVec 16) (a n : Nat) : Prop :=
      ∃ u : State, exec i s = .next u.settled
        ∧ u.memSys.clears = s.memSys.clears ++ [{ whole := false, part := c.part, seq := c.seq, ranges := s.unfenced a n, pans := 0 }]
        ∧ u.cmd? c.seq = some { c.begun with clamp := c.begun.clamp ||| m, working := true, status := stOk }
        ∧ { u with memSys := s.memSys, cmds := s.cmds, tally := s.tally, mem := s.mem, poison := s.poison } = s
        ∧ ∀ a, ¬ InSpill s a → u.byte a = s.byte a
    let handle (weights : Bool) : Prop :=
      let r := s.region weights c.part (c.f 9 1)
      r.loaded = true → queued (if weights then .clearRegionWeights c.seq else .clearRegionProgram c.seq) 0 r.base r.len
    let a := c.addr 16 / 4096 * 4096
    let n := cdiv (c.f 24 8) 4096 * 4096
    (Starts s c 7 → c.f 8 1 = 0 → handle false) ∧ (Starts s c 7 → c.f 8 1 = 1 → handle true)
      ∧ (Starts s c 7 → c.f 8 1 = 2 → within (b.ranges c.part) a n = true → s.hitsSealed a n = false → s.fencedAt a n = false →
        queued (.clearRegionRange c.seq) (alignClamp (c.addr 16) 4096 ||| alignClamp (c.f 24 8) 4096) a n)
      ∧ ∀ (j : ClearJob) (v : ClearVerdict), s.cmd? c.seq = some c → c.working = true → s.edge.stopped = false →
        s.saltern.halted = false → s.memSys.clears.find? (fun k => !k.whole && k.seq == c.seq) = some j →
        s.clearWaits j.ranges = false →
        let bad := (touchedVaults j.ranges).any (fun i => v.retryVaults.getLsbD i && v.failVaults.getLsbD i)
          || (touchedPorts j.ranges).any (fun i => v.retryPorts.getLsbD i && v.failPorts.getLsbD i)
        let dead := (touchedVaults j.ranges).contains 7 && v.retryVaults.getLsbD 7 && v.failVaults.getLsbD 7 && !s.errs.vaults.getLsbD 7
        let inJob (a : Nat) : Prop := ∃ r ∈ j.ranges, r.1 ≤ a ∧ a < r.1 + r.2
        let inLog (a : Nat) : Prop := logBase ≤ a ∧ a < logBase + 0x400000
        let weights := c.op == 3
        let h := c.f 8 1
        let r := s.region weights c.part h
        (dead = true → ∃ t : State, exec (.clearRegionDone c.seq v) s = .next t ∧ t.edge.stopped = true ∧ t.errs.fatalCause = 5)
          ∧ (dead = false → c.op = 7 →
            ∃ u : State, exec (.clearRegionDone c.seq v) s = .next (u.complete c.seq (if bad then stPoison else c.status))
              ∧ (c.f 8 1 ≤ 1 → u.region (c.f 8 1 == 1) c.part (c.f 9 1) = {})
              ∧ (bad = false → (∀ a, inJob a → u.byte a = 0) ∧ (∀ a, ¬ inJob a → u.byte a = s.byte a)
                ∧ ∀ x ∈ u.poison, ¬ inJob x))
          ∧ (dead = false → c.op = 2 ∨ c.op = 3 → r.used = true → r.closed = false → r.loadSeq = c.seq →
            ∃ u : State, exec (.clearRegionDone c.seq v) s = .next (u.complete c.seq stShort) ∧ u.region weights c.part h = {}
              ∧ u.mr (8 + c.part) = extended (s.mr (8 + c.part)) (8 + c.part) (if weights then 0x11 else 0x10) 1 h (List.replicate 48 0xFF)
              ∧ (bad = false → (∀ a, inJob a → ¬ inLog a → u.byte a = 0) ∧ ∀ a, ¬ inJob a → ¬ inLog a → u.byte a = s.byte a))

/-- QUERY of the device, a queue, a program, the tally, the checkpoints, weights, the partition, a sequence and the profile completes where
its object exists and RESULT may be written: the first RLEN bytes of the object's result stand at RESULT and nothing else changed, and
the command ends with OK, or with TRUNC where the result was longer. A queue or a sequence of another partition, and a handle not
loaded, give BAD_HANDLE. DEVICE shows the version, the partitions in service and the bunded pans; PROGRAM, WEIGHTS and SEQUENCE show
what their tables list. (R223, R236, R217 (08_decot_queues_tally.md); R255 (09_partitions.md); R409 (16_attestation.md); R463, R465
(19_operator_access.md)) -/
def Obligations.QueriesWriteTheirResult : Prop :=
  ∀ (s : State) (c : Cmd), Starts s c 11 →
    let b := s.beginCmd c
    let shows (what : Nat) (i : Instr) (bytes : Option (List Byte)) : Prop := c.f 8 1 = what →
      (bytes = none → exec i s = .next (b.ends c.seq stBadHandle))
        ∧ ∀ l, bytes = some l → b.noWrite c.part c.result (l.take c.rlen).length = false →
          s.fencedAt c.result (l.take c.rlen).length = false →
          exec i s = .next ((b.engineWrite c.result (l.take c.rlen)).ends c.seq (if c.rlen < l.length then stTrunc else stOk))
    let r := s.region false c.part (c.f 9 1)
    let w := s.region true c.part (c.f 9 1)
    let g := r.prog
    let q := s.seqH (c.f 16 8)
    shows 0 (.queryDevice c.seq) (some (leBytes 4 0x00020001 ++ leBytes 2 s.serviceMask ++ [0, 0] ++ leBytes 8 s.bundedMask))
      ∧ shows 1 (.queryQueue c.seq) (queryQueueBytes c b)
      ∧ shows 2 (.queryProgram c.seq) (if r.loaded = false then none else
        some (leBytes 4 g.nInstr ++ leBytes 1 g.nDesc ++ [g.flags] ++ leBytes 1 g.pansMin ++ leBytes 1 g.pansMax
          ++ leBytes 4 g.staticCycles.toNat ++ leBytes 4 g.clampedWords ++ leBytes 4 (g.firstClamped.getD 0xFFFFFFFF)
          ++ leBytes 4 (b2n (8192 < g.nDesc + g.nInstr)) ++ leBytes 8 r.base ++ leBytes 8 r.len ++ List.replicate 8 0
          ++ slice r.digest 0 48))
      ∧ shows 3 (.queryTally c.seq) (queryTallyBytes c b)
      ∧ shows 4 (.queryTallyCkpt c.seq) (queryCkptBytes c b)
      ∧ shows 5 (.queryWeights c.seq) (if w.loaded = false then none else
        some (leBytes 8 w.base ++ leBytes 8 w.len ++ leBytes 8 w.plen.toNat ++ leBytes 8 w.loadSeq.toNat ++ leBytes 16 w.status.toNat
          ++ slice w.digest 0 48))
      ∧ shows 6 (.queryPartition c.seq) (queryPartBytes c b)
      ∧ (s.fencedAt q.table (16 * q.nh) = false → b.marked q.table (16 * q.nh) = false → shows 7 (.querySequence c.seq)
        (if 4096 ≤ c.f 16 8 ∨ q.bound = false ∨ q.part ≠ c.part then none else
          some (leBytes 4 q.nh ++ (List.range q.nh).flatMap fun i => b.read (q.header i) 4)))
      ∧ shows 0x80 (.profile c.seq) (some ((if c.f 16 8 = 0 then pansAll else maskList (c.f 16 8) 64).flatMap s.profileBytes))

/-- An operator's debug command begins its session and completes. DBG_READ of a readable unit of plain memory leaves its 16 bytes at RESULT
and ends with OK; DBG_WRITE stores 16 bytes from RESULT to a unit of plain memory outside sealed, held and reserved ranges; DBG_HALT
adds the session's hold to a pan that is not bunded, which then cannot issue, and gives FENCED for a bunded one; DBG_RESUME removes it;
DBG_PANSTATE leaves the pan's status and program words at RESULT; DBG_END closes the session and no pan keeps a hold of it. (R456, R457,
R458, R461, R462, R463 (19_operator_access.md)) -/
def Obligations.OperatorDebugCommandsActOnPansAndMemory : Prop :=
  ∀ (s : State) (c : Cmd), Starts s c 11 →
    let b := s.beginCmd c
    let me : Session := .query c.ini
    let w := b.beginSession me
    let a := c.f 16 8
    let p := fld (c.f 16 1) 0 6
    (c.f 8 1 = 0x88 → c.rlen = 16 → a % 16 = 0 → w.reach a = .memory → w.fencedAt a 16 = false → w.marked a 16 = false →
        s.readHeld a 16 = false → w.noWrite c.part c.result 16 = false → w.fencedAt c.result 16 = false →
        ∃ u : State, exec (.dbgRead c.seq) s = .next (u.ends c.seq stOk) ∧ u.read c.result 16 = w.read a 16)
      ∧ (c.f 8 1 = 0x89 → c.rlen = 16 → a % 16 = 0 → w.reach a = .memory → (vaultOf a = none ∨ a < reserveBase) →
        w.hitsSealed a 16 = false → w.kvHit a 16 = none → w.fencedAt a 16 = false → w.noRead c.part c.result 16 = false →
        w.fencedAt c.result 16 = false → w.marked c.result 16 = false →
        ∃ u : State, exec (.dbgWrite c.seq) s = .next (u.ends c.seq stOk) ∧ u.read a 16 = w.read c.result 16
          ∧ ∀ x, ¬ (a ≤ x ∧ x < a + 16) → u.byte x = w.byte x)
      ∧ (c.f 8 1 = 0x8A → c.f 9 1 = 0 → ((w.pan p).bunded = false → ∃ u : State, exec (.dbgHalt c.seq) s = .next (u.ends c.seq stOk)
          ∧ me ∈ (u.pan p).holds ∧ u.canIssue p = false ∧ u.mem = w.mem ∧ ∀ q, q ≠ p → u.pan q = w.pan q)
        ∧ ((w.pan p).bunded = true → exec (.dbgHalt c.seq) s = .next (w.ends c.seq stFenced)))
      ∧ (c.f 8 1 = 0x8A → c.f 9 1 = 1 → ∃ u : State, exec (.dbgResume c.seq) s = .next (u.ends c.seq stOk)
        ∧ (u.pan p).holds = (w.pan p).holds.filter (fun y => y != me) ∧ { u with pans := w.pans } = w)
      ∧ (c.f 8 1 = 0x8B → w.noWrite c.part c.result (min c.rlen 64) = false → w.fencedAt c.result (min c.rlen 64) = false → 8 ≤ c.rlen →
        ∃ u : State, exec (.dbgPanstate c.seq) s = .next (u.ends c.seq (if c.rlen < 64 then stTrunc else stOk))
          ∧ u.read c.result 8 = leBytes 4 (w.panStatus p) ++ leBytes 4 (w.panProg p))
      ∧ (c.f 8 1 = 0x8F → ∃ u : State, exec (.dbgEnd c.seq) s = .next (u.ends c.seq stOk) ∧ me ∉ u.dbg.sessions
        ∧ (∀ q, q < 64 → me ∉ (u.pan q).holds) ∧ u.mem = b.mem)

/-- A RUN_PROGRAM that names a loaded program outside bunded vaults, pans of its own pool, and enough idle pans starts: each pan of the set,
in ascending index, runs the command with its rank at word 0, with no loop open and step offset and gather count 0, its PAN_ARITH and
its store as they were but for ARGS, and it holds the program: a program that is not streamed and that the pan did not hold yet stands
in its instruction memory; the command takes the step counter as its base, and pans outside the set and bytes outside those memories and
the tally's spill ring are as they were. A pan of the set
that is not idle makes the command wait, with no effect. (R75, R79, R81 (04_pan_programs.md); R219, R230, R232
(08_decot_queues_tally.md); R259 (10_determinism.md); R36 (02_pans_and_cells.md)) -/
def Obligations.RunProgramStartsItsPans : Prop :=
  ∀ (s : State) (c : Cmd),
    let b := s.beginCmd c
    let r := s.region false c.part (c.f 8 1)
    let mask := c.f 16 8
    let set := (choosePans (s.usable c.part) mask (c.f 9 1) r.prog.pansMin r.prog.pansMax).1
    let words := r.prog.nDesc + r.prog.nInstr
    (s.cmd? c.seq = some c → s.runWaits c = true → exec (.runProgram c.seq) s = .next s)
      ∧ (Starts s c 1 → s.runWaits c = false → r.loaded = true → (∀ i ∈ maskList mask 64, i ∈ s.pool c.part ∧ (s.pan i).bunded = false) →
        s.usable c.part ≠ [] → s.fencedAt r.base r.len = false → r.prog.pansMin ≤ set.length →
        b.marked (r.base + 64) (16 * words) = false → words ≤ 8192 → r.base + 64 + 16 * words ≤ 8 * vaultSize →
        ∃ u : State, exec (.runProgram c.seq) s = .next u.settled
          ∧ (∀ p k, (p, k) ∈ set.zipIdx → (u.pan p).run = some { seq := c.seq, race := false, slot := 0, part := c.part, rank := k
                                                                 size := set.length, seqBase := c.f 10 2 % 4096 }
            ∧ (u.pan p).st = .run ∧ (u.pan p).pc = 0 ∧ (u.pan p).loops = [] ∧ (u.pan p).stepOff = 0 ∧ (u.pan p).gcount = 0
            ∧ (u.pan p).arith = (s.pan p).arith ∧ (u.pan p).held = some (c.part, c.f 8 1, r.loadSeq) ∧ (u.pan p).nDesc = r.prog.nDesc
            ∧ (u.pan p).nInstr = r.prog.nInstr ∧ (u.pan p).streamed = false
            ∧ ((s.pan p).held ≠ some (c.part, c.f 8 1, r.loadSeq) → u.read (imemBase p) (16 * words) = b.read (r.base + 64) (16 * words))
            ∧ (bitAt (c.f 12 4) 31 = true → ∀ i, i < 32 →
              u.byte (slotAddr p { acc := false, ofs := fld (c.f 12 4) 4 17 * 16 } i) = c.bytes.getD (24 + i) 0))
          ∧ (∀ p, p ∉ set → u.pan p = s.pan p)
          ∧ (∀ a, ¬ InSpill s a → (∀ p ∈ set, ¬ (imemBase p ≤ a ∧ a < imemBase p + 0x20000)
              ∧ ¬ InSlot p { acc := false, ofs := fld (c.f 12 4) 4 17 * 16 } 32 a) → u.byte a = s.byte a)
          ∧ ∃ d, u.cmd? c.seq = some d ∧ d.pans = set ∧ d.stepBase = (s.part c.part).stepCount ∧ d.started = true)

/-- A register write that a time lock holds has no effect. Where none holds it, a 32-bit write of a staged register puts its half of the
value, cut to the RWS bits, into the shadow and answers OK, where the initiator is an operator or is bound to the partition of a
partition-scope register; the committed configuration and everything else stands, but that a write in a race window ends the locks on its
way. Any other initiator is answered DENIED without effect. A whole 64-bit write of a 64-bit register does both halves. A write of
GLB_VERSION changes nothing, and GLB_EDGE_STATUS loses exactly the write-one bits that are written as one. (R5, R6 (01_block_edges.md);
R220 (08_decot_queues_tally.md); R243, R247 (09_partitions.md); R466 (19_operator_access.md)) -/
def Obligations.RegisterWritesStageRefuseAndClear : Prop :=
  ∀ (s : State) (r : Req) (off : BitVec 24) (value : DWord), Taken s r →
    let o := off.toNat / 8 * 8
    let x := value.toNat
    let w := s.portPath r.module1 (controlBase + o)
    (s.portHeld r.module1 (controlBase + o) = true → ∀ be, exec (.registerWrite r off value be) s = .next s)
      ∧ (s.portHeld r.module1 (controlBase + o) = false → (∀ (high : Bool) (reg : Rws) (k : Nat), rwsAt (o + if high then 4 else 0) = some (reg, k) →
        let v := if high then x / 2 ^ 32 else x % 2 ^ 32
        let old := s.shadow.get reg
        let i : Instr := .registerWrite r off value (if high then 0xF0 else 0x0F)
        (s.mayStage r.ini reg = true → ∃ u : State, exec i s = .next u ∧ { u with shadow := s.shadow } = w.respond r rOk []
            ∧ u.shadow.get reg = (if k = 0 then old / 2 ^ 32 * 2 ^ 32 + v else old % 2 ^ 32 + v * 2 ^ 32) &&& reg.mask
            ∧ ∀ y, y ≠ reg → u.shadow.get y = s.shadow.get y)
          ∧ (s.mayStage r.ini reg = false → exec i s = .next (w.respond r rDenied [])))
      ∧ (∀ reg : Rws, rwsAt o = some (reg, 0) → reg.width = 8 → s.mayStage r.ini reg = true →
        ∃ u : State, exec (.registerWrite r off value 0xFF) s = .next u ∧ { u with shadow := s.shadow } = w.respond r rOk []
          ∧ u.shadow.get reg = x &&& reg.mask ∧ ∀ y, y ≠ reg → u.shadow.get y = s.shadow.get y)
      ∧ (o = 0 → exec (.registerWrite r off value 0x0F) s = .next (s.respond r rOk []))
      ∧ (o = 0x10 → exec (.registerWrite r off value 0xF0) s = .next (({ s with edge := { s.edge with
          regAlertSeen := s.edge.regAlertSeen && !bitAt x 40
          thermTrip := s.edge.thermTrip && !bitAt x 41
          thermShutdown := s.edge.thermShutdown && !bitAt x 42 } } : State).respond r rOk [])))

/-- For an initiator of the port while READY is asserted, and for an agent of the device itself while PORST_N is high and no FATAL error has
stopped it, a 32-bit read of the low word of a 64-bit register answers that word and keeps the high word of the same moment
in the reader's own latch, and no other latch changes. A later read of that high word by the same initiator answers the kept word,
whatever the register holds by then, and clears the latch. Where the latch holds another register or none, the read of a high word
answers the current value and leaves the latch. (R4 (01_block_edges.md)) -/
def Obligations.SplitReadsOfARegisterAgree : Prop :=
  ∀ (s : State) (ini : Ini) (off : BitVec 24) (o : Nat),
    let serves (v : State) : Prop := if ini.toNat < 64 then v.up = true else v.edge.porst = true ∧ v.edge.stopped = false
    serves s → wideReg off.toNat = some o →
    (∃ u : State, exec (.latchedLowWordRead ini off) s = .next u ∧ { u with latches := s.latches } = s.answerWord ini (s.ctlWord ini o)
        ∧ (∀ j : Ini, j ≠ ini → u.latch j = s.latch j)
        ∧ ∀ v : State, serves v → v.latch ini = u.latch ini →
          ∃ t : State, exec (.latchedHighWordRead ini off) v = .next t ∧ t.latch ini = {}
            ∧ { t with latches := v.latches } = v.answerWord ini (s.ctlWord ini (o + 4)))
      ∧ ((s.latch ini).reg ≠ some o → exec (.latchedHighWordRead ini off) s = .next (s.answerWord ini (s.ctlWord ini (o + 4))))

/-- A RD or WR of memory that no time lock holds, with no error detected, is answered once with its own tag; one that a lock holds has no
effect. An address not owned gives UNMAPPED, zeros, and a count. A read answers the bytes of its units (of a pan store from DOZE to the
end of the wake no rule says which), zeros for each marked or fenced unit, with POISONED where there is one. A write to a
race pan or a sealed region gives DENIED and a count, to a held range DENIED and the partition's count, to a bunded vault POISONED;
otherwise exactly the enabled bytes change, but that a unit written in part that is marked stays as it was, with POISONED; a unit
written whole loses its mark. A malformed request is answered MALFORMED and changes nothing. (R112, R113, R131, R135
(05_memory_vaults.md); R150 (06_attention_kv.md); R191 (07_race_lane.md); R202, R203, R204 (08_decot_queues_tally.md); R435, R436, R442
(18_containment.md); R277 (11_power_clocks.md)) -/
def Obligations.PortReadsAndWritesReachOwnedMemory : Prop :=
  ∀ (s : State) (m : Bool) (h : QWord) (data : List Byte), (s.link m).isUp = true → s.edge.stopped = false → s.edge.ready = true →
    let r := hReq m h
    let a := hAddr h
    let n := 16 * hUnits h
    let zeros : List Byte := List.replicate n 0
    let w := s.touchMemory a
    let owned := s.portOwns r.ini a n = true
    let race := ∃ p, panOf a = some p ∧ (s.slotOf p).isSome = true ∧ (s.pan p).bunded = false
    let shut : Bool := s.fencedAt a n || (match panOf a with | some p => (s.pan p).bunded | none => false)
    let gone (u : Nat) : Bool := shut || s.marked u 16
    let on (k : Nat) : Bool := hEnabled h k
    let whole (i : Nat) : Bool := (List.range 16).all fun k => on (16 * i + k)
    let kept (i : Nat) : Prop := whole i = false ∧ (∃ k, k < 16 ∧ on (16 * i + k) = true) ∧ s.marked (a + 16 * i) 16 = true
    let lost := (panOf a).isSome && w.panLost
    (hBad h 1 = true → exec (.rd m h []) s = .next (s.respond r rMalformed zeros))
      ∧ (hBad h 2 = true → exec (.wr m h data []) s = .next (s.respond r rMalformed []))
      ∧ (s.portHeld m a = true → (hBad h 1 = false → exec (.rd m h []) s = .next s)
        ∧ (hBad h 2 = false → exec (.wr m h data []) s = .next s))
      ∧ (hBad h 1 = false → inControl a = false → s.portHeld m a = false →
        (¬ owned → exec (.rd m h []) s = .next (w.countUnmapped.respond r rUnmapped zeros))
          ∧ (owned → ∃ (d : List Byte) (u : State), exec (.rd m h []) s = .next (u.respond r
                (if (List.range (hUnits h)).any (fun i => gone (a + 16 * i)) then rPoisoned else rOk) d)
              ∧ { u with drawn := s.drawn } = w ∧ d.length = n
              ∧ ∀ k, k < n → (gone (a + 16 * (k / 16)) = true → d.getD k 0 = 0)
                ∧ (gone (a + 16 * (k / 16)) = false → lost = false → d.getD k 0 = s.byte (a + k))))
      ∧ (hBad h 2 = false → inControl a = false → s.portHeld m a = false →
        (race → exec (.wr m h data []) s = .next (w.countSealed.respond r rDenied []))
          ∧ (¬ race → ¬ owned → exec (.wr m h data []) s = .next (w.countUnmapped.respond r rUnmapped []))
          ∧ (¬ race → owned → s.hitsSealed a n = true → exec (.wr m h data []) s = .next (w.countSealed.respond r rDenied []))
          ∧ (¬ race → owned → s.hitsSealed a n = false → ∀ p, s.kvHit a n = some p → exec (.wr m h data []) s = .next
              ((w.modPart p fun v => { v with kvRefused := satAdd v.kvRefused 1 }).respond r rDenied []))
          ∧ (¬ race → owned → s.hitsSealed a n = false → s.kvHit a n = none → shut = true →
              exec (.wr m h data []) s = .next (w.respond r rPoisoned []))
          ∧ (¬ race → owned → s.hitsSealed a n = false → s.kvHit a n = none → shut = false →
            ∃ (st : BitVec 4) (u : State), exec (.wr m h data []) s = .next (u.respond r st [])
              ∧ (st = rPoisoned ↔ ∃ i, i < hUnits h ∧ kept i) ∧ (st = rOk ∨ st = rPoisoned)
              ∧ { u with mem := s.mem, poison := s.poison } = w
              ∧ (∀ i k, i < hUnits h → k < 16 → u.byte (a + 16 * i + k) =
                  if on (16 * i + k) = true ∧ (whole i = true ∨ s.marked (a + 16 * i) 16 = false) then data.getD (16 * i + k) 0
                  else s.byte (a + 16 * i + k))
              ∧ (∀ x, ¬ (a ≤ x ∧ x < a + n) → u.byte x = s.byte x)
              ∧ ∀ y, (y ∈ u.poison ↔ y ∈ s.poison ∧ ∀ i, i < hUnits h → whole i = true → y ≠ a + 16 * i)))

/-- A served doorbell write from an initiator bound to the queue sets TAIL to HEAD + min(d, DEPTH), with d = (t - HEAD) mod 65,536, unless d
is at least 32,768 or does not pass TAIL - HEAD; and CHEAD to CHEAD + min(e, CTAIL - CHEAD), with e = (h - CHEAD) mod 65,536, unless e
is at least 32,768. Where a min cuts, the next command takes the DOORBELL clamp. No other context changes. From any other initiator it
is answered DENIED, and only the refused counter moves, saturating. (R211, R212, R213 (08_decot_queues_tally.md)) -/
def Obligations.DoorbellsMoveTailAndConsumerHead : Prop :=
  ∀ (s : State) (r : Req) (q : BitVec 12) (value : DWord), Served s r →
    let x := s.ctx q.toNat
    let d := (fld value.toNat 0 16 + 65536 - x.head.toNat % 65536) % 65536
    let e := (fld value.toNat 16 16 + 65536 - x.chead.toNat % 65536) % 65536
    let used := (x.tail - x.head).toNat
    let room := (x.ctail - x.chead).toNat
    let depth := x.live.depth.toNat
    (s.mayRing r.ini q.toNat = true → ∃ u : State, exec (.doorbellWrite r q value) s = .next (u.respond r rOk [])
        ∧ (let y := u.ctx q.toNat
          { y with tail := x.tail, chead := x.chead, bellClamp := x.bellClamp, announced := x.announced } = x
            ∧ y.tail = (if 32768 ≤ d ∨ d ≤ used then x.tail else x.head + BitVec.ofNat 32 (min d depth))
            ∧ y.chead = (if 32768 ≤ e then x.chead else x.chead + BitVec.ofNat 32 (min e room))
            ∧ (y.bellClamp = true ↔ x.bellClamp = true ∨ (d < 32768 ∧ used < d ∧ depth < d) ∨ (e < 32768 ∧ room < e)))
        ∧ (∀ i, i ≠ q.toNat → u.ctx i = s.ctx i) ∧ u.mem = s.mem ∧ u.cmds = s.cmds)
      ∧ (s.mayRing r.ini q.toNat = false → exec (.doorbellWrite r q value) s = .next
        (({ s with tally := { s.tally with bellRefused := satAdd s.tally.bellRefused 1 } } : State).respond r rDenied []))

/-- Before READY a read of the open boot window answers its bytes; every other read answers zeros with NOT_READY. A write with a byte in the
open boot window acts on that window; every other write is discarded with NOT_READY, and where it holds a byte of a doorbell, of a queue
or of a race slot, only GLB_EARLY_DOORBELL moves. A doorbell as its own row is counted and answered the same. (R205
(08_decot_queues_tally.md): "Until READY is asserted, the port serves only reads of the boot window and writes to its boot-push window.
Every other read returns zeros and every other write is discarded, each with NOT_READY. A doorbell write in that period is also counted
in GLB_EARLY_DOORBELL.") -/
def Obligations.BeforeReadyOnlyTheBootWindowIsServed : Prop :=
  ∀ (s : State), s.edge.stopped = false → s.edge.ready = false →
    (∀ (m : Bool) (h : QWord) (data : List Byte) (ds : List Detection), (s.link m).isUp = true →
      let r := hReq m h
      let off := hAddr h - controlBase
      let n := 16 * hUnits h
      let here := inControl (hAddr h) = true
      let win := here ∧ 0x40000 ≤ off ∧ off < 0x50000 ∧ s.windowOpen = true
      let on (k : Nat) : Prop := k < n ∧ hEnabled h k = true
      let bell := here ∧ ∃ k, on k ∧ ((0x10000 ≤ off + k ∧ off + k < 0x18000)
        ∨ (0x20000 ≤ off + k ∧ off + k < 0x28000 ∧ 0x1800 ≤ (off + k) % 0x2000 ∧ (off + k) % 0x2000 < 0x1808))
      let push := win ∧ ∃ k, on k
      let bs := ((List.range n).filter (hEnabled h)).map fun k => (off - 0x40000 + k, data.getD k 0)
      (hBad h 1 = false → (win → exec (.rd m h ds) s = .next (s.respond r rOk ((List.range n).map fun i => s.windowByte (off - 0x40000 + i))))
          ∧ (¬ win → exec (.rd m h ds) s = .next (s.respond r rNotReady (List.replicate n 0))))
        ∧ (hBad h 2 = false →
          (push → let u := bootWrite r.ini bs s
            exec (.wr m h data ds) s = .next (if u.2.edge.stopped then u.2 else u.2.respond r u.1 []))
            ∧ (¬ push → ¬ bell → exec (.wr m h data ds) s = .next (s.respond r rNotReady []))
            ∧ (¬ push → bell → exec (.wr m h data ds) s = .next (s.earlyBell.respond r rNotReady []))))
      ∧ ∀ (r : Req) (value : DWord), (s.link r.module1).isUp = true → r.ini.toNat < 64 →
        (∀ q, exec (.doorbellWrite r q value) s = .next (s.earlyBell.respond r rNotReady []))
          ∧ ∀ slot, exec (.raceDoorbell r slot value) s = .next (s.earlyBell.respond r rNotReady [])

/-- An uncorrectable error of a vault array marks the unit, and no other, and keeps every mark, but that the event of a bunding writes the
tally's spill ring. Where the unit was not marked, the vault's field of GLB_ERR_VPOISON goes up by
one, to at most 255, and where it was marked the field stands. When the count reaches 16 the vault is bunded; no other count bunds it.
The fields of the other vaults stand. (R438 (18_containment.md): "A vault array error marks the unit and increments that vault's field
of GLB_ERR_VPOISON. Units that are already marked do not increment it. When the count reaches 16, the vault is bunded.") -/
def Obligations.VaultErrorsMarkCountAndBund : Prop :=
  ∀ (s : State) (pan : Option Nat) (met : Met) (u : Addr) (v : Nat), vaultOf u.toNat = some v →
    let t := s.detect pan met (.vaultArray u)
    let unit := u.toNat / 16 * 16
    let n := (s.errs.vpoison.look 0 v).toNat
    (∀ y, y ∈ t.poison → y ∈ s.poison ∨ y = unit)
      ∧ (∀ y, ¬ InSpill s y ∨ n + 1 ≠ 16 → y ∈ s.poison ∨ y = unit → y ∈ t.poison)
      ∧ (unit ∈ s.poison → t.errs.vpoison = s.errs.vpoison ∧ t.errs.vaults = s.errs.vaults)
      ∧ (unit ∉ s.poison → (t.errs.vpoison.look 0 v).toNat = min (n + 1) 255
        ∧ t.errs.vaults.getLsbD v = (s.errs.vaults.getLsbD v || n + 1 == 16))
      ∧ ∀ i, i ≠ v → t.errs.vpoison.look 0 i = s.errs.vpoison.look 0 i ∧ t.errs.vaults.getLsbD i = s.errs.vaults.getLsbD i

/-- VDD_AON coming up resets the TAP and the I3C target; its loss loses the always-on records as well. A fall of PORST_N ends everything in
flight and keeps programmed fuses, the error records, the tamper count, the TAP instruction and the I3C target; what else it keeps is
the model's choice [log 32]. Its rise starts both modules' training and the strap window, unless boundary scan holds the pins. A group
of three equal samples, or the 17th group, latches the straps, as it does ADDR_SEL for I3C. Training ends up at 32 or 16 GT/s or down;
both down pull FAULT_N; a drop retrains. (R7, R10, R12, R13, R25 (01_block_edges.md); R18 (01_block_edges.md); R421, R424
(17_first_second.md); R432, R446 (18_containment.md)) -/
def Obligations.SuppliesStrapsAndLinksComeAndGo : Prop :=
  ∀ s : State,
    (s.edge.aonUp = false → ∃ t : State, exec .vddAonRise s = .next t ∧ t.edge = { s.edge with aonUp := true } ∧ t.i3c = {}
        ∧ t.dbg.tap = .idcode ∧ t.mem = s.mem ∧ t.otp = s.otp)
      ∧ (s.edge.aonUp = true → ∃ t : State, exec .vddAonLoss s = .next t ∧ t.edge.aonUp = false ∧ t.edge.porst = false
        ∧ t.edge.ready = false ∧ t.edge.stopped = false ∧ t.cmds = [] ∧ t.pans = [] ∧ t.errs = {} ∧ t.saltern = {} ∧ t.i3c = {}
        ∧ ∀ w b, (s.otp.fuses.look 0 w).getLsbD b = true → (t.otp.fuses.look 0 w).getLsbD b = true)
      ∧ (∀ left, s.edge.porst = true → ∃ t : State, exec (.porstNFall left) s = .next t ∧ t.edge.porst = false
        ∧ t.edge.ready = false ∧ t.edge.faultLow = false ∧ t.edge.stopped = false ∧ t.edge.strapsLatched = false ∧ t.cmds = []
        ∧ t.pans = [] ∧ t.saltern = { tamperCount := s.saltern.tamperCount } ∧ t.errs.recs = s.errs.recs ∧ t.errs.records = s.errs.records
        ∧ t.dbg.tap = s.dbg.tap ∧ t.i3c = s.i3c
        ∧ ∀ w b, (s.otp.fuses.look 0 w).getLsbD b = true → (t.otp.fuses.look 0 w).getLsbD b = true)
      ∧ (∀ env, s.edge.aonUp = true → s.edge.porst = false → ∃ t : State, exec (.porstNRise env) s = .next t
        ∧ t.edge = { s.edge with porst := true, refclkOk := true, panSupplyGood := true, ucie0 := .training, ucie1 := .training
                                 strapWindow := !s.dbg.tap.controls }
        ∧ t.boot.stage = .straps ∧ (env.flashImage = none → t.flash = s.flash) ∧ t.mem = s.mem)
      ∧ (s.boot.stage = .straps → s.edge.strapWindow = false → s.edge.stopped = false →
        exec .strapWindowStart s = .next (if s.dbg.tap.controls then s else { s with edge := { s.edge with strapWindow := true } }))
      ∧ (∀ a b c : StrapPins, s.boot.stage = .straps → s.edge.strapWindow = true → s.edge.strapsLatched = false → s.edge.stopped = false →
        exec (.strapSample a b c) s = .next (if (a = b ∧ b = c) ∨ s.edge.strapGroups = 16 then
            ({ s with
              edge := { s.edge with strapsLatched := true, strapGroups := s.edge.strapGroups + 1, bootsel := c.bootsel
                                    addrSel := c.addrSel, golden := !c.goldenN, unstable := !(a == b && b == c) }
              boot := { s.boot with stage := .rom } } : State).boots
          else { s with edge := { s.edge with strapGroups := s.edge.strapGroups + 1 } }))
      ∧ (∀ a b c : BitVec 3, s.edge.aonUp = true → s.i3c.sampled = false → ∃ t : State, exec (.i3cAddrSample a b c) s = .next t
        ∧ { t with i3c := s.i3c } = s ∧ t.i3c.groups = s.i3c.groups + 1
        ∧ (t.i3c.sampled = true ↔ (a = b ∧ b = c) ∨ s.i3c.groups = 16) ∧ (t.i3c.sampled = true → t.i3c.addrSel = c))
      ∧ (∀ m, s.edge.stopped = false → (s.link m).isUp = true →
        ∃ t : State, exec (.ucieModuleDrop m) s = .next t ∧ t.link m = .retraining ∧ t.link (!m) = s.link (!m) ∧ t.mem = s.mem ∧ t.cmds = s.cmds)
      ∧ ∀ m res, s.edge.stopped = false → s.link m = .training ∨ s.link m = .retraining →
        ∃ t : State, exec (.ucieTrainingDone m res) s = .next t ∧ t.link (!m) = s.link (!m)
          ∧ t.link m = (match res with | .at32 => .up32 | .at16 => .up16 | .failed => .down)
          ∧ (res = .failed → s.link (!m) = .down → t.edge.faultLow = true) ∧ (res ≠ .failed → t.errs = s.errs)

/-- While the device runs, a rail fault, the loss of REFCLK or a thermal shutdown drives READY and FAULT_N low and stops the device, with
the cause of Table 18.3 and a record, and nothing else changes, but that REFCLK_OK falls and the I3C target leaves REFCLK with the loss of
REFCLK, and that a thermal shutdown sets THERM_SHUTDOWN, gates every domain but the always-on one and loses all memory but the DRAM. On a
stopped device the loss of REFCLK and the shutdown show in REFCLK_OK and THERM_SHUTDOWN, and no record is made. A VDD_PAN fault bunds the
eight pans of its group, each of which leaves what it ran; no pan of another group is bunded by it and the device is not stopped. (R18,
R20, R30 (01_block_edges.md); R434, R439, R440, R445 (18_containment.md)) -/
def Obligations.SupplyAndClockFaultsStopTheDeviceOrOneGroup : Prop :=
  ∀ s : State, s.edge.porst = true →
    let down : Edge := { s.edge with ready := false, faultLow := true, stopped := true }
    let stops (cause : BitVec 4) (t : State) : Prop := t.errs.fatal = true ∧ t.errs.fatalCause = cause
      ∧ (s.errs.fatalNow = false → t.errs.records = s.errs.records + 1)
    let offRef : I3c := { s.i3c with onRefclk := false }
    (s.edge.stopped = true →
      exec .refclkLoss s = .next { s with edge := { s.edge with refclkOk := false }, i3c := offRef }
        ∧ ∃ t : State, exec .thermShutdown s = .next t ∧ t.edge = { s.edge with thermShutdown := true, dark := true } ∧ t.errs = s.errs)
      ∧ (s.edge.stopped = false →
        (∀ r, ∃ t : State, exec (.railFault r) s = .next t ∧ { t with errs := s.errs } = { s with edge := down } ∧ stops 1 t)
          ∧ (∃ t : State, exec .refclkLoss s = .next t ∧ stops 2 t
            ∧ { t with errs := s.errs } = { s with edge := { down with refclkOk := false }, i3c := offRef })
          ∧ (∃ t : State, exec .thermShutdown s = .next t ∧ stops 3 t
            ∧ { t with errs := s.errs, mem := s.mem, poison := s.poison } = { s with edge := { down with thermShutdown := true, dark := true } }
            ∧ ∀ a, t.byte a = if a < 0x3000000000 then s.byte a else 0)
          ∧ ∀ g : BitVec 3, ∃ t : State, exec (.panSupplyFault g) s = .next t ∧ t.edge = { s.edge with panSupplyGood := false }
            ∧ (∀ p, p / 8 = g.toNat → (t.pan p).bunded = true ∧ ((s.pan p).bunded = false → (t.pan p).run = none))
            ∧ ∀ p, p / 8 ≠ g.toNat → (t.pan p).bunded = (s.pan p).bunded)

/-- While the device runs, in every power state (for a trip in SLACK the model's choice, log 66), a fall of REG_ALERT_N after the ignore
period, the end of that period with the pin low, or a thermal trip engages the spillway: every group stands at OP0 with no increase under
way. Before the end of the period the pin only shows; its end with the pin high engages nothing. The release ends the spillway and leaves
each group where it stands until its climb, which begins an increase to its target. (R22, R30 (01_block_edges.md); R287, R288, R289
(11_power_clocks.md)) -/
def Obligations.SpillwayEngagesReleasesAndClimbs : Prop :=
  ∀ s : State, s.edge.porst = true → s.edge.stopped = false →
    let engaged (t : State) : Prop := t.power.spillway = true ∧ t.mem = s.mem
      ∧ (s.power.spillway = false → ∀ g, g < 8 → (t.group g).op = 0 ∧ (t.group g).rising = none ∧ (t.group g).spill = true)
    (s.edge.ignoreOver = true → ∃ t : State, exec .regAlertAssert s = .next t ∧ engaged t
        ∧ t.edge = { s.edge with regAlertLow := true, regAlertSeen := true })
      ∧ (s.edge.ignoreOver = false → exec .regAlertAssert s = .next { s with edge := { s.edge with regAlertLow := true } })
      ∧ (s.edge.ignoreOver = false →
        (∃ t : State, exec (.ignorePeriodEnd true) s = .next t ∧ engaged t ∧ t.edge.ignoreOver = true ∧ t.edge.regAlertSeen = true)
          ∧ exec (.ignorePeriodEnd false) s = .next
            { s with edge := { s.edge with ignoreOver := true, panSupplyGood := true, regAlertLow := false } })
      ∧ (∃ t : State, exec .thermTrip s = .next t ∧ engaged t ∧ t.edge = { s.edge with thermTrip := true, thermHot := true })
      ∧ (s.power.spillway = true → ∃ t : State, exec .spillwayRelease s = .next t ∧ t.power = { s.power with spillway := false }
        ∧ t.edge = { s.edge with regAlertLow := false, thermHot := false }
        ∧ ∀ g, g < 8 → t.group g = { s.group g with spill := false, climbDue := s.groupsOn })
      ∧ ∀ g : BitVec 3, s.power.spillway = false → (s.group g.toNat).climbDue = true → s.groupsOn = true →
        let v := s.group g.toNat
        ∃ t : State, exec (.spillwayClimb g) s = .next t ∧ (∀ j, j ≠ g.toNat → t.group j = s.group j)
          ∧ (t.group g.toNat).climbDue = false ∧ (v.op.toNat < s.target g.toNat true → t.group g.toNat = { v with
            climbDue := false, rising := some (BitVec.ofNat 4 (s.target g.toNat true))
            riseWait := if v.rising = some (BitVec.ofNat 4 (s.target g.toNat true)) then v.riseWait else false })

/-- A SLACK_WAKE level that has lasted wakes the device from DOZE or SLACK and changes nothing in RUN and IDLE. While DOZE or SLACK is being
entered it is held, as any access to memory is during an entry to DOZE: the entry goes on, and when it is complete the wake acts at
once. No wake restarts the ignore period (a wake whose copies fail starts the device again and is no wake any more, R397). (R23
(01_block_edges.md); R280 (11_power_clocks.md): "A wake event that arrives during ENTERING or during the steps of R279 is held. It acts
once entry is complete. The ignore period of R22 does not restart at a wake.") -/
def Obligations.WakeEventsActOrAreHeld : Prop :=
  ∀ s : State, s.edge.porst = true → s.edge.stopped = false →
    let p := s.power
    ((p.sleep = .doze ∨ p.sleep = .slack) → ∃ t : State, exec .slackWake s = .next t ∧ t.power = { p with sleep := .waking })
      ∧ (p.sleep = .awake → exec .slackWake s = .next s)
      ∧ ((p.sleep = .enteringDoze ∨ p.sleep = .enteringSlack) → exec .slackWake s = .next { s with power := { p with wakeHeld := true } })
      ∧ (p.sleep = .enteringDoze → s.wakeEvent = { s with power := { p with wakeHeld := true } })
      ∧ (p.sleep = .enteringDoze → s.drainOver = true → ∃ t : State, exec .dozeEntry s = .next t
        ∧ t.power = { p with sleep := if p.wakeHeld then .waking else .doze, wakeHeld := false })
      ∧ (p.sleep = .enteringSlack → s.drainOver = true → ∃ t : State, exec .slackEntry s = .next t
        ∧ t.power.sleep = (if p.wakeHeld then .waking else .slack) ∧ t.power.wakeHeld = false)
      ∧ (∀ t : State, exec .dozeWake s = .next t → t.edge.ignoreOver = s.edge.ignoreOver)
      ∧ ∀ (entropy : List Byte) (env : BootEnv) (t : State), s.copyHolds reserveBase s.boot.pfw = true →
        s.copyHolds (reserveBase + 0x900000) s.boot.sfw = true → exec (.fastWake entropy env) s = .next t → t.edge.ignoreOver = s.edge.ignoreOver

/-- After READY first rose, a tamper event of a working sensor leaves no key in any slot and no entropy, no programming request, the
TAMPERED latch set, the count one higher up to its limit, and its source noted. Where no other digest descriptor or PKE program waited,
which would go on, no digest context, no program and nothing in the PKE engine's memories is left, every open message is noted as aborted,
and commands, pans, memory, partitions and READY stay. A sensor whose domain is off does nothing. (R21 (01_block_edges.md); R318, R319,
R320 (12_saltern.md); R364 (14_crypto_engines.md); R338 (13_otp.md)) -/
def Obligations.TamperEventsWipeKeysAndLetComputeRun : Prop :=
  ∀ (s : State) (src : TamperSource) (left : FuseOutcome),
    (s.sensorOn src = false → exec (.tamperEvent src left) s = .next s)
      ∧ (s.sensorOn src = true → s.boot.stage = .done → ∃ t : State, exec (.tamperEvent src left) s = .next t
        ∧ (s.eng.waiting = [] → s.eng.pke.length ≤ 1 → { t with saltern := s.saltern, eng := s.eng, otp := s.otp, chans := s.chans } = s
          ∧ t.eng.ctxs = [] ∧ t.eng.operands = [] ∧ t.eng.hidden = [] ∧ t.eng.poly = [] ∧ t.eng.pke = []
          ∧ ∀ c ∈ s.eng.ctxs, c.2.busy = true → (c.2.op.toNat, c.2.slot) ∈ t.eng.aborted)
        ∧ (∀ n, t.key n = {}) ∧ t.eng.entropy = [] ∧ t.eng.drbg ≠ .ready
        ∧ t.otp.job = none ∧ t.otp.waiting = [] ∧ t.saltern.tampered = true
        ∧ t.saltern.tamperCount.toNat = min (s.saltern.tamperCount.toNat + 1) 0xFFFF
        ∧ t.saltern.inSlack = decide (s.power.sleep = .slack)
        ∧ (t.saltern.pinSeen = true ↔ s.saltern.pinSeen = true ∨ src = .pin)
        ∧ (t.saltern.clockGlitch = true ↔ s.saltern.clockGlitch = true ∨ src = .clockGlitch)
        ∧ (t.saltern.voltGlitch = true ↔ s.saltern.voltGlitch = true ∨ src = .aonGlitch ∨ src = .coreGlitch))

/-- A STAGE whose payload can be read checks its entries in order: the first with a reserved KIND or FIELD gives BAD_HANDLE, with a register
that is not RWS or a queue or register it has no right to DENIED, and then no shadow changes. Otherwise each register and each context
field holds, cut to its bits, the value of the last entry that names it, nothing else changes, and the command ends with OK, or TRUNC
where the payload was longer. A short payload gives SHORT, a marked one POISON, and the digest counters count a short, a failed and a long
payload. A served DISCARD by one who may reloads exactly the
shadows of its scope from the committed values; by another it is DENIED. (R5 (01_block_edges.md); R207, R216, R217, R220
(08_decot_queues_tally.md); R243, R247, R248 (09_partitions.md); R436 (18_containment.md)) -/
def Obligations.StageAndDiscardWriteShadowsOnly : Prop :=
  (∀ (s : State) (c : Cmd), Starts s c 12 →
      let b := s.beginCmd c
      let a := c.addr 16
      let n := c.f 24 8
      let k := min 256 (b.readN a 4)
      let w := b.clampCmd c.seq (if b.readN a 4 = k then 0 else cLength)
      let e (i : Nat) : List Byte := b.read (a + 16 + 16 * i) 16
      let op := s.isOperator c.ini = true
      let named (i : Nat) (r : Rws) : Prop := leAt (e i) 0 1 = 0 ∧ leAt (e i) 4 4 % 4 = 0 ∧ rwsAt (leAt (e i) 4 4) = some (r, 0)
      let field (i q f : Nat) : Prop := leAt (e i) 0 1 = 1 ∧ leAt (e i) 2 2 = q ∧ leAt (e i) 1 1 = f ∧ f ≤ 4
      let allowed (i : Nat) : Prop := (∃ r, named i r ∧ (op ∨ s.rwsPart r = some c.part))
        ∨ ∃ q f, field i q f ∧ q < 4096 ∧ (op ∨ s.queueOwner q = some c.part)
      let status (i : Nat) : Byte := if leAt (e i) 0 1 = 0 ∨ (leAt (e i) 0 1 = 1 ∧ leAt (e i) 1 1 ≤ 4) then stDenied else stBadHandle
      let runs (t : State) : Prop := exec (.stage c.seq) s = .next t
      b.noRead c.part a n = false → s.fencedAt a n = false →
        (n < 16 → runs (b.countShort.ends c.seq stShort))
          ∧ (16 ≤ n → b.marked a 16 = true → runs (b.countShort.ends c.seq stPoison))
          ∧ (16 ≤ n → b.marked a 16 = false →
            (n < 16 + 16 * k → runs (w.countShort.ends c.seq stShort))
              ∧ (16 + 16 * k ≤ n → b.marked a (16 + 16 * k) = true → runs (w.countShort.ends c.seq stPoison))
              ∧ (16 + 16 * k ≤ n → b.marked a (16 + 16 * k) = false →
                (∀ i, i < k → (∀ j, j < i → allowed j) → ¬ allowed i → runs (w.ends c.seq (status i)))
                  ∧ ((∀ i, i < k → allowed i) → ∃ u : State, runs (u.ends c.seq (if 16 + 16 * k < n then stTrunc else stOk))
                    ∧ { u with shadow := s.shadow } = (if 16 + 16 * k < n then w.countTrunc else w)
                    ∧ (∀ i r, i < k → named i r → (∀ j, i < j → j < k → ¬ named j r) → u.shadow.get r = leAt (e i) 8 8 &&& r.mask)
                    ∧ (∀ i q f, i < k → field i q f → (∀ j, i < j → j < k → ¬ field j q f) →
                      (u.shadow.ctx q).stage f (leAt (e i) 8 8) = u.shadow.ctx q)
                    ∧ (∀ r, (∀ i, i < k → ¬ named i r) → u.shadow.get r = s.shadow.get r)
                    ∧ ∀ q, (∀ i f, i < k → ¬ field i q f) → u.shadow.ctx q = s.shadow.ctx q))))
    ∧ ∀ (s : State) (r : Req), Served s r →
      (s.isOperator r.ini = true → exec (.glbCommitDiscard r) s = .next (({ s with shadow := s.cfg } : State).respond r rOk []))
        ∧ (s.isOperator r.ini = false → exec (.glbCommitDiscard r) s = .next (s.respond r rDenied []))
        ∧ ∀ p : BitVec 4, (s.mayRead r.ini p.toNat = false → exec (.prtCommitDiscard r p) s = .next (s.respond r rDenied []))
          ∧ (s.mayRead r.ini p.toNat = true → ∃ u : State, exec (.prtCommitDiscard r p) s = .next u
            ∧ { u with shadow := s.shadow } = s.respond r rOk []
            ∧ (∀ y : Rws, s.rwsPart y = some p.toNat → (∀ i, y = .raceCfg i → i < 4) → u.shadow.get y &&& y.mask = s.cfg.get y &&& y.mask)
            ∧ (∀ y : Rws, s.rwsPart y ≠ some p.toNat → u.shadow.get y = s.shadow.get y)
            ∧ ∀ q, u.shadow.ctx q = if (s.cfg.part p.toNat).qbase ≤ q ∧ q < (s.cfg.part p.toNat).qbase + (s.cfg.part p.toNat).qcount
                then s.cfg.ctx q else s.shadow.ctx q)

/-- At its boundary a partition-scope commit, by COMMIT or by PRT_COMMIT.GO, gives each context of its queues the clamped staged fields
where its rings fit, and else the old ones, gives the pool its clamped fields and the free-list ring its pages where no sequence is bound,
takes the power fields, counts an epoch where something changed, and touches no other partition and no byte but of the ring and the
tally's spill ring. GO only waits, and until then no later command of the partition starts. A device-scope commit of an operator puts the
clamped global fields in force, gives partitions out of service their definitions with clamped pools, and begins the teardown of each that
loses something: its commands end. A partition that gains takes its new definition at its own boundary. Shadows keep their values. (R207,
R209, R221 (08_decot_queues_tally.md); R247, R248, R249, R250, R251 (09_partitions.md); R152 (06_attention_kv.md); R276
(11_power_clocks.md); R235 (08_decot_queues_tally.md)) -/
def Obligations.CommitsTakeEffectAtTheirBoundary : Prop :=
  let stands (s u : State) (p : Nat) : Prop :=
    ∀ a, ¬ InSpill s a → ¬ (freeRing p ≤ a ∧ a < freeRing p + 0x20000) → u.byte a = s.byte a
  let here (s u : State) (p : Nat) : Prop :=
    let c := s.cfg.part p
    let d := s.shadow.part p
    let bound := ∃ q ∈ s.seqs, q.2.bound = true ∧ q.2.part = p
    let pool := s.clampPool p d.kvCfg d.kvExt
    let pages := fld pool.1.toNat 8 17
    (∀ q, c.qbase ≤ q → q < c.qbase + c.qcount → u.cfg.ctx q =
        if s.shadow.ctx q = s.cfg.ctx q ∨ s.ringsFit p (s.shadow.ctx q).clamped = false then s.cfg.ctx q else (s.shadow.ctx q).clamped)
      ∧ ((d.kvCfg = c.kvCfg ∧ d.kvExt = c.kvExt) ∨ bound → (u.cfg.part p).kvCfg = c.kvCfg ∧ (u.cfg.part p).kvExt = c.kvExt
        ∧ (u.part p).freeList = (s.part p).freeList)
      ∧ (¬ (d.kvCfg = c.kvCfg ∧ d.kvExt = c.kvExt) → ¬ bound → (u.cfg.part p).kvCfg = pool.1 ∧ (u.cfg.part p).kvExt = pool.2
        ∧ (u.part p).freeList = List.range pages ∧ (u.part p).freeTail = pages % 65536
        ∧ (p < 16 → ∀ i, i < pages → u.readN (freeRing p + 2 * i) 2 = i))
      ∧ u.cfg.get (.pwr p) = s.shadow.get (.pwr p) &&& (Rws.pwr p).mask
      ∧ ((u.part p).epoch = (s.part p).epoch ∨ (u.part p).epoch = (s.part p).epoch + 1)
      ∧ ((∃ q, c.qbase ≤ q ∧ q < c.qbase + c.qcount ∧ u.cfg.ctx q ≠ s.cfg.ctx q) → (u.part p).epoch = (s.part p).epoch + 1)
      ∧ u.shadow = s.shadow ∧ stands s u p ∧ ∀ i, i ≠ p → u.cfg.part i = s.cfg.part i ∧ (u.part i).epoch = (s.part i).epoch
  let device (s u : State) (ini : Ini) : Prop :=
    let k := (s.clampAll s.shadow (some ini)).cfg
    u.cfg.binds = k.binds ∧ u.cfg.raceAllow = k.raceAllow ∧ u.cfg.racePan = k.racePan ∧ u.cfg.pwrCfg = k.pwrCfg ∧ u.cfg.opCeil = k.opCeil
      ∧ u.shadow = s.shadow
      ∧ ∀ p, p < 16 → (s.cfg.on p = false → k.on p = false → ∃ v : State, v.cfg.part p = k.part p ∧ u.cfg.part p = { k.part p with
            kvCfg := (v.clampPool p (k.part p).kvCfg (k.part p).kvExt).1, kvExt := (v.clampPool p (k.part p).kvCfg (k.part p).kvExt).2 })
        ∧ (s.cfg.on p = true ∨ k.on p = true → u.cfg.part p = s.cfg.part p)
        ∧ (s.inService p = true → k.on p = false ∨ lost (s.cfg.part p) (k.part p) = true →
          (u.part p).teardown = true ∧ ∀ d ∈ u.cmds, d.part ≠ p)
  let free (s : State) : Prop := s.saltern.halted = false ∧ ∀ m ∈ s.commits, m.device = false
  (∀ (s : State) (c : Cmd), Starts s c 13 → (c.f 8 1 = 0 → ∃ u : State, here s u c.part
        ∧ ∃ l, exec (.commitPartition c.seq) s = .next (({ u with commits := l } : State).finishCommits.settled))
      ∧ (c.f 8 1 = 1 → s.isOperator c.ini = false → exec (.commitDevice c.seq) s = .next ((s.beginCmd c).ends c.seq stDenied))
      ∧ (c.f 8 1 = 1 → s.isOperator c.ini = true → free s → ∃ u : State, device s u c.ini
        ∧ exec (.commitDevice c.seq) s = .next (u.finishCommits.settled)))
    ∧ (∀ (s : State) (r : Req), Served s r →
      (s.isOperator r.ini = false → exec (.glbCommitGo r) s = .next (s.respond r rDenied []))
        ∧ (s.isOperator r.ini = true → free s → ∃ u : State, device s u r.ini
          ∧ exec (.glbCommitGo r) s = .next (u.finishCommits.respond r rOk []))
        ∧ ∀ p : BitVec 4, (s.mayRead r.ini p.toNat = false → exec (.prtCommitGo r p) s = .next (s.respond r rDenied []))
          ∧ (s.mayRead r.ini p.toNat = true → free s → ∃ u : State, exec (.prtCommitGo r p) s = .next (u.respond r rOk [])
            ∧ u.cfg = s.cfg ∧ u.shadow = s.shadow
            ∧ (s.power.sleep = .enteringDoze ∨ s.power.sleep = .enteringSlack → u.power.sleep = .awake)
            ∧ ∀ d : Cmd, d.part = p.toNat → s.tally.head.toNat ≤ d.seq.toNat → d.exempt = false → u.canStart d = false))
    ∧ ∀ (s : State) (p : BitVec 4) (m : Commit), s.edge.stopped = false → s.saltern.halted = false →
      (s.commits.find? fun k => k.waiting.contains p.toNat) = some m →
      (m.device = false → s.drained m p.toNat = false → exec (.epochBoundary p) s = .next s)
        ∧ (m.device = false → s.drained m p.toNat = true → ∃ u : State, here s u p.toNat
          ∧ ∃ l, exec (.epochBoundary p) s = .next (({ u with commits := l } : State).finishCommits.nextDevice))
        ∧ (m.device = true → s.stillHeld m p.toNat = false → (s.part p.toNat).teardown = false → s.drained m p.toNat = true →
          ∃ u : State, exec (.epochBoundary p) s = .next (u.finishCommits.nextDevice) ∧ stands s u p.toNat
            ∧ { u.cfg.part p.toNat with kvCfg := 0, kvExt := [], pwr := 0 } = { m.target.part p.toNat with kvCfg := 0, kvExt := [], pwr := 0 }
            ∧ ∀ i, i ≠ p.toNat → u.cfg.part i = s.cfg.part i)

/-- Until the clear of the named partition is at the head of the list of partition clears, or while that clear waits for the DRBG or a time
lock, nothing changes. Otherwise the clear completes. Vault 7 failing twice stops the device with FATAL. Else the clear has left the
list, the partition keeps its epoch, its teardown and the record of its clear alone, with POISON where a vault, port or pan failed twice
and else OK, its page pool is gone, its measurement register is zero, its slots hold nothing; and where nothing failed, every byte of
its ranges outside bunded vaults and of its pans that are not bunded is zero and no other byte changed, the event log and the tally's
spill ring apart, and these pans hold no program. The commit that tore it down then goes on: where another partition still holds what it
gains, it waits, and else it enters with its new definition and no pool, out of teardown, its epoch counted, and no other partition
changes. (R137, R139 (05_memory_vaults.md); R251, R252 (09_partitions.md); R235 (08_decot_queues_tally.md); R256 (09_partitions.md); R442
(18_containment.md); R364 (14_crypto_engines.md); R403 (16_attestation.md)) -/
def Obligations.PartitionClearsEndATeardown : Prop :=
  (∀ (s : State) (p : BitVec 4) (v : ClearVerdict), s.edge.stopped = false → s.saltern.halted = false →
    ((∀ j, s.memSys.clears.find? (fun j => j.whole) = some j → j.part ≠ p.toNat) → exec (.partitionClearDone p v) s = .next s)
      ∧ ∀ j : ClearJob, s.memSys.clears.find? (fun j => j.whole) = some j → j.part = p.toNat →
        let pans := maskList j.pans.toNat 64
        let open' := pans.filter fun i => !(s.pan i).bunded
        let ranges := j.ranges.flatMap fun r => s.unfenced r.1 r.2
        let bad := (touchedVaults ranges).any (fun i => v.retryVaults.getLsbD i && v.failVaults.getLsbD i)
          || (touchedPorts ranges).any (fun i => v.retryPorts.getLsbD i && v.failPorts.getLsbD i)
          || open'.any (fun i => v.retryPans.getLsbD i && v.failPans.getLsbD i)
        let dead := (touchedVaults ranges).contains 7 && v.retryVaults.getLsbD 7 && v.failVaults.getLsbD 7 && !s.errs.vaults.getLsbD 7
        let clean (a : Nat) : Prop := (∃ r ∈ j.ranges, r.1 ≤ a ∧ a < r.1 + r.2 ∧ s.fencedAt a 1 = false)
          ∨ ∃ i ∈ open', OwnMemory i a ∨ (imemBase i ≤ a ∧ a < imemBase i + 0x20000)
        let noted (a : Nat) : Prop := InSpill s a ∨ (logBase ≤ a ∧ a < logBase + 0x400000)
        (s.clearWaits ranges pans = true → exec (.partitionClearDone p v) s = .next s)
          ∧ (s.clearWaits ranges pans = false → dead = true →
            ∃ t : State, exec (.partitionClearDone p v) s = .next t ∧ t.edge.stopped = true ∧ t.errs.fatalCause = 5)
          ∧ (s.clearWaits ranges pans = false → dead = false → ∃ (u : State) (seq : DWord),
            exec (.partitionClearDone p v) s = .next (match u.commits.find? fun m => m.tearing.contains p.toNat with
                | none => u
                | some m => if u.stillHeld m p.toNat then { u with commits := u.commits.map fun k => if k = m then { m with
                    tearing := m.tearing.filter fun i => i != p.toNat, waiting := m.waiting ++ [p.toNat] } else k }
                  else (u.enterPart m p.toNat).finishCommits.nextDevice)
              ∧ u.commits = s.commits ∧ u.memSys.clears = s.memSys.clears.filter (fun k => k != j)
              ∧ u.part p.toNat = { epoch := (s.part p.toNat).epoch, teardown := true, lastCleared := some (seq, if bad then stPoison else stOk) }
              ∧ u.cfg.part p.toNat = { s.cfg.part p.toNat with kvCfg := 0, kvExt := [] } ∧ u.mr (8 + p.toNat) = zeros48
              ∧ (∀ i, i ≠ p.toNat → u.cfg.part i = s.cfg.part i ∧ (u.part i).epoch = (s.part i).epoch)
              ∧ (∀ i ∈ j.slots, (u.slot i).disarm = false ∧ (u.slot i).inBuf = [] ∧ (u.slot i).outFront = [] ∧ (u.slot i).outBack = [])
              ∧ (∀ i ∈ pans, (u.pan i).arith = 0)
              ∧ (bad = false → (∀ a, clean a → ¬ noted a → u.byte a = 0) ∧ (∀ a, ¬ clean a → ¬ noted a → u.byte a = s.byte a)
                ∧ (∀ i ∈ open', (u.pan i).held = none)
                ∧ ((∀ k ∈ s.memSys.clears, k.whole = true → k = j) → ∀ i ∈ open', (u.pan i).st ≠ .clearing))))
    ∧ ∀ (s : State) (m : Commit) (p : BitVec 4),
      let u := s.enterPart m p.toNat
      (u.part p.toNat).teardown = false ∧ (u.part p.toNat).epoch = (s.part p.toNat).epoch + 1
        ∧ u.cfg.part p.toNat = { m.target.part p.toNat with kvCfg := 0, kvExt := [] }
        ∧ (m ∈ s.commits → ∃ k ∈ u.commits, k.seq = m.seq ∧ k.target = m.target ∧ p.toNat ∉ k.tearing ∧ p.toNat ∉ k.waiting)
        ∧ (∀ i, i ≠ p.toNat → u.cfg.part i = s.cfg.part i ∧ (u.part i).epoch = (s.part i).epoch)
        ∧ ∀ a, ¬ InSpill s a → u.byte a = s.byte a

/-- Writes of RACE_DOORBELL and IN that the port takes end the time locks on their way, and wait for none: from an initiator outside
RACE_ALLOW they are DENIED and counted; while the slot is BUSY they are discarded and counted, the IN write with DENIED; a doorbell to an
armed, owned slot makes it BUSY with its tag noted and the back buffer empty, and its pan begins the program; to any other slot it is
counted. An IN write outside BUSY puts its bytes below 0x1000 into IN. When END has completed, the request's completion swaps OUT, counts,
shows the tag, result OK and the times, with LATE and its causes above 1,000 fabric cycles, and the slot is ARMED again, or leaves
service. (R177, R178, R179, R181, R183, R184 (07_race_lane.md); R193, R194, R195 (07_race_lane.md)) -/
def Obligations.RaceRequestsRunOnArmedSlots : Prop :=
  (∀ (s : State) (r : Req) (slot : BitVec 2) (value : DWord) (off : BitVec 12) (data : List Byte), Taken s r →
      let i := slot.toNat
      let v := s.slot i
      let w0 := s.racePath (modRow r.module1) 0
      let bell := exec (.raceDoorbell r slot value) s
      let input := exec (.raceInWrite r slot off data) s
      let counts (st : BitVec 4) (w : Slot) : Host.Outcome State Fault Refusal := .next ((w0.setSlot i w).respond r st [])
      (s.raceAllowed i r.ini = false → bell = counts rDenied { v with dropDenied := satAdd v.dropDenied 1 }
          ∧ input = counts rDenied { v with dropDenied := satAdd v.dropDenied 1 })
        ∧ (s.raceAllowed i r.ini = true →
          (v.st = .busy → bell = counts rOk { v with dropBusy := satAdd v.dropBusy 1 }
              ∧ input = counts rDenied { v with dropInput := satAdd v.dropInput 1 })
            ∧ (v.st ≠ .busy → ∃ b, input = counts rOk { v with inBuf := b }
              ∧ (∀ k, k < data.length → off.toNat + k < 0x1000 → Tab.look b 0 (off.toNat + k) = data.getD k 0)
              ∧ ∀ x, ¬ (off.toNat ≤ x ∧ x < off.toNat + data.length) → Tab.look b 0 x = Tab.look v.inBuf 0 x)
            ∧ (v.st ≠ .busy → ¬ (v.st = .armed ∧ (s.slotOwner i).isSome = true) →
              bell = counts rOk { v with dropUnarmed := satAdd v.dropUnarmed 1 })
            ∧ (∀ p, v.st = .armed → s.slotOwner i = some p → ∃ u : State, bell = .next (u.respond r rOk [])
              ∧ { u with slots := s.slots, pans := s.pans, drawn := s.drawn } = w0
              ∧ { u.slot i with met := v.met } = { v with st := .busy, newTag := BitVec.ofNat 16 value.toNat, outBack := [], ended := false }
              ∧ (∀ j, j ≠ i → u.slot j = s.slot j) ∧ (∀ q, q ≠ s.cfg.slotPan i → u.pan q = s.pan q)
              ∧ (u.pan (s.cfg.slotPan i)).run = some { seq := 0, race := true, slot := i, part := p, rank := 0, size := 1, seqBase := 0 }
              ∧ (u.pan (s.cfg.slotPan i)).st = .run ∧ (u.pan (s.cfg.slotPan i)).pc = 0)))
    ∧ ∀ (s : State) (slot : BitVec 2) (late : BitVec 2) (fabric : Word), s.edge.stopped = false →
      let v := s.slot slot.toNat
      let slow := decide (1000 < fabric.toNat)
      (v.st ≠ .busy ∨ v.ended = false → exec (.raceComplete slot late fabric) s = .next s)
        ∧ (v.st = .busy → v.ended = true → ∃ t : State, exec (.raceComplete slot late fabric) s = .next t ∧ t.mem = s.mem
          ∧ (∀ j, j ≠ slot.toNat → t.slot j = s.slot j)
          ∧ t.slot slot.toNat = { v with
            st := if v.disarm then .disarmed else .armed, outFront := v.outBack, tag := v.newTag, count := v.count + 1
            late := slow, lateEver := v.lateEver || slow, causes := if slow then v.met else 0, result := 0, ended := false
            time := BitVec.ofNat 32 (min (v.staticCount + 18 + min late.toNat 2) 0xFFFF * 0x10000 + min fabric.toNat 0xFFFF) })

/-- An arming that a check of Table 7.8 refuses shows the code, leaves the slot DISARMED (a FAILED one FAILED) with ARM 0, and gives
BAD_HANDLE for codes 1 and 2, else DENIED; one that passes shows ARMING, keeps the count S and zeroes the drop counters. When its copy
ends, the weights stand in the pan's store and the program in its instruction memory, the slot is ARMED and ARM reads 1, and no other
byte changed. The clear of a disarm waits for a request in progress and for time locks. When it ends, the pan's memories, unless it is
bunded, and IN and OUT are zero, and a pan that failed twice is bunded; a rearm then starts.
(R133 (05_memory_vaults.md); R187, R189, R190, R192 (07_race_lane.md); R196 (07_race_lane.md)) -/
def Obligations.SlotsAreArmedWithSealedCopiesAndDisarmedClean : Prop :=
  (∀ (s : State) (i : Nat), i < 4 →
      let w := s.cfg.get (.raceCfg i)
      let v := s.slot i
      let t := (s.startArm i).2
      fld (t.cfg.get (.raceCfg i)) 31 1 = 0 ∧ (∀ j, j ≠ i → t.slot j = s.slot j) ∧ t.mem = s.mem
        ∧ match s.armCheck i (s.slotClaim i) (fld w 0 8) (fld w 8 8) with
          | .error e => 1 ≤ e ∧ e ≤ 10 ∧ (s.startArm i).1 = some (if e ≤ 2 then stBadHandle else stDenied)
            ∧ t.slot i = { v with armErr := BitVec.ofNat 4 e, st := if v.st = .failed then .failed else .disarmed, rearm := false }
          | .ok n => (s.startArm i).1 = none ∧ 1 ≤ n ∧ n ≤ 700 ∧ t.slot i = { v with
            st := .arming, staticCount := n, dropInput := 0, dropBusy := 0, dropDenied := 0, dropUnarmed := 0, rearm := false })
    ∧ (∀ (s : State) (slot : BitVec 2) (p : Nat), s.edge.stopped = false → (s.slot slot.toNat).st = .arming →
      s.slotOwner slot.toNat = some p →
      let i := slot.toNat
      let w := s.cfg.get (.raceCfg i)
      let pan := s.cfg.slotPan i
      let pr := s.region false p (fld w 0 8)
      let wr := s.region true p (fld w 8 8)
      let n := 16 * (pr.prog.nDesc + pr.prog.nInstr)
      s.fencedAt wr.base wr.weightBytes = false → s.fencedAt pr.base (64 + n) = false → s.marked wr.base wr.weightBytes = false →
      s.marked (pr.base + 64) n = false → wr.weightBytes ≤ 0x180000 → n ≤ 0x20000 → wr.base + wr.weightBytes ≤ storeBase 0 →
      pr.base + 64 + n ≤ storeBase 0 →
      ∃ u : State, exec (.raceArmDone slot) s = .next (u.slotDone i none) ∧ (u.slot i).st = .armed
        ∧ fld (u.cfg.get (.raceCfg i)) 31 1 = 1 ∧ u.read (storeBase pan) wr.weightBytes = s.read wr.base wr.weightBytes
        ∧ u.read (imemBase pan) n = s.read (pr.base + 64) n
        ∧ ∀ a, ¬ (storeBase pan ≤ a ∧ a < storeBase pan + wr.weightBytes) → ¬ (imemBase pan ≤ a ∧ a < imemBase pan + n) →
          u.byte a = s.byte a)
    ∧ ∀ (s : State) (slot : BitVec 2) (k : ClearVerdict), s.edge.stopped = false → s.saltern.halted = false →
      let i := slot.toNat
      let v := s.slot i
      let p := v.clearPan
      let failed := !(s.pan p).bunded && k.retryPans.getLsbD p && k.failPans.getLsbD p
      (v.disarm = false ∨ v.st = .busy ∨ s.clearWaits [] [p] = true → exec (.raceDisarm { slot, verdict := k }) s = .next s)
        ∧ (v.disarm = true → v.st ≠ .busy → s.clearWaits [] [p] = false → ∃ u : State,
          exec (.raceDisarm { slot, verdict := k }) s = .next (if v.rearm then
              (match u.startArm i with | (some st, t) => t.slotDone i (some st) | (none, t) => t) else u.slotDone i none)
            ∧ (u.slot i).disarm = false ∧ (u.slot i).inBuf = [] ∧ (u.slot i).outFront = [] ∧ (u.slot i).outBack = []
            ∧ (failed = true → (u.pan p).bunded = true)
            ∧ (failed = false → u.slot i = { v with disarm := false, inBuf := [], outFront := [], outBack := [], st := s.outState i p }
              ∧ (∀ j, j ≠ i → u.slot j = s.slot j)
              ∧ ((s.pan p).bunded = false → (∀ a, OwnMemory p a → u.byte a = 0) ∧ (u.pan p).held = none)))

/-- A served request for DOZE or SLACK begins the entry of an operator's device that is awake with no armed slot; with one it notes
ARMED_SLOTS, from another initiator it is DENIED. Once drained, DOZE gates every pan that is not bunded and drops its program, and (the
model's choice, log 68) keeps its cycle count and flags; SLACK also empties the mailboxes, contexts and pan memories, lowers READY, and
saves the configuration; neither changes other memory, the tally's spill ring apart. The wake from DOZE, and from SLACK where the sealed
copies compare, ends awake with every pan that is not bunded ungated, pan memories zero and programs not held, and, from SLACK, READY,
the saved configuration, committed and shadow (the model's choice between R279 and R256, log 69), a counted wake, and a request in the
area refused. (R276, R277, R278, R279, R280 (11_power_clocks.md); R237 (08_decot_queues_tally.md); R324
(12_saltern.md); R396, R397 (15_boot.md); R289 (11_power_clocks.md)) -/
def Obligations.SleepIsEnteredLeftAndRefused : Prop :=
  (∀ (s : State) (r : Req) (slack : Bool), Served s r →
      let i : Instr := if slack then .glbSleepSlack r else .glbSleepDoze r
      (s.isOperator r.ini = false → exec i s = .next (s.respond r rDenied []))
        ∧ (s.isOperator r.ini = true → s.power.sleep = .awake → s.anyArmed = true →
          exec i s = .next (({ s with power := { s.power with sleepErr := 1 } } : State).respond r rOk []))
        ∧ (s.isOperator r.ini = true → s.power.sleep = .awake → s.anyArmed = false → ∃ u : State, exec i s = .next (u.respond r rOk [])
          ∧ u.power = { s.power with sleep := if slack then .enteringSlack else .enteringDoze, wakeHeld := false } ∧ (∀ p, p < 64 → (u.pan p).holds = [])
          ∧ { u with power := s.power, pans := s.pans } = s))
    ∧ (∀ s : State, s.power.sleep = .enteringDoze → s.drainOver = true → ∃ u : State, exec .dozeEntry s = .next u
      ∧ u.power = { s.power with sleep := if s.power.wakeHeld then .waking else .doze, wakeHeld := false } ∧ u.edge = s.edge
      ∧ (∀ p, p < 64 → (u.pan p).gated = ((s.pan p).gated || !(s.pan p).bunded) ∧ (u.pan p).cycles = (s.pan p).cycles
        ∧ (u.pan p).arith = (s.pan p).arith ∧ ((s.pan p).bunded = false → (u.pan p).held = none))
      ∧ ∀ a, a < storeBase 0 → u.byte a = s.byte a)
    ∧ (∀ s : State, s.power.sleep = .enteringSlack → s.drainOver = true → ∃ u : State, exec .slackEntry s = .next u
      ∧ u.power.sleep = (if s.power.wakeHeld then .waking else .slack) ∧ u.edge.ready = false ∧ u.boot.saved = some (s.cfg, s.shadow)
      ∧ (∀ c, c < 32 → (u.chan c).aToB = [] ∧ (u.chan c).bToA = []) ∧ u.eng.ctxs = [] ∧ u.eng.pke = [] ∧ u.cfg = s.cfg
      ∧ (∀ p a, p < 64 → (s.pan p).bunded = false → OwnMemory p a → u.byte a = 0)
      ∧ ∀ a, a < storeBase 0 → ¬ InSpill s a → u.byte a = s.byte a)
    ∧ (∀ s : State, s.power.sleep = .waking → s.up = true → ∃ u : State, exec .dozeWake s = .next u ∧ u.power.sleep = .awake
      ∧ (∀ p, p < 64 → (s.pan p).bunded = false → (u.pan p).gated = false ∧ (u.pan p).held = none ∧ ∀ a, OwnMemory p a → u.byte a = 0)
      ∧ (s.power.spillway = true → ∀ g, g < 8 → (u.group g).op = 0) ∧ ∀ a, a < storeBase 0 → u.byte a = s.byte a)
    ∧ ∀ (s : State) (raw : List Byte) (env : BootEnv), s.power.sleep = .waking → s.edge.ready = false → s.edge.porst = true →
      s.edge.stopped = false → s.saltern.halted = false → s.edge.ucie0 ≠ .training → s.edge.ucie1 ≠ .training →
      s.copyHolds reserveBase s.boot.pfw = true → s.copyHolds (reserveBase + 0x900000) s.boot.sfw = true →
      ∃ u : State, exec (.fastWake raw env) s = .next u ∧ u.power.sleep = .awake ∧ u.edge.ready = true
        ∧ (∀ c, s.boot.saved = some c → u.cfg = c.1 ∧ u.shadow = c.2) ∧ (s.requested = true → u.saltern.transResult = trNotAllowed) ∧ u.attest.wakes = satAdd s.attest.wakes 1
        ∧ (∀ p, p < 64 → (s.pan p).bunded = false → (u.pan p).gated = false) ∧ (s.cmds = [] → u.cmds = [])

/-- While the device runs outside DOZE and SLACK, a droop trip of a group that has not tripped sets the stretch, counts it, and ends the
time lock of every command on the group; the detector's clear ends the trip, and the stretch ends only after it. An increase under way
ends at its point and voltage where the detector has been clear for 256 pan cycles, as the event reports, and no stretch is in force; it
waits at that voltage otherwise. A boosting group that reads 100 C heads for a
target without boost. Other groups and memory stay. (R281, R282, R283, R284, R285, R286 (11_power_clocks.md); R268 (10_determinism.md);
R123 (05_memory_vaults.md)) -/
def Obligations.GroupsStretchRiseAndFollowTheirTargets : Prop :=
  ∀ (s : State) (g : BitVec 3),
    let n := g.toNat
    let v := s.group n
    let alone (u : State) : Prop := (∀ j, j ≠ n → u.group j = s.group j) ∧ u.mem = s.mem ∧ u.edge = s.edge ∧ u.cfg = s.cfg
    (s.edge.porst = true → s.edge.stopped = false → v.tripped = false → s.power.sleep ≠ .doze → s.power.sleep ≠ .slack →
        ∃ u : State, exec (.droopTrip g) s = .next u ∧ alone u
          ∧ u.group n = { v with tripped := true, stretching := true, droops := satAdd v.droops 1 }
          ∧ ∀ c ∈ s.cmds, c.pans.any (fun p => p / 8 = n) = true → ∃ d ∈ u.cmds, d.seq = c.seq ∧ d.locked = false)
      ∧ exec (.droopDetectorClear g) s = .next (s.modGroup n fun v => { v with tripped := false })
      ∧ (∃ u : State, exec (.stretchEnd g) s = .next u ∧ alone u ∧ u.group n = { v with stretching := v.tripped && v.stretching })
      ∧ (∀ k clear, v.rising = some k → s.groupsOn = true → ∃ u : State, exec (.opIncrease { g, clear }) s = .next u ∧ alone u
        ∧ let volt := BitVec.ofNat 10 (s.pointVolt n k.toNat)
          u.group n = if v.tripped || v.stretching || !clear then { v with riseWait := true, volt } else { v with op := k, volt, rising := none, riseWait := false })
      ∧ (s.edge.porst = true → s.edge.stopped = false → s.groupsOn = true → v.climbDue = false → v.op = 8 → v.cool = true →
        ∃ u : State, exec (.boostLeave100C g) s = .next u ∧ alone u ∧ (u.group n).cool = false ∧ (u.group n).op.toNat ≤ 7)

/-- A cap window outside SLACK puts the committed power fields in force, with which the commits end that waited for it, and adds its
energy: of the estimate that the fused coefficients give its counts awake, of the fused draw in DOZE. Awake, GLB_PWR_LAST shows the
estimate and f; without excess over the available cap no pan has a fraction, and a fraction is never above 240/256. SLACK adds its fused
draw a tick. A re-plan under MONITORED moves each group by at most one unit within -10 to 6 and starts a new minimum. A checkpoint due
writes one page and counts it, unless wear or the budget stops it, which is shown. (R284, R290, R292, R294, R296, R297, R298
(11_power_clocks.md); R237 (08_decot_queues_tally.md); R268 (10_determinism.md)) -/
def Obligations.CapWindowsShareThePowerAndCheckpointsFollow : Prop :=
  (∀ (s : State) (w : WindowReport), s.edge.porst = true → s.edge.stopped = false → s.boot.stage ≠ .off → s.boot.stage ≠ .straps →
      s.power.sleep ≠ .slack →
      let added (u : State) (pJ : Nat) : Prop := u.power.energy = s.power.energy + BitVec.ofNat 64 ((s.power.energyFrac + pJ) / 1000000)
        ∧ u.power.energyFrac = (s.power.energyFrac + pJ) % 1000000
      ∃ u : State, exec (.capWindow w) s = .next (if s.power.sleep = .doze then u else u.finishCommits) ∧ u.power.cfgNow = s.cfg.pwrCfg ∧ u.power.ceilNow = s.cfg.opCeil ∧ u.mem = s.mem
        ∧ u.power.sleep = s.power.sleep
        ∧ (s.power.sleep = .doze → added u (1024 * fld (s.otpWord 0x242) 0 16))
        ∧ (s.power.sleep ≠ .doze → added u (1024 * s.pEst w)
          ∧ u.power.last.toNat / 0x10000 = min 0xFFFF (nearest (s.pEst w) 10) ∧ u.power.last.toNat % 0x10000 ≤ 256
          ∧ (let cap := fld s.cfg.pwrCfg.toNat 0 8 * 250 - 600 * s.armedCount
            s.pEst w - s.raceEst w ≤ cap → cap ≠ 0 →
              u.power.last.toNat % 0x10000 = 0 ∧ ∀ p, p < 64 → (u.pan p).frac = 0)
          ∧ ∀ p, p < 64 → (u.pan p).frac.toNat ≤ 240))
    ∧ (∀ s : State, s.power.sleep = .slack → exec .energySlackTick s = .next (s.addEnergy (10000 * fld (s.otpWord 0x242) 16 16)))
    ∧ (∀ s : State, s.edge.porst = true → s.edge.stopped = false → s.power.monitored = true → s.power.sleep ≠ .slack →
      ∃ u : State, exec .replanPoint s = .next u ∧ u.mem = s.mem ∧ u.cmds = s.cmds ∧ ∀ g, g < 8 → (u.group g).slackMin = none
        ∧ (u.group g).op = (s.group g).op
        ∧ (u.group g).offset = (match (s.group g).slackMin with
          | some m => if m < (s.slackBounds g).2.1 then max (-10) (min 6 ((s.group g).offset + 1))
            else if (s.slackBounds g).2.2 < m then max (-10) (min 6 ((s.group g).offset - 1)) else (s.group g).offset
          | none => (s.group g).offset))
    ∧ ∀ s : State, s.up = true → s.saltern.halted = false → s.power.sleep ≠ .slack → 4096 * 2 ^ s.tally.ckptK ≤ s.tally.since →
      s.tally.ckptEn = true → s.flashGood = true →
      let worn := decide (90000 ≤ s.tally.sectorErases.look 0 (s.tally.nextPage / 16))
      let spent := decide (s.tally.budget ≤ s.tally.erases.toNat)
      (s.ckptErases = true → worn || spent → exec .checkpoint s = .next { s with tally := { s.tally with
          worn := s.tally.worn || worn, budgetSpent := s.tally.budgetSpent || spent } })
        ∧ (s.ckptErases = false ∨ (worn || spent) = false → ∃ u : State, exec .checkpoint s = .next u ∧ (∀ a, ¬ InSpill s a → u.byte a = s.byte a)
          ∧ u.tally.nextPage = (s.tally.nextPage + 1) % 1024 ∧ u.tally.ckpts = satAdd s.tally.ckpts 1
          ∧ u.tally.erases = s.tally.erases + (if s.ckptErases then 1 else 0)
          ∧ leAt (u.flashRead (ckptArea + 4096 * s.tally.nextPage) 4) 0 4 = 0x4E345443)

/-- A served push of a whole word by a side joins the queue it writes, unless eight words stand there or the write is not whole, when
OVERRUN is set; a word that the Saltern still has to discard is dropped. A pop takes the oldest word of the queue the side reads, as a
16-byte unit, or answers zeros and sets UNDERRUN; FLUSH drops that queue's eight words. An initiator that is no side is answered
UNMAPPED, counted. A request whose words do not all come is answered BAD_PARAM, unless the channel's earlier request still has to be
answered first. (R321, R322, R323, R325 (12_saltern.md); R113
(05_memory_vaults.md)) -/
def Obligations.MailboxWordsArePushedPoppedAndFlushed : Prop :=
  (∀ (s : State) (r : Req) (c : BitVec 5) (word : Word) (be : BitVec 4), Served s r →
      let n := c.toNat
      let v := s.chan n
      let push := exec (.mbxPush r c word be) s
      let pop := exec (.mbxPop r c) s
      let flush := exec (.flushIn r c) s
      let set (w : Chan) : State := s.modChan n fun _ => w
      (v.side r.ini = none → push = .next (s.countUnmapped.respond r rUnmapped []) ∧ flush = .next (s.countUnmapped.respond r rUnmapped [])
          ∧ pop = .next (s.countUnmapped.respond r rUnmapped (List.replicate 16 0)))
        ∧ ∀ b, v.side r.ini = some b →
          (be ≠ 15 ∨ 8 ≤ (v.outgoing b).length → push = .next ((set (v.over b true)).settleMbx.respond r rOk []))
            ∧ (be = 15 → (v.outgoing b).length < 8 → b = false → v.sideB = 0x80 → v.discard ≠ 0 →
              push = .next ((set { v with discard := v.discard - 1 }).settleMbx.respond r rOk []))
            ∧ (be = 15 → (v.outgoing b).length < 8 → (b = true ∨ v.sideB ≠ 0x80 ∨ v.discard = 0) →
              push = .next ((set (if b then { v with bToA := v.bToA ++ [word] } else { v with aToB := v.aToB ++ [word] })).settleMbx.respond r rOk []))
            ∧ (v.incoming b = [] → pop = .next ((set (v.under b true)).respond r rOk (List.replicate 16 0)))
            ∧ (∀ w q, v.incoming b = w :: q → pop = .next ((set (if b then { v with aToB := q } else { v with bToA := q })).respond r rOk
              (leBytes 4 w.toNat ++ List.replicate 12 0)))
            ∧ flush = .next ((set (if b then { v with aToB := v.aToB.drop 8 } else { v with bToA := v.bToA.drop 8 })).respond r rOk []))
    ∧ ∀ (s : State) (c : BitVec 5) (r : SvcReq), s.up = true → s.saltern.halted = false → (s.chan c.toNat).request = some r →
      r.words.length < r.need →
      exec (.serviceTimeout c) s = .next (if s.chanBusy c.toNat then s else
        ((s.modChan c.toNat fun v => { v with aToB := v.aToB.drop (1 + r.words.length) }).reply c.toNat r.tag svBadParam false []).settleMbx)

/-- For a request whose turn has come and that need not wait: a slot below 8 gives WORLD, an empty one ABSENT, one of another world WORLD;
KEY_INFO answers the 128 attribute bits, KEY_ZEROISE empties the slot, KEY_PUBLIC writes the public key of a slot that may be used. A
requester without a world gets WORLD from the services that fill a slot. With a slot free, KEY_IMPORT puts the bytes read into it,
KEY_GENERATE bits of the DRBG, writing the public key where a destination is named, and KEY_DERIVE bits of the counter-mode KDF under
the parent, with the TYPE asked for, the USAGE bits that suit it, the present life-cycle state, the requester's world and itself. Other
slots stay. A reserved TYPE, or a scalar out of range, gives BAD_PARAM. (R304, R305, R307
(12_saltern.md); R308, R310 (12_saltern.md); R325, R326 (12_saltern.md); R352, R358 (14_crypto_engines.md)) -/
def Obligations.KeyServicesFillShowAndEmptySlots : Prop :=
  ∀ (s u : State) (cb : BitVec 5) (r : SvcReq),
    let c := cb.toNat
    let a := s.asker c
    let n := r.w 1
    let k := u.key n
    let type := fld n 0 4
    let usage := fld n 4 4
    let filled (t : State) (w : State) (m world : Nat) (key : List Byte) : Prop := (t.key m).material = key ∧ (t.key m).type = type
      ∧ (t.key m).usage = usage &&& usageFor type ∧ (t.key m).lcMask = 2 ^ u.lcState ∧ (t.key m).world = world
      ∧ (a.toNat < 64 → (t.key m).initMask = 2 ^ a.toNat) ∧ (∀ j, j ≠ m → t.key j = u.key j) ∧ { t with saltern := w.saltern } = w
    (Asks s c 0x01 r u → exec (.keyInfo cb) s = .next (if n < 8 then u.replies c r svWorld else if k.type = 0 then u.replies c r svAbsent
        else if u.worldOk a k = false then u.replies c r svWorld
        else u.replies c r svOk ((List.range 4).map fun i => fld k.attr.toNat (32 * i) 32)))
      ∧ (Asks s c 0x08 r u → ∃ t : State, (∀ j, t.key j = if j = n then {} else u.key j)
        ∧ exec (.keyZeroise cb) s = .next (if n < 8 then u.replies c r svWorld else if k.type = 0 then u.replies c r svAbsent
          else if u.worldOk a k = false then u.replies c r svWorld else t.replies c r svOk))
      ∧ (Asks s c 0x09 r u → s.pkeBusy = false → u.eng.katFail = false →
        (∀ e, u.useErr (some a) n none = some e → exec (.keyPublic cb) s = .next (u.replies c r e))
          ∧ (u.useErr (some a) n none = none → (k.type < 4 ∨ 6 < k.type) → exec (.keyPublic cb) s = .next (u.replies c r svUsage))
          ∧ ∀ q, u.useErr (some a) n none = none → 4 ≤ k.type → k.type ≤ 6 → publicOf k.type k.material = some q →
            exec (.keyPublic cb) s = .next (if u.svcRange a (r.addr 2) q.length true then
              ((u.pkePublic q).engineWrite (r.addr 2) q).replies c r svOk [q.length] else u.replies c r svRange))
      ∧ (Asks s c 0x04 r u → (u.worldOf a = none → exec (.keyImport cb) s = .next (u.replies c r svWorld))
        ∧ (u.worldOf a ≠ none → typeOk type = false → exec (.keyImport cb) s = .next (u.replies c r svBadParam))
        ∧ (∀ e, typeOk type = true → u.slotFor a = .error e → exec (.keyImport cb) s = .next (u.replies c r e))
        ∧ ∀ m world bs, typeOk type = true → u.slotFor a = .ok (m, world) → u.svcRead a (r.addr 2) (typeBytes type) = .ok bs →
          let bad (o : Nat) : Prop := beNat bs = 0 ∨ o ≤ beNat bs
          ((type = kP256 ∧ bad p256.n) ∨ (type = kP384 ∧ bad p384.n) → exec (.keyImport cb) s = .next (u.replies c r svBadParam))
            ∧ (¬ ((type = kP256 ∧ bad p256.n) ∨ (type = kP384 ∧ bad p384.n)) → ∃ t : State,
              exec (.keyImport cb) s = .next (t.replies c r svOk [m]) ∧ filled t u m world bs))
      ∧ (Asks s c 0x03 r u → ∀ m world bits w, s.drbgWaits = false → s.pkeBusy = false → typeOk type = true → u.slotFor a = .ok (m, world) →
        u.eng.drbg ≠ .error → u.eng.katFail = false → u.drbgTake (typeBits type / 8) = some (bits, w) →
        let key := asMaterial type bits
        ∃ t : State, filled t w m world key
          ∧ (r.addr 2 = 0 ∨ publicOf type key = none → exec (.keyGenerate cb) s = .next (t.replies c r svOk [m]))
          ∧ (∀ q, r.addr 2 ≠ 0 → publicOf type key = some q → u.svcRange a (r.addr 2) (match type with | 4 => 64 | 5 => 96 | 6 => 1952 | _ => 0)
              true = true → exec (.keyGenerate cb) s = .next (((t.pkePublic q).engineWrite (r.addr 2) q).replies c r svOk [m])))
      ∧ (Asks s c 0x02 r u → ∀ k parent m world bs, s.ctxsFull = false → u.worldOf a = some k → typeOk type = true →
        u.parentOf a r = .ok parent → u.slotFor a = .ok (m, world) →
        let ln := fld n 16 8
        let cn := fld n 24 8
        let lab := min 64 ln
        let con := min 128 cn
        u.svcRead a (r.addr 2) (ln + cn) = .ok bs →
        let clamp := lab != ln || con != cn || (k == 0x11 && bitAt n 8)
        let mr := if k ≠ 0x11 ∧ bitAt n 8 = true then u.mr (8 + k) else List.replicate 48 0
        let context := u.prefixP ++ [if k = 0x11 then (0xFF : Byte) else BitVec.ofNat 8 k] ++ mr ++ (bs.drop ln).take con
        ∃ t : State, exec (.keyDerive cb) s = .next (t.replies c r svOk [m] clamp)
          ∧ filled t u m world (asMaterial type (kdf parent (bs.take lab) context (typeBits type))))

/-- For a request whose turn has come and that need not wait: a slot that may not be used so gives the first check's status. Otherwise
KEY_HMAC writes the tag, KEY_SIGN the signature with its length, and KEY_ECDH puts the shared secret into a free slot; a peer point that
is refused gives BAD_PARAM. DIGEST writes the hash, for ALG above 2 BAD_PARAM. HMAC_VERIFY answers OK exactly where the first LEN bytes
of the tag agree, LEN limited to 16 to 64 with the clamp bit, and else MISMATCH. RANDOM answers COUNT words of the DRBG, limited to 1 to
64. (R306, R326 (12_saltern.md); R350, R351, R352 (14_crypto_engines.md); R358, R359, R361 (14_crypto_engines.md); R364, R366
(14_crypto_engines.md)) -/
def Obligations.KeyUsesAndDigestsGiveTheirResults : Prop :=
  ∀ (s u : State) (cb : BitVec 5) (r : SvcReq), s.ctxsFull = false → s.drbgWaits = false → s.pkeBusy = false →
    let c := cb.toNat
    let a := s.asker c
    let n := r.w 1
    let k := u.key n
    let refused (i : Instr) (bit : Nat) : Prop := ∀ e, u.useErr (some a) n (some bit) = some e → exec i s = .next (u.replies c r e)
    (Asks s c 0x05 r u → refused (.keyHmac cb) uHmac
        ∧ ∀ bs, u.useErr (some a) n (some uHmac) = none → u.svcRange a (r.addr 5) (tagBytes k.type) true = true →
          u.svcRead a (r.addr 2) (r.w 4) = .ok bs →
          exec (.keyHmac cb) s = .next ((u.engineWrite (r.addr 5) (tagMsg k.type k.material bs)).replies c r svOk))
      ∧ (Asks s c 0x06 r u → refused (.keySign cb) uSign
        ∧ ∀ bs g w, u.useErr (some a) n (some uSign) = none → u.eng.katFail = false → u.eng.drbg ≠ .error →
          u.svcRange a (r.addr 5) (sigBytes k.type) true = true → u.svcRead a (r.addr 2) (r.w 4) = .ok bs →
          signMsg k.type k.material bs u = some (g, w) →
          exec (.keySign cb) s = .next ((w.engineWrite (r.addr 5) g).replies c r svOk [g.length]))
      ∧ (Asks s c 0x07 r u → (u.worldOf a = none → exec (.keyEcdh cb) s = .next (u.replies c r svWorld))
        ∧ (u.worldOf a ≠ none → refused (.keyEcdh cb) uEcdh)
        ∧ ∀ t m world bs, u.useErr (some a) n (some uEcdh) = none → ecdhType (r.w 4) = some t → u.eng.katFail = false →
          u.slotFor a = .ok (m, world) → u.svcRead a (r.addr 2) 96 = .ok bs →
          let q := p384.unpair bs
          (∀ e, p384.ecdh (beNat k.material) q.1 q.2 = .error e → exec (.keyEcdh cb) s = .next ((u.pkeEnd e false []).replies c r svBadParam))
            ∧ ∀ x, p384.ecdh (beNat k.material) q.1 q.2 = .ok x → ∃ v : State, exec (.keyEcdh cb) s = .next (v.replies c r svOk [m])
              ∧ (v.key m).material = beBytes 48 x ∧ (v.key m).type = t ∧ (v.key m).world = world ∧ ∀ j, j ≠ m → v.key j = u.key j)
      ∧ (Asks s c 0x18 r u → (2 < n → exec (.digest cb) s = .next (u.replies c r svBadParam))
        ∧ ∀ bs, n ≤ 2 → u.svcRange a (r.addr 5) (match n with | 0 => 32 | 1 => 48 | _ => 64) true = true →
          u.svcRead a (r.addr 2) (r.w 4) = .ok bs → exec (.digest cb) s = .next ((u.engineWrite (r.addr 5)
            (if n = 0 then sha256 bs else if n = 1 then sha384 bs else sha512 bs)).replies c r svOk))
      ∧ (Asks s c 0x19 r u → let len := min 64 (max 16 (r.w 7))
        (∀ e, u.useErr (some a) n (some uHmac) = some e → exec (.hmacVerify cb) s = .next (u.replies c r e [] (len != r.w 7)))
          ∧ ∀ bs tag, u.useErr (some a) n (some uHmac) = none → u.svcRead a (r.addr 2) (r.w 4) = .ok bs → u.svcRead a (r.addr 5) len = .ok tag →
            exec (.hmacVerify cb) s = .next (u.replies c r
              (if (tagMsg k.type k.material bs).take len = tag ∧ len ≤ tagBytes k.type then svOk else svMismatch) [] (len != r.w 7)))
      ∧ (Asks s c 0x1A r u → let m := min 64 (max 1 n)
        (u.drbgTake (4 * m) = none → exec (.random cb) s = .next (u.replies c r svEntropy [] (m != n)))
          ∧ ∀ bs w, u.drbgTake (4 * m) = some (bs, w) →
            exec (.random cb) s = .next (w.replies c r svOk ((List.range m).map fun i => leAt bs (4 * i) 4) (m != n)))

/-- OTP_READ answers the words asked for, limited to 1 to 64 and to the array, with the UDS words zero, and INVALID where they overlap an
invalid region. OTP_PROGRAM and OTP_LOCK that a check refuses answer its status; else they wait while the controller works on another
request. Handled, a lock whose digest words conflict answers LOCK_CONFLICT; else the bits not yet set are programmed, and where none is
left OTP_PROGRAM answers the word. A pulse that verifies sets the fuse and the shadow and goes on with the next bit, and the last one
ends the request; one that does not is tried again, four times in all, and then ends the request with PROG_FAIL. No pulse clears a fuse.
The loss of VPP_OTP ends every request. (R331, R332, R336, R337, R338 (13_otp.md); R339, R340 (13_otp.md); R344, R345, R346 (13_otp.md)) -/
def Obligations.FusesAreReadProgrammedAndLockedByRequest : Prop :=
  let idle (u : State) : Prop := u.otp.job = none ∧ u.otp.waiting = []
  let busy (u : State) : Prop := ∃ k, u.otp.job = some k ∧ k.bits ≠ []
  let queued (u : State) (k : OtpJob) : State := { u with otp := { u.otp with waiting := u.otp.waiting ++ [k] } }
  let handled (u : State) (k : OtpJob) : State := { u with otp := { u.otp with job := some k } }
  (∀ (s u : State) (cb : BitVec 5) (r : SvcReq),
      let c := cb.toNat
      let a := s.asker c
      (Asks s c 0x10 r u → let w := r.w 1 % 2048
        let n := min (min 64 (max 1 (r.w 2))) (2048 - w)
        let bad := (overlaps w n 0x380 0x240 && u.otpInvalid 5) || (overlaps w n 0x5C0 0x240 && u.otpInvalid 6)
        exec (.otpRead cb) s = .next (if bad then u.replies c r svInvalid [] (n != r.w 2)
          else u.replies c r svOk ((List.range n).map fun i => if 0x40 ≤ w + i ∧ w + i < 0x60 then 0 else u.otpWord (w + i)) (n != r.w 2)))
        ∧ (Asks s c 0x11 r u → let w := r.w 1 % 2048
          let j := (lockOf w).filter fun j => 4 ≤ j
          let v := r.w 2
          let job : OtpJob := { purpose := .program c w v r.tag r.extra }
          let bits := if otpListed w then u.bitsFor w v else []
          (∀ e, u.otpErr a j = some e → exec (.otpProgram cb) s = .next (u.replies c r e))
            ∧ (u.otpErr a j = none → exec (.otpProgram cb) s = .next ((u.addJob job).settleMbx)
              ∧ (busy u → u.addJob job = queued u job)
              ∧ (idle u → bits ≠ [] → u.addJob job = handled u { job with bits })
              ∧ (idle u → bits = [] →
                u.addJob job = u.reply c r.tag svOk (r.extra || u.otpWord w &&& v != u.otpWord w) [BitVec.ofNat 32 (u.otpWord w), 0])))
        ∧ (Asks s c 0x12 r u → let j := r.w 1
          let ds := (lockDigestWords u.otpWord j).zipIdx
          let old (i : Nat) := u.otpWord (lockWord j + 1 + i)
          let check := u.otpErr a (if 4 ≤ j && j ≤ 6 then some j else none)
          let job : OtpJob := { purpose := .lock c j r.tag r.extra false }
          let bits := ds.flatMap fun d => u.bitsFor (lockWord j + 1 + d.2) d.1
          (∀ e, check = some e → exec (.otpLock cb) s = .next (u.replies c r e))
            ∧ (check = none → exec (.otpLock cb) s = .next ((u.addJob job).settleMbx)
              ∧ (busy u → u.addJob job = queued u job)
              ∧ (idle u → (∃ d ∈ ds, old d.2 &&& d.1 ≠ old d.2) → u.addJob job = u.reply c r.tag svLockConflict r.extra [])
              ∧ (idle u → (∀ d ∈ ds, old d.2 &&& d.1 = old d.2) → bits ≠ [] → u.addJob job = handled u { job with bits }))))
    ∧ ∀ (s : State) (left : FuseOutcome),
      let keeps (t : State) : Prop := (∀ x y, (s.otp.fuses.look 0 x).getLsbD y = true → (t.otp.fuses.look 0 x).getLsbD y = true)
        ∧ t.mem = s.mem ∧ t.cmds = s.cmds
      (∀ (j : OtpJob) (w b : Nat) (rest : List (Nat × Nat)), s.otp.job = some j → j.bits = (w, b) :: rest → b < 32 →
          s.edge.stopped = false → s.jobGone j = false →
          ∃ t : State, exec (.otpPulse left) s = .next t ∧ keeps t
            ∧ (left = .programmed → (t.otp.fuses.look 0 w).getLsbD b = true ∧ (t.otp.shadow.look 0 w).getLsbD b = true)
            ∧ (left = .programmed → ∀ x l, rest = x :: l → t.otp.job = some { j with bits := rest, pulses := 0 })
            ∧ (left ≠ .programmed → s.otp.strict w b = false → j.pulses < 3 → t.otp.job = some { j with pulses := j.pulses + 1 })
            ∧ (left = .programmed → rest = [] → s.otp.waiting = [] → ∀ c w' v tag clamp, j.purpose = .program c w' v tag clamp →
              t = (({ s with otp := s.otp.burn (w, b) } : State).endJob j svOk).settleMbx)
            ∧ (left ≠ .programmed → s.otp.strict w b = false → 3 ≤ j.pulses → s.otp.waiting = [] → t.otp.job = none))
        ∧ (s.otp.job = none → exec (.vppOtpLoss left) s = .next { s with otp := { s.otp with vpp := false } })
        ∧ (s.otp.job ≠ none → ∃ t : State, exec (.vppOtpLoss left) s = .next t ∧ keeps t ∧ t.otp.vpp = false ∧ t.otp.job = none
          ∧ t.otp.waiting = [])

/-- For a request whose turn has come and that need not wait: ATTEST_MR answers the register the requester may see, else zeros, and
BAD_PARAM above 31. ATTEST_LOG writes the entries from START, at most 1,024, each as the requester may see it. ATTEST_CHAIN writes the
certificates and the link record, ABSENT without certificates, SMALL where they do not fit. ATTEST_REPORT writes the signed report and
counts it. IMAGE_WRITE by an operator of an image that the checks accept leaves it in its slot; one that they refuse answers REFUSED with
the code and no flash byte changes; from another it is NOT_OPERATOR. (R401, R404, R409, R410 (16_attestation.md); R411, R413, R417
(16_attestation.md); R398 (15_boot.md)) -/
def Obligations.AttestationAndImageServicesAnswer : Prop :=
  ∀ (s u : State) (cb : BitVec 5) (r : SvcReq),
    let c := cb.toNat
    let a := s.asker c
    let n := r.w 1
    (Asks s c 0x23 r u → exec (.attestMr cb) s = .next (if 31 < n then u.replies c r svBadParam else u.replies c r svOk
        ((List.range 12).map fun i => if (u.viewOf a true).seesMr n then leAt (u.mr n) (4 * i) 4 else 0)))
      ∧ (Asks s c 0x21 r u → let m := min 1024 (max 1 (r.w 2))
        let es := (u.attest.log.zipIdx.drop n).take m
        let bs := es.flatMap fun e => if (u.viewOf a true).seesMr e.1.mr.toNat then e.1.bytes e.2
          else leBytes 4 e.2 ++ List.replicate 8 0 ++ [e.1.mr] ++ List.replicate 51 0
        exec (.attestLog cb) s = .next (if u.svcRange a (r.addr 3) bs.length true then
          (u.engineWrite (r.addr 3) bs).replies c r svOk [es.length] (m != r.w 2) else u.replies c r svRange [] (m != r.w 2)))
      ∧ (Asks s c 0x22 r u → let bs := (u.boot.certs ++ u.boot.linkRecord.toList).flatMap fun p => leBytes 4 p.length ++ p
        exec (.attestChain cb) s = .next (if u.boot.certs = [] then u.replies c r svAbsent
          else if r.w 3 < bs.length then u.replies c r svSmall [bs.length]
          else if u.svcRange a (r.addr 1) bs.length true then (u.engineWrite (r.addr 1) bs).replies c r svOk [bs.length] else u.replies c r svRange))
      ∧ (Asks s c 0x20 r u → s.drbgWaits = false → s.ctxsFull = false → s.pkeBusy = false → let all := bitAt n 0
        (all = true → u.isOperator a = false → exec (.attestReport cb) s = .next (u.replies c r svNotOperator))
          ∧ ∀ nonce sigA sigB w v, (all = true → u.isOperator a = true) →
            (u.canAttest = false → exec (.attestReport cb) s = .next (u.replies c r svAbsent))
              ∧ (u.canAttest = true → 8 ≤ r.w 4 → r.w 4 ≤ 64 → u.svcRead a (r.addr 2) (r.w 4) = .ok nonce → u.eng.drbg ≠ .error →
                let payload := u.claimsOf (u.viewOf a all) nonce
                let certA := u.boot.certs.getD 0 []
                let certB := u.boot.certs.getD 1 []
                let len := (reportOf payload certA certB (List.replicate 96 0) (List.replicate 3309 0)).length
                len ≤ r.w 7 → u.svcRange a (r.addr 5) len true = true →
                signMsg kP384 (u.key 5).material (toBeSigned headEs384 payload) u = some (sigA, w) →
                signMsg kMldsa (w.key 6).material (toBeSigned headMldsa payload) w = some (sigB, v) →
                exec (.attestReport cb) s = .next ((({ v with attest := { v.attest with reports := satAdd v.attest.reports 1 } } : State).engineWrite
                  (r.addr 5) (reportOf payload certA certB sigA sigB)).replies c r svOk [len])))
      ∧ (Asks s c 0x40 r u → s.ctxsFull = false → s.pkeBusy = false → (u.isOperator a = false → exec (.imageWrite cb) s = .next (u.replies c r svNotOperator))
        ∧ (u.isOperator a = true → n = 2 ∨ 4 < n → exec (.imageWrite cb) s = .next (u.replies c r svBadParam))
        ∧ (∀ bs, u.isOperator a = true → n ≤ 1 → u.eng.katFail = false → u.svcRead a (r.addr 2) (r.w 4) = .ok bs →
          let at' := if n = 0 then slotA else slotB
          let sfw := bs.take 0x40000
          let pfw := bs.drop 0x40000
          let whole (l : List Byte) : Prop := headerLen ≤ l.length ∧ headerLen + imgLen l ≤ l.length
          let check (k : ImgKind) (l : List Byte) := u.checkImage k (u.boot.path == 1) l
          whole sfw → whole pfw → check .sfw sfw = icOk → check .pfw pfw = icOk →
          (imgBundle sfw ≠ imgBundle pfw → exec (.imageWrite cb) s = .next (u.replies c r svRefused [icFormat]))
            ∧ (imgBundle sfw = imgBundle pfw → u.flashGood = true → ∃ t : State, exec (.imageWrite cb) s = .next (t.replies c r svOk)
              ∧ { t with flash := u.flash } = u ∧ t.flashRead at' (headerLen + imgLen sfw) = sfw.take (headerLen + imgLen sfw)
              ∧ t.flashRead (at' + 0x40000) (headerLen + imgLen pfw) = pfw.take (headerLen + imgLen pfw)))
        ∧ ∀ bs, u.isOperator a = true → n = 3 ∨ n = 4 → u.eng.katFail = false → u.svcRead a (r.addr 2) (r.w 4) = .ok bs →
          let at' := if n = 3 then configA else configB
          let whole := headerLen ≤ bs.length ∧ headerLen + imgLen bs ≤ bs.length
          let code := u.checkImage .cfg (u.boot.path == 1) bs
          (¬ whole → exec (.imageWrite cb) s = .next (u.replies c r svRefused [icFormat]))
            ∧ (whole → code ≠ icOk → exec (.imageWrite cb) s = .next (u.replies c r svRefused [code]))
            ∧ (whole → code = icOk → u.flashGood = false → exec (.imageWrite cb) s = .next (u.replies c r svFlash))
            ∧ (whole → code = icOk → u.flashGood = true → ∃ t : State, exec (.imageWrite cb) s = .next (t.replies c r svOk)
              ∧ { t with flash := u.flash } = u ∧ t.flashRead at' (headerLen + imgLen bs) = bs.take (headerLen + imgLen bs)
              ∧ ∀ x, ¬ (at' ≤ x ∧ x < at' + max 0x100000 (headerLen + imgLen bs)) → Tab.look t.flash.cells 0xFF x = Tab.look u.flash.cells 0xFF x))

/-- While the Saltern runs, a program is issued to the PKE engine. Behind a program that waits for the DRBG it joins the queue. On a free
engine, a program that is not loaded ends with ERR_PROGRAM and no output; with a key slot that may not be used so, or of another TYPE,
nothing changes; one that draws random values waits for the DRBG, and ends with ERR_PROGRAM where that is in ERROR. Otherwise
verification ends with its result code, public gives the public key, signature r and s with nonces of the DRBG, ECDH the shared
x-coordinate or the code that refuses the peer's point, ML-DSA its public key, hedged signature and verdict, and RSA s^65537 mod n or
the code. Operands of another width set the clamp bit. (R355, R356, R357, R358, R359 (14_crypto_engines.md); R306 (12_saltern.md); R364,
R365 (14_crypto_engines.md)) -/
def Obligations.PkeProgramsReturnResultsAndCodes : Prop :=
  ∀ (s : State), s.salternRuns = true →
    let gives (i : Instr) (w : State) (code : Nat) (clamp : Bool) (outs : List (List DWord)) : Prop := exec i s = .next (w.pkeEnd code clamp outs)
    let usable (slot : BitVec 5) (type : Nat) (bit : Option Nat) : Prop := s.useErr none slot.toNat bit = none ∧ (s.key slot.toNat).type = type
    let ready (q : PkeReq) : Prop := s.eng.pke = [] ∧ s.pkeLoaded q.prog = true ∧ (pkeRandom q.prog = true → s.drbgReady = true)
    let row (i : Instr) (q : PkeReq) (key : Prop) : Prop :=
      (∀ r rest, s.eng.pke = r :: rest → (s.withPke (s.eng.pke ++ [q])).pkeRun r = none →
        exec i s = .next ((s.withPke (s.eng.pke ++ [q])).pkeBegin r))
      ∧ (s.eng.pke = [] → s.pkeLoaded q.prog = false → gives i s pkProgram false [])
      ∧ (s.eng.pke = [] → s.pkeLoaded q.prog = true → ¬ key → exec i s = .next s)
      ∧ (s.eng.pke = [] → s.pkeLoaded q.prog = true → key → pkeRandom q.prog = true → s.eng.drbg = .error → gives i s pkProgram false [])
      ∧ (s.eng.pke = [] → s.pkeLoaded q.prog = true → key → pkeRandom q.prog = true → s.drbgWaits = true →
        exec i s = .next ((s.withPke [q]).pkeBegin q))
    (∀ (slot : BitVec 5) (ops : List (List DWord)),
        let k := beNat (s.key slot.toNat).material
        let op (j w : Nat) : Nat := atWidth w (ops.getD j [])
        let unfit (n w : Nat) : Bool := (List.range n).any fun j => (ops.getD j []).length != w
        let sign (i : Instr) (n type : Nat) (c : Curve) (w : Nat) : Prop :=
          let q : PkeReq := { prog := n, slot := some slot.toNat, ops }
          row i q (usable slot type (some uSign)) ∧ ∀ rs t, ready q → usable slot type (some uSign) →
            ecdsaSign c 64 k (op 0 w) s = some (rs, t) → gives i t pkOk (unfit 1 w) [wordsOf64 w rs.1, wordsOf64 w rs.2]
        let pub (i : Instr) (n type : Nat) (c : Curve) (w : Nat) : Prop :=
          let q : PkeReq := { prog := n, slot := some slot.toNat }
          row i q (usable slot type none)
            ∧ (ready q → usable slot type none → gives i s pkOk false [wordsOf64 w (c.public k).1, wordsOf64 w (c.public k).2])
        let verify (i : Instr) (n : Nat) (c : Curve) (w : Nat) : Prop :=
          let q : PkeReq := { prog := n, ops }
          row i q True ∧ (ready q → gives i s (c.verify (op 0 w) (op 1 w) (op 2 w) (op 3 w) (op 4 w)) (unfit 5 w) [])
        let rsa (i : Instr) (n bits : Nat) : Prop :=
          let q : PkeReq := { prog := n, ops }
          row i q True ∧ (ready q →
            let m := op 1 (bits / 64)
            let x := op 0 (bits / 64)
            let clamp := unfit 2 (bits / 64)
            (x = 0 → gives i s pkZero clamp [])
              ∧ (x ≠ 0 → (m ≤ x ∨ m % 2 = 0 ∨ m < 2 ^ (bits - 1) ∨ 2 ^ bits ≤ m) → gives i s pkRange clamp [])
              ∧ (x ≠ 0 → x < m → m % 2 = 1 → 2 ^ (bits - 1) ≤ m → m < 2 ^ bits → gives i s pkOk clamp [wordsOf64 (bits / 64) (x ^ 65537 % m)]))
        sign (.p256Sign slot ops) 0 kP256 p256 4 ∧ sign (.p384Sign slot ops) 3 kP384 p384 6
          ∧ pub (.p256Public slot) 2 kP256 p256 4 ∧ pub (.p384Public slot) 5 kP384 p384 6
          ∧ verify (.p256Verify ops) 1 p256 4 ∧ verify (.p384Verify ops) 4 p384 6
          ∧ rsa (.rsa3072Verify ops) 10 3072 ∧ rsa (.rsa4096Verify ops) 11 4096
          ∧ (let i : Instr := .p384Ecdh slot ops
            let q : PkeReq := { prog := 6, slot := some slot.toNat, ops }
            row i q (usable slot kP384 (some uEcdh)) ∧ (ready q → usable slot kP384 (some uEcdh) →
              match p384.ecdh k (op 0 6) (op 1 6) with
              | .error code => gives i s code (unfit 2 6) []
              | .ok x => gives i s pkOk (unfit 2 6) [wordsOf64 6 x])))
      ∧ (∀ (slot : BitVec 5) (msg pub sig : List Byte),
        let m := (s.key slot.toNat).material
        let qp : PkeReq := { prog := 7, slot := some slot.toNat }
        let qs : PkeReq := { prog := 8, slot := some slot.toNat, strs := [msg] }
        let qv : PkeReq := { prog := 9, strs := [pub, msg, sig] }
        row (.mldsaPublic slot) qp (usable slot kMldsa none)
          ∧ (ready qp → usable slot kMldsa none → gives (.mldsaPublic slot) s pkOk false (regsOf (mlPublic m)))
          ∧ row (.mldsaSign slot msg) qs (usable slot kMldsa (some uSign))
          ∧ (∀ rnd t g, ready qs → usable slot kMldsa (some uSign) → s.drbgTake 32 = some (rnd, t) →
            mlSign m msg rnd = some g → gives (.mldsaSign slot msg) t pkOk false (regsOf g))
          ∧ row (.mldsaVerify pub msg sig) qv True ∧ (ready qv → gives (.mldsaVerify pub msg sig) s
            (if mlVerify (slice pub 0 1952) msg (slice sig 0 3309) then pkOk else pkFail) (pub.length != 1952 || sig.length != 3309) []))

/-- While the Saltern runs, a descriptor placed in SRAM is handed to the digest engine. A FIRST descriptor waits while every context holds
a message. With one free, a FIRST and LAST descriptor of a SHA message takes what its source delivers: the mover's stream with OVER
set, else the bytes in SRAM, or in device memory through the bridge where the Saltern may read them. It leaves the digest at its
destination and STATUS 0, with TRUNC, counted, where the stream was longer; a source that is refused, poisoned or short leaves STATUS 1,
counts SHORT and writes no digest. One that goes on with no open message leaves STATUS 2 where that message was aborted, else 8. An
uninstantiated DRBG whose source passes its tests is instantiated from entropy, nonce and personalisation; a ready one is reseeded and
counts; an empty entropy buffer takes 4,096 bytes of one generate. Raw bits that fail a health test put the DRBG in ERROR with that
test's flag, and no random byte is given until a cold boot. (R349, R350, R351 (14_crypto_engines.md); R361, R362, R363, R364, R365
(14_crypto_engines.md)) -/
def Obligations.DigestDescriptorsAndTheDrbgFollowTheirRules : Prop :=
  (∀ (s : State) (place : DescPlace) (desc input : List Byte), s.salternRuns = true → desc.length = 32 → inSram place.at32.toNat 32 = true →
      let i : Instr := .digestDescriptor place desc input
      let at32 := place.at32.toNat
      let op := leAt desc 0 1
      let fl := leAt desc 1 1
      let src := leAt desc 8 4
      let n := min (leAt desc 16 8) (2 ^ 40 - 1)
      let dest := leAt desc 24 4
      let status := salternBase + at32 + 28
      let placed := bitAt fl 3 = false ∧ inSram src input.length = true ∧ input ≠ []
      let w : State := { s with saltern := { s.saltern with window := place.window } }
      let b := (if placed then w.writeKnown (salternBase + src) input else w).writeKnown (salternBase + at32) desc
      (op ≤ 2 → bitAt fl 0 = true → s.ctxsFull = true →
        exec i s = .next ({ b with eng := { s.eng with waiting := s.eng.waiting ++ [(at32, input)] } } : State).settleDigests)
      ∧ (op ≤ 2 → bitAt fl 0 = true → bitAt fl 1 = true → bitAt fl 2 = false → inSram dest 64 = true →
        (at32 + 32 ≤ dest ∨ dest + 64 ≤ at32 + 28) → ∀ j x c, (List.range 4).find? (fun j => !(s.dctx j).busy) = some j →
        b.descInput desc input n = (x, c) →
        let value (l : List Byte) := if op = 0 then sha256 l else if op = 1 then sha384 l else sha512 l
        ∃ t : State, exec i s = .next t.settleDigests ∧ (t.dctx j).busy = false ∧ (∀ k, k ≠ j → t.dctx k = s.dctx k)
          ∧ ((∀ l, x = some l → l.length < n) → t.read status 4 = leBytes 4 (j * 2 ^ 16 + 1) ∧ t.eng.shorts = satAdd s.eng.shorts 1
            ∧ ∀ a, ¬ (status ≤ a ∧ a < status + 4) → t.byte a = b.byte a)
          ∧ (∀ l, x = some l → n ≤ l.length → t.read (salternBase + dest) (value (l.take n)).length = value (l.take n)
            ∧ t.read status 4 = leBytes 4 (j * 2 ^ 16 + (if n < l.length then 256 else 0))
            ∧ t.eng.truncs = (if n < l.length then satAdd s.eng.truncs 1 else s.eng.truncs)
            ∧ ∀ a, ¬ (status ≤ a ∧ a < status + 4) → ¬ (salternBase + dest ≤ a ∧ a < salternBase + dest + 64) → t.byte a = b.byte a))
      ∧ (bitAt fl 3 = true → b.descInput desc input n = (some input, b))
      ∧ (bitAt fl 3 = false → n = 0 → b.descInput desc input n = (some [], b))
      ∧ (placed → 0x10030000 ≤ src → input.length = n → (src + n ≤ at32 ∨ at32 + 32 ≤ src) → (b.descInput desc input n).1 = some input)
      ∧ (bitAt fl 3 = false → n ≠ 0 → inBridge src n = true →
        let d := (place.window.toNat + (src - 0x40000000)) % 2 ^ 40
        let may := within b.deviceRanges d n && !b.hitsSealed d n && !b.marked d n && !b.fencedAt d n
        b.descInput desc input n = (if may then some (b.read d n) else none, b))
      ∧ (bitAt fl 0 = false → s.openMsg op (leAt desc 2 1) = none → ∃ t : State, exec i s = .next t.settleDigests
        ∧ t.read status 4 = leBytes 4 (if s.wasAborted op (leAt desc 2 1) then 2 else 8)
        ∧ t.eng = { s.eng with aborted := s.eng.aborted.erase (op, msgSlot op (leAt desc 2 1)) }
        ∧ ∀ a, ¬ (status ≤ a ∧ a < status + 4) → t.byte a = b.byte a))
    ∧ ∀ s : State, s.boot.stage = .done →
      let good (raw : List Byte) : Prop := healthTests raw = (false, false)
      let failed (raw : List Byte) (t : State) : Prop := { t with eng := s.eng } = s ∧ t.eng.drbg = .error ∧ t.eng.entropy = []
        ∧ t.eng.rctFail = (s.eng.rctFail || (healthTests raw).1) ∧ t.eng.aptFail = (s.eng.aptFail || (healthTests raw).2)
        ∧ ∀ n, t.drbgTake n = none
      (∀ startup raw, s.salternRuns = true → s.eng.drbg = .uninstantiated →
          let i : Instr := .drbgInstantiate startup raw
          (good raw → s.eng.startupDone = true ∨ good startup → ∃ t : State, exec i s = .next t.settleEngines ∧ { t with eng := s.eng } = s
            ∧ t.eng.drbg = .ready ∧ t.eng.drbgCount = 0 ∧ t.eng.startupDone = true
            ∧ (t.eng.drbgK, t.eng.drbgV) = drbgUpdate (List.replicate 48 0, List.replicate 48 1)
              (slice (sha384 (slice raw 0 128)) 0 48 ++ slice (sha384 (slice raw 128 128)) 0 24 ++ s.prefixP ++ leBytes 4 s.boot.count.toNat))
          ∧ (s.eng.startupDone = false → ¬ good startup → ∃ t : State, exec i s = .next t.settleEngines ∧ failed startup t)
          ∧ (s.eng.startupDone = true → ¬ good raw → ∃ t : State, exec i s = .next t.settleEngines ∧ failed raw t))
        ∧ (∀ raw, s.salternRuns = true → s.eng.drbg = .ready →
          (good raw → ∃ t : State, exec (.drbgReseed raw) s = .next t.settleEngines ∧ { t with eng := s.eng } = s
            ∧ t.eng.drbg = .ready ∧ t.eng.drbgCount = 0 ∧ t.eng.reseeds = satAdd s.eng.reseeds 1
            ∧ (t.eng.drbgK, t.eng.drbgV) = drbgUpdate (s.eng.drbgK, s.eng.drbgV) (sha384 (slice raw 0 128)))
          ∧ (¬ good raw → ∃ t : State, exec (.drbgReseed raw) s = .next t.settleEngines ∧ failed raw t))
        ∧ (∀ bs w, s.enginesRun = true → s.eng.entropy = [] → s.drbgTake 4096 = some (bs, w) →
          exec .entropyBufferRefill s = .next { w with eng := { w.eng with entropy := bs } })
        ∧ (∀ raw, s.live = true → s.power.sleep ≠ .slack → s.eng.drbg ≠ .error →
          (good raw → exec (.healthTestFail raw) s = .next s.settleEngines)
          ∧ (¬ good raw → ∃ t : State, exec (.healthTestFail raw) s = .next t.settleEngines ∧ failed raw t))

/-- While the device boots: the boot clears wait for the DRBG; a first boot clear without a lasting failure leaves zero in every vault byte
but the event log and the link record, and in every pan; the LPDDR5X clear leaves zero in each port that is up. A pan's self-test ends
once: a pass leaves its memories zero, a failure bunds it. The examination goes on without effect where the request has no MAGIC, with
NOT_ALLOWED in a boot that follows a wake from SLACK, or with the code of the first check that fails; a request that passes is for this
device, its state, epoch and boot, and VPP is there. READY rises once the firmware is ready, every pan
has been tested or bunded and the firmware's lock is set; the locks then all stand and the committed power fields are in force. (R139,
R140 (05_memory_vaults.md); R312, R316 (12_saltern.md); R423, R424, R431 (17_first_second.md); R447 (18_containment.md); R328
(12_saltern.md)) -/
def Obligations.TheBootClearsExaminesAndRaisesReady : Prop :=
  (∀ (s : State) (v : ClearVerdict), s.edge.stopped = false → s.boot.stage ≠ .off → s.boot.stage ≠ .straps → s.boot.stage ≠ .halted →
      (s.eng.drbg = .uninstantiated → exec (.bootClearDone v) s = .next s)
      ∧ (s.eng.drbg ≠ .uninstantiated → s.boot.cleared = false → v.failVaults = 0 → v.failPans = 0 → s.attest.log.length ≤ 65536 →
        (∀ e ∈ s.attest.log, e.value.length = 48) → ∃ w : State, exec (.bootClearDone v) s = .next w.boots
        ∧ w.boot = { s.boot with cleared := true } ∧ w.edge = s.edge
        ∧ (∀ a, a < 8 * vaultSize → ¬ (logBase ≤ a ∧ a < logBase + 64 * s.attest.log.length) →
          (∀ l, s.boot.linkRecord = some l → ¬ (linkCopy ≤ a ∧ a < linkCopy + l.length)) → w.byte a = 0)
        ∧ (∀ e ∈ s.attest.log.zipIdx, w.read (logBase + 64 * e.2) (e.1.bytes e.2).length = e.1.bytes e.2)
        ∧ ∀ p a, p < 64 → (s.pan p).bunded = false → OwnMemory p a → w.byte a = 0)
      ∧ (s.eng.drbg ≠ .uninstantiated → s.boot.cleared = true → s.boot.stage = .lpClear → v.failPorts = 0 →
        ∃ w : State, exec (.bootClearDone v) s = .next w.boots ∧ w.boot = { s.boot with stage := .apply } ∧ (∀ a, a < lpBase → w.byte a = s.byte a)
        ∧ ∀ r ∈ s.lpRanges.zipIdx, s.edge.lpPort.getLsbD r.2 = true → ∀ a, r.1.1 ≤ a → a < r.1.1 + r.1.2 → w.byte a = 0)
      ∧ ∀ p : BitVec 6, s.boot.tested.getLsbD p.toNat = false →
        (∃ t : State, exec (.selfTestDone p true) s = .next t ∧ t.boot = { s.boot with tested := s.boot.tested ||| BitVec.ofNat 64 (2 ^ p.toNat) }
          ∧ ((s.pan p.toNat).bunded = false → ∀ a, OwnMemory p.toNat a → t.byte a = 0) ∧ t.cmds = s.cmds ∧ t.edge = s.edge
          ∧ ∀ q, q ≠ p.toNat → t.pan q = s.pan q)
        ∧ ∃ t : State, exec (.selfTestDone p false) s = .next t ∧ (t.pan p.toNat).bunded = true ∧ t.edge = s.edge)
    ∧ (∀ s : State, s.boot.stage = .examine → s.edge.stopped = false → s.saltern.halted = false → s.examineDue = true →
      let q := s.request
      (leAt q 0 4 ≠ 0x4E344C54 → exec .transitionExamine s = .next s.afterExamine.boots)
        ∧ (leAt q 0 4 = 0x4E344C54 → s.boot.afterSlack = true → exec .transitionExamine s = .next (s.setTrans trNotAllowed).afterExamine.boots)
        ∧ (leAt q 0 4 = 0x4E344C54 → s.boot.afterSlack = false →
          (∀ c, s.transCheck q = .error c → exec .transitionExamine s = .next (s.setTrans c).afterExamine.boots)
          ∧ (slice q 8 48 ≠ s.deviceDigest → ∃ c, c = trFormat ∨ c = trDevice ∧ exec .transitionExamine s = .next (s.setTrans c).afterExamine.boots)
          ∧ (∀ lc epoch, s.transCheck q = .ok (lc, epoch) → s.prepareLink q lc epoch = none → exec .transitionExamine s = .next s)
          ∧ ∀ lc epoch link u, s.transCheck q = .ok (lc, epoch) → s.prepareLink q lc epoch = some (link, u) →
            slice q 8 48 = s.deviceDigest ∧ leAt q 0x38 1 = s.lcState ∧ leAt q 0x39 1 = s.epoch ∧ leAt q 0x3C 4 = s.boot.count.toNat
              ∧ s.otp.vpp = true ∧ (∃ up, transitionTo s.lcState (leAt q 6 1) (leAt q 0x70 1) = some (lc, up) ∧ epoch = s.epoch + up)
              ∧ exec .transitionExamine s = .next (u.transProgram q lc epoch link).afterExamine.boots
              ∧ ((u.transProgram q lc epoch link).saltern.transResult = trDone →
                ∀ n, ((u.transProgram q lc epoch link).key n).type = 0)))
    ∧ ∀ s : State,
      (s.canRise = false → exec .readyRise s = .next s)
        ∧ (s.boot.stage = .waitReady → s.lock 15 = true → s.edge.stopped = false → s.saltern.halted = false →
          (∀ p, p < 64 → s.boot.tested.getLsbD p = true ∨ (s.pan p).bunded = true) →
          ∃ t : State, exec .readyRise s = .next t ∧ t.edge = { s.edge with ready := true } ∧ t.boot = { s.boot with stage := .done }
            ∧ (∀ b, 8 ≤ b → b < 16 → t.lock b = true) ∧ t.power.cfgNow = s.cfg.pwrCfg ∧ t.power.ceilNow = s.cfg.opCeil
            ∧ (∀ a, ¬ InSpill s a → t.byte a = s.byte a) ∧ t.pans = s.pans ∧ t.cfg = s.cfg ∧ t.dbg.toTally = [])

/-- Before READY, over a module that is up: PUSH_CTRL of an initiator that is not the holder is DENIED without effect. A chunk of a KIND
that NEED does not show gives KIND; one at another OFFSET than the bytes taken so far gives SEQUENCE; a chunk that is not the last is
taken from the push buffer and copied to the image's destination at OFFSET; a last chunk with fewer bytes than a header is copied too, gives
SHORT and frees the holder; FIRST makes the writer the holder where there is none; each echoes SEQ. ABANDON discards the bytes taken and frees the holder, or only echoes where there is none.
After READY both are DENIED, once no time lock keeps the request waiting [log 79]. CLEAR of PAN_PROF_CTRL by an operator zeroes that pan's
profile counters and is DENIED to others. (R392, R393, R394 (15_boot.md); R205 (08_decot_queues_tally.md); R465 (19_operator_access.md);
R391 (15_boot.md)) -/
def Obligations.PushesAreTakenInOrderFromTheirHolder : Prop :=
  (∀ (s : State) (r : Req) (ctrl : QWord), (s.link r.module1).isUp = true → s.edge.stopped = false → r.ini.toNat < 64 →
      let b := s.boot
      let x := ctrl.toNat
      let ab := fld x 16 8 = 15
      let i : Instr := if fld x 16 8 = 15 then .abandon r ctrl else .pushChunk r ctrl
      let seq := BitVec.ofNat 16 (fld x 0 16)
      let first := bitAt (fld x 24 8) 0
      let last := bitAt (fld x 24 8) 1
      let answers (k : Boot) : Prop := exec i s = .next (({ s with boot := k } : State).respond r rOk [])
      let landed (k : ImgKind) (off : Nat) (l : List Byte) : State :=
        let l := l.take (6144 + k.limit - off)
        if l = [] then s else match k with
          | .sfw => s.writeKnown (0x3B10030000 + off) l
          | .pfw => if b.cleared then s.write (0x05FC000000 + off) l else s
          | .cfg => if b.cleared then s.write (0x05FCA00000 + off) l else s
      (s.edge.ready = true → s.ctlHeld r.module1 = false → exec i s = .next (s.respond r rDenied []))
        ∧ (s.edge.ready = true → s.ctlHeld r.module1 = true → exec i s = .next s)
        ∧ (s.edge.ready = false → s.windowOpen = true →
          (∀ h, b.holder = some h → h ≠ r.ini → exec i s = .next (s.respond r rDenied []))
          ∧ (s.saltern.halted = false → b.holder = none → ab → answers { b with ackSeq := seq })
          ∧ (s.saltern.halted = false → b.holder = some r.ini → ab → answers { b with holder := none, pushed := none, ackSeq := seq })
          ∧ (s.saltern.halted = false → ¬ ab → b.holder = none ∨ b.holder = some r.ini →
            let held := if first then some r.ini else b.holder
            let need (k : ImgKind) : Prop := pushKind ctrl = some k ∧ b.need.getLsbD (k.code - 1) = true
            let sofar (k : ImgKind) : List Byte := match b.pushed with
              | some (c, l) => if c = BitVec.ofNat 4 k.code ∧ first = false then l else []
              | none => []
            let chunk := s.pushBuf (min 49152 (fld x 64 32))
            let whole (k : ImgKind) := sofar k ++ chunk
            ((∀ k, ¬ need k) → answers { b with
                holder := if last then none else held, pushResult := BitVec.ofNat 8 icKind, ackSeq := seq })
              ∧ (∀ k, need k → fld x 32 32 ≠ (sofar k).length → answers { b with
                holder := held, pushResult := BitVec.ofNat 8 icSequence, ackSeq := seq })
              ∧ (∀ k, need k → fld x 32 32 = (sofar k).length → last = false →
                exec i s = .next (({ landed k (sofar k).length chunk with boot := { b with
                  holder := held, pushed := some (BitVec.ofNat 4 k.code, whole k), pushResult := 0, ackSeq := seq } } : State).respond r rOk []))
              ∧ (∀ k, need k → fld x 32 32 = (sofar k).length → last = true → (whole k).length < headerLen →
                ∃ t : State, exec i s = .next (t.respond r rOk []) ∧ t.boot.pushResult = BitVec.ofNat 8 icShort ∧ t.boot.holder = none
                  ∧ t.boot.pushed = none ∧ t.boot.need = b.need ∧ t.boot.ackSeq = seq
                  ∧ { t with boot := b } = landed k (sofar k).length chunk))))
    ∧ ∀ (s : State) (r : Req) (p : BitVec 6), Served s r →
      (s.isOperator r.ini = false → exec (.profClear r p) s = .next (s.respond r rDenied []))
        ∧ (s.isOperator r.ini = true → exec (.profClear r p) s = .next ((s.modPan p.toNat fun v =>
          { v with profIssue := 0, profCell := 0, profVec := 0, profMove := 0, profGated := 0
                   profBubble := 0 }).respond r rOk []))

/-- While VDD_AON is in range, each TAP instruction becomes the one in force and changes no memory: IDCODE and Test-Logic-Reset load the
device code, the reset ends the JTAG session and its holds, SAMPLE/PRELOAD takes the pins, BYPASS its zero bit [log 42], DBG opens the
session and counts it once. While DBG is in force, NOP and STATUS are done at all times. In DOZE and SLACK, after 125 °C has gated the
domains, and in a SCRAPPED device [log 41] the other operations are DENIED. Else a read gives the eight bytes of plain memory and a
write to memory that nothing guards stores them and nothing else; a hold is put on and taken off a pan for JTAG, refused on a bunded
pan; the Saltern core halts, and resumes. (R459, R460, R461, R462, R464
(19_operator_access.md); R456, R457, R458 (19_operator_access.md); R18 (01_block_edges.md); R13 (01_block_edges.md)) -/
def Obligations.TheTapLoadsItsInstructionsAndRunsDebug : Prop :=
  ∀ s : State, s.edge.aonUp = true →
    let loads (i : Instr) (t : TapInstr) (w : Word) (l : List Session) : Prop := ∃ u : State, exec i s = .next u
      ∧ u.dbg.tap = t ∧ u.dbg.shiftOut = w ∧ u.dbg.sessions = l ∧ u.mem = s.mem ∧ u.edge = s.edge ∧ u.cmds = s.cmds
    let now := s.dbg.sessions
    let result (op a d : Nat) (st : BitVec 3) : BitVec 112 := BitVec.ofNat 112 (op * 2 ^ 108 + st.toNat * 2 ^ 104 + a % 2 ^ 40 * 2 ^ 64 + d % 2 ^ 64)
    let leaves (u : State) (r : BitVec 112) : State := { u with dbg := { u.dbg with result := r } }
    loads .testLogicReset .idcode 0x24E649AF (now.filter fun x => x != .jtag) ∧ loads .idcode .idcode 0x24E649AF now
      ∧ loads .extest .extest s.dbg.shiftOut now ∧ loads .highz .highz s.dbg.shiftOut now ∧ loads .clamp .clamp s.dbg.shiftOut now
      ∧ loads .bypass .bypass 0 now
      ∧ (∃ u : State, exec .testLogicReset s = .next u ∧ ∀ p, p < 64 → Session.jtag ∉ (u.pan p).holds)
      ∧ (∀ pins, exec (.samplePreload pins) s = .next { s with dbg := { s.dbg with tap := .samplePreload, boundary := pins } })
      ∧ (.jtag ∈ now → exec .dbg s = .next { s with dbg := { s.dbg with tap := .dbg } })
      ∧ (.jtag ∉ now → ∃ u : State, exec .dbg s = .next u ∧ u.dbg.tap = .dbg ∧ u.dbg.sessions = now ++ [.jtag]
        ∧ u.dbg.begun = satAdd s.dbg.begun 1 ∧ u.attest.debugEver = true)
      ∧ (s.dbg.tap = .dbg →
        exec .dbgNop s = .next (leaves s (result 0 0 0 0)) ∧ exec .dbgStatus s = .next (leaves s (result 7 0 s.debugStatus 0))
          ∧ ((s.power.sleep = .doze ∨ s.power.sleep = .slack ∨ s.edge.dark = true ∨ s.saltern.phase = .stopped) → ∀ (a : Addr) (d : DWord) (p : BitVec 6),
            (s.readHeld (a.toNat / 8 * 8) 8 = false → exec (.read8B a) s = .next (leaves s (result 1 a.toNat 0 2)))
            ∧ exec (.write8B a d) s = .next (leaves s.refuse (result 2 a.toNat 0 2))
            ∧ exec (.haltPan p) s = .next (leaves s (result 3 p.toNat 0 2)) ∧ exec (.resumePan p) s = .next (leaves s (result 4 p.toNat 0 2))
            ∧ exec .haltSaltern s = .next (leaves s (result 5 0 0 2)) ∧ exec .resumeSaltern s = .next (leaves s (result 6 0 0 2)))
          ∧ (s.power.sleep ≠ .doze → s.power.sleep ≠ .slack → s.edge.dark = false → s.saltern.phase ≠ .stopped →
            (∀ a : Addr, let b := a.toNat / 8 * 8
              b < reserveBase → s.fencedAt b 8 = false → s.marked b 8 = false →
                exec (.read8B a) s = .next (leaves s (result 1 a.toNat (leNat (s.read b 8)) 0)))
            ∧ (∀ (a : Addr) (d : DWord), let b := a.toNat / 8 * 8
              b < reserveBase → s.fencedAt b 8 = false → s.marked (b / 16 * 16) 16 = false → s.hitsSealed b 8 = false → s.kvHit b 8 = none →
                ∃ u : State, exec (.write8B a d) s = .next (leaves u (result 2 a.toNat 0 0)) ∧ u.read b 8 = leBytes 8 d.toNat
                  ∧ { u with mem := s.mem } = s ∧ ∀ x, ¬ (b ≤ x ∧ x < b + 8) → u.byte x = s.byte x)
            ∧ (∀ p : BitVec 6,
              ((s.pan p.toNat).bunded = true → exec (.haltPan p) s = .next (leaves s (result 3 p.toNat 0 5)))
              ∧ ((s.pan p.toNat).bunded = false → ∃ u : State, exec (.haltPan p) s = .next (leaves u (result 3 p.toNat 0 0))
                ∧ .jtag ∈ (u.pan p.toNat).holds ∧ (∀ q, q ≠ p.toNat → u.pan q = s.pan q) ∧ u.mem = s.mem ∧ u.edge = s.edge)
              ∧ ∃ u : State, exec (.resumePan p) s = .next (leaves u (result 4 p.toNat 0 0)) ∧ .jtag ∉ (u.pan p.toNat).holds
                ∧ (∀ x, x ≠ .jtag → (x ∈ (u.pan p.toNat).holds ↔ x ∈ (s.pan p.toNat).holds)) ∧ ∀ q, q ≠ p.toNat → u.pan q = s.pan q)
            ∧ exec .haltSaltern s = .next (leaves { s with saltern := { s.saltern with halted := true } } (result 5 0 0 0))
            ∧ (s.saltern.halted = false → exec .resumeSaltern s = .next (leaves s (result 6 0 0 0)))
            ∧ ∃ u : State, exec .resumeSaltern s = .next (leaves u (result 6 0 0 0)) ∧ u.saltern.halted = false))

/-- While the target is live, ENTDAA gives the address with the provisioned ID, and SETDASA to its static address gives it without, only
where it has none; RSTDAA drops it. GETPID, GETBCR, GETDCR and GETSTATUS answer with the fields of Tables 19.1 and 19.2; ENEC and DISEC
change nothing. REG_READ of one word that may be read makes the response OK and the word, or NOT_READY and zero before READY where the
register is not one always read. HOLD_SET and HOLD_CLEAR write the latch and respond 0. A private read returns the response from its
start. Nothing but the target changes. Before it is live it takes no part. The source of its clock switches to REFCLK unless it is lost,
and from it. (R449, R450,
R453, R454, R455 (19_operator_access.md); R452 (19_operator_access.md); R421, R423 (17_first_second.md)) -/
def Obligations.TheManagementBusAddressesReportsAndHolds : Prop :=
  ∀ s : State,
    let t := s.i3c
    let all (f : Instr → Prop) : Prop := f .rstdaa ∧ f .getpid ∧ f .getbcr ∧ f .getdcr ∧ f .getstatus ∧ f .holdSet ∧ f .holdClear
      ∧ (∀ a, f (.entdaa a)) ∧ (∀ a b, f (.setdasa a b)) ∧ (∀ o n, f (.regRead o n)) ∧ ∀ n, f (.i3cPrivateRead n)
    let pid := beBytes 6 (0x2A6E * 2 ^ 33 + 0x4E64 * 2 ^ 16 + t.addrSel.toNat * 2 ^ 12 + 0x021)
    let gives (i : Instr) (u : I3c) : Prop := exec i s = .next { s with i3c := u }
    (s.i3cLive = false → all fun i => exec i s = .next s)
      ∧ exec .enec s = .next s ∧ exec .disec s = .next s
      ∧ (s.edge.aonUp = true → ∀ b,
        (b = false ∨ s.edge.porst = false ∨ s.edge.refclkOk = true → gives (.i3cClockSourceSwitch b) { t with onRefclk := b })
          ∧ (b = true → s.edge.porst = true → s.edge.refclkOk = false → gives (.i3cClockSourceSwitch b) t))
      ∧ (s.i3cLive = true →
        (∀ a, (t.dynAddr = none → gives (.entdaa a) { t with dynAddr := some a, answer := pid ++ [0, 0] })
            ∧ (t.dynAddr ≠ none → gives (.entdaa a) t))
          ∧ (∀ a b : BitVec 7, (t.dynAddr = none → a.toNat = 0x50 + t.addrSel.toNat → gives (.setdasa a b) { t with dynAddr := some b })
            ∧ (t.dynAddr ≠ none ∨ a.toNat ≠ 0x50 + t.addrSel.toNat → gives (.setdasa a b) t))
          ∧ gives .rstdaa { t with dynAddr := none } ∧ gives .getpid { t with answer := pid }
          ∧ gives .getbcr { t with answer := [0] } ∧ gives .getdcr { t with answer := [0] }
          ∧ (∃ hi lo : Byte, gives .getstatus { t with answer := [hi, lo] } ∧ hi.getLsbD 7 = s.edge.ready
            ∧ fld hi.toNat 4 3 = phaseCode s.saltern.phase ∧ hi.getLsbD 3 = s.edge.faultLow ∧ hi.getLsbD 2 = t.holdLatch
            ∧ hi.getLsbD 1 = t.onRefclk ∧ hi.getLsbD 0 = false ∧ lo = 0)
          ∧ gives .holdSet { t with holdLatch := true, response := [0] } ∧ gives .holdClear { t with holdLatch := false, response := [0] }
          ∧ (∀ n, gives (.i3cPrivateRead n) { t with answer := t.response.take n.toNat })
          ∧ (∀ off : BitVec 16, off.toNat % 4 = 0 →
            gives (.regRead off 1) { t with response :=
              if s.edge.ready = false ∧ i3cAlways off.toNat = false then [1, 0, 0, 0, 0] else 0 :: leBytes 4 (s.glbWord off.toNat) })
          ∧ ∀ (off : BitVec 16) (n : Byte), s.edge.ready = true → off.toNat % 4 ≠ 0 →
            ∃ r : List Byte, gives (.regRead off n) { t with response := 3 :: r } ∧ r.length % 4 = 0 ∧ r.length ≤ 64)

/-- For every command and state, a step with that command at the front of the queue is exec of the command on the state with the queue's
rest. With an empty queue the block idles, which is the model's choice [log 10]. (R202, R203, R223 (08_decot_queues_tally.md)) -/
def Obligations.StepTakesTheFrontCommand : Prop :=
  (∀ (c : Instr) (rest : List Instr) (s : State), step { s with pending := c :: rest } = exec c { s with pending := rest })
    ∧ ∀ s : State, s.pending = [] → step s = .next s

/-- Whatever the state, no command ends in a fault or a refusal: what the spec rules out is answered with a status, recorded, or without
effect. So a step always answers a next state. (R18 (01_block_edges.md); R202, R203, R206, R214, R216 (08_decot_queues_tally.md); R433,
R436, R442 (18_containment.md)) -/
def Obligations.NoCommandStopsTheBlock : Prop :=
  (∀ (i : Instr) (s : State), ∃ t : State, exec i s = .next t) ∧ ∀ s : State, ∃ t : State, step s = .next t

/-- At reset READY is low, FAULT_N is released and both modules are down; GLB_VERSION reads 0x0002_0001, GLB_PWR_CFG 0x8F0, GLB_OP_CEIL
0x7777_7777, each PRT_PWR 0x40, and every other global register 0 but GLB_LC_STATE and the two boot registers, whose fields show blank
fuses and a boot not begun; committed values and shadows agree; no command, clear or commit is in flight, no pan runs or is bunded, no
sequence is bound, no key slot is filled and no event is logged. Memory lists nothing, which is its canonical form; a byte no one has
written reads 0, which is the model's choice [log 8]. (R7, R18 (01_block_edges.md); R299, R301 (11_power_clocks.md); R241, R243
(09_partitions.md); R446 (18_containment.md); R466 (19_operator_access.md)) -/
def Obligations.ResetLeavesTheSpecsValues : Prop :=
  let s := State.reset
  s.edge.ready = false ∧ s.edge.faultLow = false ∧ s.edge.stopped = false ∧ s.edge.ucie0 = .down ∧ s.edge.ucie1 = .down
    ∧ s.glbWord 0x000 = 0x00020001 ∧ s.glbWord 0x800 = 0x8F0 ∧ s.glbWord 0x804 = 0x77777777
    ∧ (∀ k, k < 1024 → k ∉ [0, 0x200, 0x201, 0x280, 0x300, 0x301] → s.glbWord (4 * k) = 0)
    ∧ (∀ p, p < 16 → s.cfg.part p = {} ∧ (s.cfg.part p).pwr = 0x40 ∧ s.inService p = false)
    ∧ s.shadow = s.cfg ∧ s.pending = [] ∧ s.cmds = [] ∧ s.commits = [] ∧ s.memSys.clears = [] ∧ s.attest.log = [] ∧ s.sent = []
    ∧ (∀ p, (s.pan p).run = none ∧ (s.pan p).held = none ∧ (s.pan p).bunded = false ∧ (s.pan p).arith = 0)
    ∧ (∀ n, s.key n = {}) ∧ s.poison = [] ∧ Memory.wf s.mem ∧ ∀ a, s.byte a = 0

/-- From every state whose memory is in canonical form, not only those a run reaches, whatever command is at the front of the queue, the
memory of the next state is in canonical form again, so that equal memories stay equal data. The form is the model's own. (R112
(05_memory_vaults.md); R131 (05_memory_vaults.md)) -/
def Obligations.EveryStepKeepsMemoryCanonical : Prop :=
  ∀ s t : State, Memory.wf s.mem → step s = .next t → Memory.wf t.mem

/-- In a stopped device no command but a fall of PORST_N and the loss of VDD_AON ends the stop. None of the others but a debug write, and
a sensor that reaches 125 °C, changes READY or FAULT_N, a byte of memory or a mark on one, sends a response, or accepts, starts or
completes a command. (R18, R20, R30 (01_block_edges.md); R434 (18_containment.md); R432 (18_containment.md)) -/
def Obligations.AStoppedDeviceStaysStopped : Prop :=
  ∀ (i : Instr) (s t : State), s.edge.stopped = true → (∀ left, i ≠ .porstNFall left) → i ≠ .vddAonLoss → exec i s = .next t →
    t.edge.stopped = true
      ∧ ((∀ a d, i ≠ .write8B a d) → i ≠ .thermShutdown → t.edge.ready = s.edge.ready ∧ t.edge.faultLow = s.edge.faultLow ∧ t.mem = s.mem
        ∧ t.poison = s.poison ∧ t.sent = s.sent
        ∧ t.cmds.map (fun c => (c.seq, c.started)) = s.cmds.map (fun c => (c.seq, c.started)))
end

