-- ==== Sys2Proof/Laws/Tables.lean ====
section
/-! SUPPORT. Laws of the sparse tables: what a table holds after each update, for every table, and that each update keeps the canonical
form. -/
namespace Sys2Proof

variable {α : Type}

@[simp] theorem Tab.look_nil (d : α) (k : Nat) : Tab.look ([] : Tab α) d k = d := rfl

theorem Tab.look_cons (m : Tab α) (d v : α) (k j : Nat) :
    Tab.look ((j, v) :: m) d k = if k = j then v else Tab.look m d k := rfl

/-- A table none of whose keys is the one asked for answers the default. -/
theorem Tab.look_absent (m : Tab α) (d : α) (k : Nat) (h : ∀ kv ∈ m, kv.1 ≠ k) : Tab.look m d k = d := by
  induction m with
  | nil => rfl
  | cons kv m ih =>
    obtain ⟨j, v⟩ := kv
    have hj : j ≠ k := h (j, v) (by simp)
    simp only [Tab.look_cons, Ne.symm hj, if_false]
    exact ih fun x hx => h x (List.mem_cons_of_mem _ hx)

theorem Tab.look_append_absent (m n : Tab α) (d : α) (k : Nat) (h : ∀ kv ∈ m, kv.1 ≠ k) :
    Tab.look (m ++ n) d k = Tab.look n d k := by
  induction m with
  | nil => rfl
  | cons kv m ih =>
    obtain ⟨j, v⟩ := kv
    have hj : j ≠ k := h (j, v) (by simp)
    simp only [List.cons_append, Tab.look_cons, Ne.symm hj, if_false]
    exact ih fun x hx => h x (List.mem_cons_of_mem _ hx)

theorem Tab.look_append_left (m n : Tab α) (d : α) (k : Nat) (h : ∀ kv ∈ n, kv.1 ≠ k) :
    Tab.look (m ++ n) d k = Tab.look m d k := by
  induction m with
  | nil => exact Tab.look_absent n d k h
  | cons kv m ih => obtain ⟨j, v⟩ := kv; simp only [List.cons_append, Tab.look_cons, ih]

/-- A table kept where a test of the key holds. -/
theorem Tab.look_filter (m : Tab α) (d : α) (p : Nat → Bool) (k : Nat) :
    Tab.look (m.filter fun kv => p kv.1) d k = if p k then Tab.look m d k else d := by
  induction m with
  | nil => simp
  | cons kv m ih =>
    obtain ⟨j, v⟩ := kv
    by_cases hp : p j <;> by_cases hk : k = j
    · subst hk; simp [Tab.look_cons, hp]
    · simp [Tab.look_cons, hp, hk, ih]
    · subst hk; simp [hp] at ih ⊢; simp [ih]
    · simp [Tab.look_cons, hp, hk, ih]

@[simp] theorem Tab.look_put_same [DecidableEq α] (m : Tab α) (d : α) (k : Nat) (v : α) : (m.put d k v).look d k = v := by
  unfold Tab.put
  rw [List.append_assoc, Tab.look_append_absent _ _ _ _ (by simp only [List.mem_filter]; rintro kv ⟨-, h⟩; simp at h; omega)]
  by_cases hv : v = d
  · subst hv; simp only [if_true, List.nil_append]
    exact Tab.look_absent _ _ _ (by simp only [List.mem_filter]; rintro kv ⟨-, h⟩; simp at h; omega)
  · simp [hv, Tab.look_cons]

theorem Tab.look_put_other [DecidableEq α] (m : Tab α) (d : α) (k j : Nat) (v : α) (h : j ≠ k) : (m.put d k v).look d j = m.look d j := by
  unfold Tab.put
  have hmid : ∀ kv ∈ (if v = d then [] else [(k, v)] : Tab α), kv.1 ≠ j := by
    intro kv; split <;> simp; rintro rfl; simp [Ne.symm h]
  by_cases hj : j < k
  · rw [Tab.look_append_left _ _ _ _ (by simp only [List.mem_filter]; rintro kv ⟨-, hk⟩; simp at hk; omega),
      Tab.look_append_left _ _ _ _ hmid, Tab.look_filter m d (fun x => decide (x < k))]
    simp [hj]
  · rw [List.append_assoc,
      Tab.look_append_absent _ _ _ _ (by simp only [List.mem_filter]; rintro kv ⟨-, hk⟩; simp at hk; omega),
      Tab.look_append_absent _ _ _ _ hmid, Tab.look_filter m d (fun x => decide (k < x))]
    simp [show k < j by omega]

@[simp] theorem Tab.look_put [DecidableEq α] (m : Tab α) (d : α) (k j : Nat) (v : α) :
    (m.put d k v).look d j = if j = k then v else m.look d j := by
  split
  · subst_vars; exact Tab.look_put_same m d _ v
  · exact Tab.look_put_other m d k j v (by assumption)

theorem Tab.look_wipe (m : Tab α) (d : α) (a n k : Nat) :
    (m.wipe a n).look d k = if a ≤ k ∧ k < a + n then d else m.look d k := by
  unfold Tab.wipe
  rw [Tab.look_filter m d (fun x => decide (x < a) || decide (a + n ≤ x))]
  by_cases h : a ≤ k ∧ k < a + n
  · rw [if_pos h]; simp; omega
  · rw [if_neg h, if_pos]; simp; omega

theorem Tab.look_zipIdx [DecidableEq α] (d : α) (vs : List α) (a k : Nat) :
    Tab.look (((vs.zipIdx a).map fun vi => (vi.2, vi.1)).filter (fun kv => kv.2 ≠ d)) d k
      = if a ≤ k ∧ k < a + vs.length then vs.getD (k - a) d else d := by
  induction vs generalizing a with
  | nil => simp
  | cons v vs ih =>
    simp only [List.zipIdx_cons, List.map_cons, List.filter_cons]
    by_cases hv : v = d
    · simp only [hv, ne_eq, not_true_eq_false, decide_false, Bool.false_eq_true, if_false]
      have := ih (a + 1); simp only [ne_eq] at this; rw [this]
      by_cases hk : k = a
      · subst hk; simp
      · by_cases h1 : a + 1 ≤ k ∧ k < a + 1 + vs.length
        · rw [if_pos h1, if_pos (by simp; omega)]
          obtain ⟨m, rfl⟩ : ∃ m, k = a + 1 + m := ⟨k - (a + 1), by omega⟩
          simp [show a + 1 + m - a = m + 1 by omega]
        · rw [if_neg h1, if_neg (by simp; omega)]
    · simp only [hv, ne_eq, not_false_eq_true, decide_true, if_true, Tab.look_cons]
      have := ih (a + 1); simp only [ne_eq] at this; rw [this]
      by_cases hk : k = a
      · subst hk; simp
      · rw [if_neg hk]
        by_cases h1 : a + 1 ≤ k ∧ k < a + 1 + vs.length
        · rw [if_pos h1, if_pos (by simp; omega)]
          obtain ⟨m, rfl⟩ : ∃ m, k = a + 1 + m := ⟨k - (a + 1), by omega⟩
          simp [show a + 1 + m - a = m + 1 by omega]
        · rw [if_neg h1, if_neg (by simp; omega)]

/-- A run of values: the value at its place inside the run, the old table outside it. -/
theorem Tab.look_span [DecidableEq α] (m : Tab α) (d : α) (a k : Nat) (vs : List α) :
    (m.span d a vs).look d k = if a ≤ k ∧ k < a + vs.length then vs.getD (k - a) d else m.look d k := by
  unfold Tab.span
  have hmid : ∀ kv ∈ ((vs.zipIdx a).map fun vi => (vi.2, vi.1)).filter (fun kv => kv.2 ≠ d), a ≤ kv.1 ∧ kv.1 < a + vs.length := by
    rintro ⟨j, v⟩ h
    simp only [List.mem_filter, List.mem_map, Prod.mk.injEq, Prod.exists] at h
    obtain ⟨⟨x, i, hx, rfl, rfl⟩, -⟩ := h
    have := List.mem_zipIdx hx
    omega
  by_cases h1 : k < a
  · rw [Tab.look_append_left _ _ _ _ (by simp only [List.mem_filter]; rintro kv ⟨-, hk⟩; simp at hk; omega),
      Tab.look_append_left _ _ _ _ (fun kv hk => by have := hmid kv hk; omega),
      Tab.look_filter m d (fun x => decide (x < a))]
    simp [h1, show ¬ (a ≤ k ∧ k < a + vs.length) by omega]
  · rw [List.append_assoc,
      Tab.look_append_absent _ _ _ _ (by simp only [List.mem_filter]; rintro kv ⟨-, hk⟩; simp at hk; omega)]
    by_cases h2 : k < a + vs.length
    · rw [Tab.look_append_left _ _ _ _ (by simp only [List.mem_filter]; rintro kv ⟨-, hk⟩; simp at hk; omega),
        Tab.look_zipIdx, if_pos (by omega), if_pos (by omega)]
    · rw [Tab.look_append_absent _ _ _ _ (fun kv hk => by have := hmid kv hk; omega),
        Tab.look_filter m d (fun x => decide (a + vs.length ≤ x))]
      simp [h2, show a + vs.length ≤ k by omega]

-- ## The canonical form

theorem Tab.wf_nil [DecidableEq α] (d : α) : Tab.wf ([] : Tab α) d := by simp [Tab.wf]

theorem Tab.wf_filter [DecidableEq α] {m : Tab α} {d : α} (p : Nat × α → Bool) (h : Tab.wf m d) : Tab.wf (m.filter p) d :=
  ⟨h.1.filter _, fun kv hk => h.2 kv (List.mem_filter.mp hk).1⟩

theorem Tab.wf_append [DecidableEq α] {m n : Tab α} {d : α} (hm : Tab.wf m d) (hn : Tab.wf n d) (h : ∀ x ∈ m, ∀ y ∈ n, x.1 < y.1) :
    Tab.wf (m ++ n) d :=
  ⟨List.pairwise_append.mpr ⟨hm.1, hn.1, h⟩, fun kv hk => (List.mem_append.mp hk).elim (hm.2 kv) (hn.2 kv)⟩

theorem Tab.wf_wipe [DecidableEq α] {m : Tab α} {d : α} (a n : Nat) (h : Tab.wf m d) : Tab.wf (m.wipe a n) d := Tab.wf_filter _ h

theorem Tab.wf_put [DecidableEq α] {m : Tab α} {d : α} (k : Nat) (v : α) (h : Tab.wf m d) : Tab.wf (m.put d k v) d := by
  unfold Tab.put
  refine Tab.wf_append (Tab.wf_append (Tab.wf_filter _ h) ?_ ?_) (Tab.wf_filter _ h) ?_
  · split
    · exact Tab.wf_nil d
    · exact ⟨by simp, by simpa⟩
  · intro x hx y hy
    simp only [List.mem_filter, decide_eq_true_eq] at hx
    split at hy <;> simp at hy
    subst hy; exact hx.2
  · intro x hx y hy
    simp only [List.mem_filter, decide_eq_true_eq, List.mem_append] at hx hy
    rcases hx with hx | hx
    · omega
    · split at hx <;> simp at hx
      subst hx; exact hy.2

theorem Tab.wf_zipIdx [DecidableEq α] (d : α) (vs : List α) (a : Nat) :
    Tab.wf (((vs.zipIdx a).map fun vi => (vi.2, vi.1)).filter (fun kv => kv.2 ≠ d)) d := by
  refine ⟨List.Pairwise.filter _ ?_, fun kv hk => by simpa using (List.mem_filter.mp hk).2⟩
  induction vs generalizing a with
  | nil => simp
  | cons v vs ih =>
    simp only [List.zipIdx_cons, List.map_cons, List.pairwise_cons]
    refine ⟨?_, ih (a + 1)⟩
    rintro ⟨j, w⟩ h
    simp only [List.mem_map, Prod.mk.injEq, Prod.exists] at h
    obtain ⟨x, i, hx, rfl, rfl⟩ := h
    have := List.mem_zipIdx hx
    omega

theorem Tab.wf_span [DecidableEq α] {m : Tab α} {d : α} (a : Nat) (vs : List α) (h : Tab.wf m d) : Tab.wf (m.span d a vs) d := by
  unfold Tab.span
  have hmid : ∀ kv ∈ ((vs.zipIdx a).map fun vi => (vi.2, vi.1)).filter (fun kv => kv.2 ≠ d), a ≤ kv.1 ∧ kv.1 < a + vs.length := by
    rintro ⟨j, v⟩ h
    simp only [List.mem_filter, List.mem_map, Prod.mk.injEq, Prod.exists] at h
    obtain ⟨⟨x, i, hx, rfl, rfl⟩, -⟩ := h
    have := List.mem_zipIdx hx
    omega
  refine Tab.wf_append (Tab.wf_append (Tab.wf_filter _ h) (Tab.wf_zipIdx d vs a) ?_) (Tab.wf_filter _ h) ?_
  · intro x hx y hy
    have := hmid y hy
    simp only [List.mem_filter, decide_eq_true_eq] at hx
    omega
  · intro x hx y hy
    simp only [List.mem_filter, decide_eq_true_eq] at hy
    rcases List.mem_append.mp hx with hx | hx
    · simp only [List.mem_filter, decide_eq_true_eq] at hx; omega
    · have := hmid x hx; omega

end Sys2Proof
end

