-- ==== Sys2Proof/Laws/State.lean ====
section
/-! SUPPORT. One lemma per field of the state per update of it, so that no later proof unfolds a record update; and what each table
answers after an update. -/
namespace Sys2Proof.Machine

-- ## setPart

@[simp] theorem State.setPart_pending (s : State) (p : Nat) (v : Part) : (s.setPart p v).pending = s.pending := rfl
@[simp] theorem State.setPart_drawn (s : State) (p : Nat) (v : Part) : (s.setPart p v).drawn = s.drawn := rfl
@[simp] theorem State.setPart_edge (s : State) (p : Nat) (v : Part) : (s.setPart p v).edge = s.edge := rfl
@[simp] theorem State.setPart_i3c (s : State) (p : Nat) (v : Part) : (s.setPart p v).i3c = s.i3c := rfl
@[simp] theorem State.setPart_dbg (s : State) (p : Nat) (v : Part) : (s.setPart p v).dbg = s.dbg := rfl
@[simp] theorem State.setPart_mem (s : State) (p : Nat) (v : Part) : (s.setPart p v).mem = s.mem := rfl
@[simp] theorem State.setPart_poison (s : State) (p : Nat) (v : Part) : (s.setPart p v).poison = s.poison := rfl
@[simp] theorem State.setPart_latches (s : State) (p : Nat) (v : Part) : (s.setPart p v).latches = s.latches := rfl
@[simp] theorem State.setPart_memSys (s : State) (p : Nat) (v : Part) : (s.setPart p v).memSys = s.memSys := rfl
@[simp] theorem State.setPart_cfg (s : State) (p : Nat) (v : Part) : (s.setPart p v).cfg = s.cfg := rfl
@[simp] theorem State.setPart_shadow (s : State) (p : Nat) (v : Part) : (s.setPart p v).shadow = s.shadow := rfl
@[simp] theorem State.setPart_commits (s : State) (p : Nat) (v : Part) : (s.setPart p v).commits = s.commits := rfl
@[simp] theorem State.setPart_parts (s : State) (p : Nat) (v : Part) : (s.setPart p v).parts = s.parts.put {} p v := rfl
@[simp] theorem State.setPart_ctxs (s : State) (p : Nat) (v : Part) : (s.setPart p v).ctxs = s.ctxs := rfl
@[simp] theorem State.setPart_seqs (s : State) (p : Nat) (v : Part) : (s.setPart p v).seqs = s.seqs := rfl
@[simp] theorem State.setPart_cmds (s : State) (p : Nat) (v : Part) : (s.setPart p v).cmds = s.cmds := rfl
@[simp] theorem State.setPart_pans (s : State) (p : Nat) (v : Part) : (s.setPart p v).pans = s.pans := rfl
@[simp] theorem State.setPart_slots (s : State) (p : Nat) (v : Part) : (s.setPart p v).slots = s.slots := rfl
@[simp] theorem State.setPart_tally (s : State) (p : Nat) (v : Part) : (s.setPart p v).tally = s.tally := rfl
@[simp] theorem State.setPart_power (s : State) (p : Nat) (v : Part) : (s.setPart p v).power = s.power := rfl
@[simp] theorem State.setPart_groups (s : State) (p : Nat) (v : Part) : (s.setPart p v).groups = s.groups := rfl
@[simp] theorem State.setPart_saltern (s : State) (p : Nat) (v : Part) : (s.setPart p v).saltern = s.saltern := rfl
@[simp] theorem State.setPart_otp (s : State) (p : Nat) (v : Part) : (s.setPart p v).otp = s.otp := rfl
@[simp] theorem State.setPart_chans (s : State) (p : Nat) (v : Part) : (s.setPart p v).chans = s.chans := rfl
@[simp] theorem State.setPart_eng (s : State) (p : Nat) (v : Part) : (s.setPart p v).eng = s.eng := rfl
@[simp] theorem State.setPart_boot (s : State) (p : Nat) (v : Part) : (s.setPart p v).boot = s.boot := rfl
@[simp] theorem State.setPart_flash (s : State) (p : Nat) (v : Part) : (s.setPart p v).flash = s.flash := rfl
@[simp] theorem State.setPart_attest (s : State) (p : Nat) (v : Part) : (s.setPart p v).attest = s.attest := rfl
@[simp] theorem State.setPart_errs (s : State) (p : Nat) (v : Part) : (s.setPart p v).errs = s.errs := rfl
@[simp] theorem State.setPart_sent (s : State) (p : Nat) (v : Part) : (s.setPart p v).sent = s.sent := rfl
@[simp] theorem State.setPart_part (s : State) (p : Nat) (v : Part) (j : Nat) :
    (s.setPart p v).part j = if j = p then v else s.part j := Tab.look_put _ _ _ _ _
@[simp] theorem State.setPart_pan (s : State) (p : Nat) (v : Part) (j : Nat) : (s.setPart p v).pan j = s.pan j := rfl
@[simp] theorem State.setPart_slot (s : State) (p : Nat) (v : Part) (j : Nat) : (s.setPart p v).slot j = s.slot j := rfl
@[simp] theorem State.setPart_ctx (s : State) (p : Nat) (v : Part) (j : Nat) : (s.setPart p v).ctx j = s.ctx j := rfl
@[simp] theorem State.setPart_seqH (s : State) (p : Nat) (v : Part) (j : Nat) : (s.setPart p v).seqH j = s.seqH j := rfl
@[simp] theorem State.setPart_group (s : State) (p : Nat) (v : Part) (j : Nat) : (s.setPart p v).group j = s.group j := rfl
@[simp] theorem State.setPart_chan (s : State) (p : Nat) (v : Part) (j : Nat) : (s.setPart p v).chan j = s.chan j := rfl

-- ## setPan

@[simp] theorem State.setPan_pending (s : State) (p : Nat) (v : Pan) : (s.setPan p v).pending = s.pending := rfl
@[simp] theorem State.setPan_drawn (s : State) (p : Nat) (v : Pan) : (s.setPan p v).drawn = s.drawn := rfl
@[simp] theorem State.setPan_edge (s : State) (p : Nat) (v : Pan) : (s.setPan p v).edge = s.edge := rfl
@[simp] theorem State.setPan_i3c (s : State) (p : Nat) (v : Pan) : (s.setPan p v).i3c = s.i3c := rfl
@[simp] theorem State.setPan_dbg (s : State) (p : Nat) (v : Pan) : (s.setPan p v).dbg = s.dbg := rfl
@[simp] theorem State.setPan_mem (s : State) (p : Nat) (v : Pan) : (s.setPan p v).mem = s.mem := rfl
@[simp] theorem State.setPan_poison (s : State) (p : Nat) (v : Pan) : (s.setPan p v).poison = s.poison := rfl
@[simp] theorem State.setPan_latches (s : State) (p : Nat) (v : Pan) : (s.setPan p v).latches = s.latches := rfl
@[simp] theorem State.setPan_memSys (s : State) (p : Nat) (v : Pan) : (s.setPan p v).memSys = s.memSys := rfl
@[simp] theorem State.setPan_cfg (s : State) (p : Nat) (v : Pan) : (s.setPan p v).cfg = s.cfg := rfl
@[simp] theorem State.setPan_shadow (s : State) (p : Nat) (v : Pan) : (s.setPan p v).shadow = s.shadow := rfl
@[simp] theorem State.setPan_commits (s : State) (p : Nat) (v : Pan) : (s.setPan p v).commits = s.commits := rfl
@[simp] theorem State.setPan_parts (s : State) (p : Nat) (v : Pan) : (s.setPan p v).parts = s.parts := rfl
@[simp] theorem State.setPan_ctxs (s : State) (p : Nat) (v : Pan) : (s.setPan p v).ctxs = s.ctxs := rfl
@[simp] theorem State.setPan_seqs (s : State) (p : Nat) (v : Pan) : (s.setPan p v).seqs = s.seqs := rfl
@[simp] theorem State.setPan_cmds (s : State) (p : Nat) (v : Pan) : (s.setPan p v).cmds = s.cmds := rfl
@[simp] theorem State.setPan_pans (s : State) (p : Nat) (v : Pan) : (s.setPan p v).pans = s.pans.put {} p v := rfl
@[simp] theorem State.setPan_slots (s : State) (p : Nat) (v : Pan) : (s.setPan p v).slots = s.slots := rfl
@[simp] theorem State.setPan_tally (s : State) (p : Nat) (v : Pan) : (s.setPan p v).tally = s.tally := rfl
@[simp] theorem State.setPan_power (s : State) (p : Nat) (v : Pan) : (s.setPan p v).power = s.power := rfl
@[simp] theorem State.setPan_groups (s : State) (p : Nat) (v : Pan) : (s.setPan p v).groups = s.groups := rfl
@[simp] theorem State.setPan_saltern (s : State) (p : Nat) (v : Pan) : (s.setPan p v).saltern = s.saltern := rfl
@[simp] theorem State.setPan_otp (s : State) (p : Nat) (v : Pan) : (s.setPan p v).otp = s.otp := rfl
@[simp] theorem State.setPan_chans (s : State) (p : Nat) (v : Pan) : (s.setPan p v).chans = s.chans := rfl
@[simp] theorem State.setPan_eng (s : State) (p : Nat) (v : Pan) : (s.setPan p v).eng = s.eng := rfl
@[simp] theorem State.setPan_boot (s : State) (p : Nat) (v : Pan) : (s.setPan p v).boot = s.boot := rfl
@[simp] theorem State.setPan_flash (s : State) (p : Nat) (v : Pan) : (s.setPan p v).flash = s.flash := rfl
@[simp] theorem State.setPan_attest (s : State) (p : Nat) (v : Pan) : (s.setPan p v).attest = s.attest := rfl
@[simp] theorem State.setPan_errs (s : State) (p : Nat) (v : Pan) : (s.setPan p v).errs = s.errs := rfl
@[simp] theorem State.setPan_sent (s : State) (p : Nat) (v : Pan) : (s.setPan p v).sent = s.sent := rfl
@[simp] theorem State.setPan_part (s : State) (p : Nat) (v : Pan) (j : Nat) : (s.setPan p v).part j = s.part j := rfl
@[simp] theorem State.setPan_pan (s : State) (p : Nat) (v : Pan) (j : Nat) :
    (s.setPan p v).pan j = if j = p then v else s.pan j := Tab.look_put _ _ _ _ _
@[simp] theorem State.setPan_slot (s : State) (p : Nat) (v : Pan) (j : Nat) : (s.setPan p v).slot j = s.slot j := rfl
@[simp] theorem State.setPan_ctx (s : State) (p : Nat) (v : Pan) (j : Nat) : (s.setPan p v).ctx j = s.ctx j := rfl
@[simp] theorem State.setPan_seqH (s : State) (p : Nat) (v : Pan) (j : Nat) : (s.setPan p v).seqH j = s.seqH j := rfl
@[simp] theorem State.setPan_group (s : State) (p : Nat) (v : Pan) (j : Nat) : (s.setPan p v).group j = s.group j := rfl
@[simp] theorem State.setPan_chan (s : State) (p : Nat) (v : Pan) (j : Nat) : (s.setPan p v).chan j = s.chan j := rfl

-- ## setSlot

@[simp] theorem State.setSlot_pending (s : State) (i : Nat) (v : Slot) : (s.setSlot i v).pending = s.pending := rfl
@[simp] theorem State.setSlot_drawn (s : State) (i : Nat) (v : Slot) : (s.setSlot i v).drawn = s.drawn := rfl
@[simp] theorem State.setSlot_edge (s : State) (i : Nat) (v : Slot) : (s.setSlot i v).edge = s.edge := rfl
@[simp] theorem State.setSlot_i3c (s : State) (i : Nat) (v : Slot) : (s.setSlot i v).i3c = s.i3c := rfl
@[simp] theorem State.setSlot_dbg (s : State) (i : Nat) (v : Slot) : (s.setSlot i v).dbg = s.dbg := rfl
@[simp] theorem State.setSlot_mem (s : State) (i : Nat) (v : Slot) : (s.setSlot i v).mem = s.mem := rfl
@[simp] theorem State.setSlot_poison (s : State) (i : Nat) (v : Slot) : (s.setSlot i v).poison = s.poison := rfl
@[simp] theorem State.setSlot_latches (s : State) (i : Nat) (v : Slot) : (s.setSlot i v).latches = s.latches := rfl
@[simp] theorem State.setSlot_memSys (s : State) (i : Nat) (v : Slot) : (s.setSlot i v).memSys = s.memSys := rfl
@[simp] theorem State.setSlot_cfg (s : State) (i : Nat) (v : Slot) : (s.setSlot i v).cfg = s.cfg := rfl
@[simp] theorem State.setSlot_shadow (s : State) (i : Nat) (v : Slot) : (s.setSlot i v).shadow = s.shadow := rfl
@[simp] theorem State.setSlot_commits (s : State) (i : Nat) (v : Slot) : (s.setSlot i v).commits = s.commits := rfl
@[simp] theorem State.setSlot_parts (s : State) (i : Nat) (v : Slot) : (s.setSlot i v).parts = s.parts := rfl
@[simp] theorem State.setSlot_ctxs (s : State) (i : Nat) (v : Slot) : (s.setSlot i v).ctxs = s.ctxs := rfl
@[simp] theorem State.setSlot_seqs (s : State) (i : Nat) (v : Slot) : (s.setSlot i v).seqs = s.seqs := rfl
@[simp] theorem State.setSlot_cmds (s : State) (i : Nat) (v : Slot) : (s.setSlot i v).cmds = s.cmds := rfl
@[simp] theorem State.setSlot_pans (s : State) (i : Nat) (v : Slot) : (s.setSlot i v).pans = s.pans := rfl
@[simp] theorem State.setSlot_slots (s : State) (i : Nat) (v : Slot) : (s.setSlot i v).slots = s.slots.put {} i v := rfl
@[simp] theorem State.setSlot_tally (s : State) (i : Nat) (v : Slot) : (s.setSlot i v).tally = s.tally := rfl
@[simp] theorem State.setSlot_power (s : State) (i : Nat) (v : Slot) : (s.setSlot i v).power = s.power := rfl
@[simp] theorem State.setSlot_groups (s : State) (i : Nat) (v : Slot) : (s.setSlot i v).groups = s.groups := rfl
@[simp] theorem State.setSlot_saltern (s : State) (i : Nat) (v : Slot) : (s.setSlot i v).saltern = s.saltern := rfl
@[simp] theorem State.setSlot_otp (s : State) (i : Nat) (v : Slot) : (s.setSlot i v).otp = s.otp := rfl
@[simp] theorem State.setSlot_chans (s : State) (i : Nat) (v : Slot) : (s.setSlot i v).chans = s.chans := rfl
@[simp] theorem State.setSlot_eng (s : State) (i : Nat) (v : Slot) : (s.setSlot i v).eng = s.eng := rfl
@[simp] theorem State.setSlot_boot (s : State) (i : Nat) (v : Slot) : (s.setSlot i v).boot = s.boot := rfl
@[simp] theorem State.setSlot_flash (s : State) (i : Nat) (v : Slot) : (s.setSlot i v).flash = s.flash := rfl
@[simp] theorem State.setSlot_attest (s : State) (i : Nat) (v : Slot) : (s.setSlot i v).attest = s.attest := rfl
@[simp] theorem State.setSlot_errs (s : State) (i : Nat) (v : Slot) : (s.setSlot i v).errs = s.errs := rfl
@[simp] theorem State.setSlot_sent (s : State) (i : Nat) (v : Slot) : (s.setSlot i v).sent = s.sent := rfl
@[simp] theorem State.setSlot_part (s : State) (i : Nat) (v : Slot) (j : Nat) : (s.setSlot i v).part j = s.part j := rfl
@[simp] theorem State.setSlot_pan (s : State) (i : Nat) (v : Slot) (j : Nat) : (s.setSlot i v).pan j = s.pan j := rfl
@[simp] theorem State.setSlot_slot (s : State) (i : Nat) (v : Slot) (j : Nat) :
    (s.setSlot i v).slot j = if j = i then v else s.slot j := Tab.look_put _ _ _ _ _
@[simp] theorem State.setSlot_ctx (s : State) (i : Nat) (v : Slot) (j : Nat) : (s.setSlot i v).ctx j = s.ctx j := rfl
@[simp] theorem State.setSlot_seqH (s : State) (i : Nat) (v : Slot) (j : Nat) : (s.setSlot i v).seqH j = s.seqH j := rfl
@[simp] theorem State.setSlot_group (s : State) (i : Nat) (v : Slot) (j : Nat) : (s.setSlot i v).group j = s.group j := rfl
@[simp] theorem State.setSlot_chan (s : State) (i : Nat) (v : Slot) (j : Nat) : (s.setSlot i v).chan j = s.chan j := rfl

-- ## setCtx

@[simp] theorem State.setCtx_pending (s : State) (q : Nat) (v : Ctx) : (s.setCtx q v).pending = s.pending := rfl
@[simp] theorem State.setCtx_drawn (s : State) (q : Nat) (v : Ctx) : (s.setCtx q v).drawn = s.drawn := rfl
@[simp] theorem State.setCtx_edge (s : State) (q : Nat) (v : Ctx) : (s.setCtx q v).edge = s.edge := rfl
@[simp] theorem State.setCtx_i3c (s : State) (q : Nat) (v : Ctx) : (s.setCtx q v).i3c = s.i3c := rfl
@[simp] theorem State.setCtx_dbg (s : State) (q : Nat) (v : Ctx) : (s.setCtx q v).dbg = s.dbg := rfl
@[simp] theorem State.setCtx_mem (s : State) (q : Nat) (v : Ctx) : (s.setCtx q v).mem = s.mem := rfl
@[simp] theorem State.setCtx_poison (s : State) (q : Nat) (v : Ctx) : (s.setCtx q v).poison = s.poison := rfl
@[simp] theorem State.setCtx_latches (s : State) (q : Nat) (v : Ctx) : (s.setCtx q v).latches = s.latches := rfl
@[simp] theorem State.setCtx_memSys (s : State) (q : Nat) (v : Ctx) : (s.setCtx q v).memSys = s.memSys := rfl
@[simp] theorem State.setCtx_cfg (s : State) (q : Nat) (v : Ctx) : (s.setCtx q v).cfg = s.cfg := rfl
@[simp] theorem State.setCtx_shadow (s : State) (q : Nat) (v : Ctx) : (s.setCtx q v).shadow = s.shadow := rfl
@[simp] theorem State.setCtx_commits (s : State) (q : Nat) (v : Ctx) : (s.setCtx q v).commits = s.commits := rfl
@[simp] theorem State.setCtx_parts (s : State) (q : Nat) (v : Ctx) : (s.setCtx q v).parts = s.parts := rfl
@[simp] theorem State.setCtx_ctxs (s : State) (q : Nat) (v : Ctx) : (s.setCtx q v).ctxs = s.ctxs.put {} q v := rfl
@[simp] theorem State.setCtx_seqs (s : State) (q : Nat) (v : Ctx) : (s.setCtx q v).seqs = s.seqs := rfl
@[simp] theorem State.setCtx_cmds (s : State) (q : Nat) (v : Ctx) : (s.setCtx q v).cmds = s.cmds := rfl
@[simp] theorem State.setCtx_pans (s : State) (q : Nat) (v : Ctx) : (s.setCtx q v).pans = s.pans := rfl
@[simp] theorem State.setCtx_slots (s : State) (q : Nat) (v : Ctx) : (s.setCtx q v).slots = s.slots := rfl
@[simp] theorem State.setCtx_tally (s : State) (q : Nat) (v : Ctx) : (s.setCtx q v).tally = s.tally := rfl
@[simp] theorem State.setCtx_power (s : State) (q : Nat) (v : Ctx) : (s.setCtx q v).power = s.power := rfl
@[simp] theorem State.setCtx_groups (s : State) (q : Nat) (v : Ctx) : (s.setCtx q v).groups = s.groups := rfl
@[simp] theorem State.setCtx_saltern (s : State) (q : Nat) (v : Ctx) : (s.setCtx q v).saltern = s.saltern := rfl
@[simp] theorem State.setCtx_otp (s : State) (q : Nat) (v : Ctx) : (s.setCtx q v).otp = s.otp := rfl
@[simp] theorem State.setCtx_chans (s : State) (q : Nat) (v : Ctx) : (s.setCtx q v).chans = s.chans := rfl
@[simp] theorem State.setCtx_eng (s : State) (q : Nat) (v : Ctx) : (s.setCtx q v).eng = s.eng := rfl
@[simp] theorem State.setCtx_boot (s : State) (q : Nat) (v : Ctx) : (s.setCtx q v).boot = s.boot := rfl
@[simp] theorem State.setCtx_flash (s : State) (q : Nat) (v : Ctx) : (s.setCtx q v).flash = s.flash := rfl
@[simp] theorem State.setCtx_attest (s : State) (q : Nat) (v : Ctx) : (s.setCtx q v).attest = s.attest := rfl
@[simp] theorem State.setCtx_errs (s : State) (q : Nat) (v : Ctx) : (s.setCtx q v).errs = s.errs := rfl
@[simp] theorem State.setCtx_sent (s : State) (q : Nat) (v : Ctx) : (s.setCtx q v).sent = s.sent := rfl
@[simp] theorem State.setCtx_part (s : State) (q : Nat) (v : Ctx) (j : Nat) : (s.setCtx q v).part j = s.part j := rfl
@[simp] theorem State.setCtx_pan (s : State) (q : Nat) (v : Ctx) (j : Nat) : (s.setCtx q v).pan j = s.pan j := rfl
@[simp] theorem State.setCtx_slot (s : State) (q : Nat) (v : Ctx) (j : Nat) : (s.setCtx q v).slot j = s.slot j := rfl
@[simp] theorem State.setCtx_ctx (s : State) (q : Nat) (v : Ctx) (j : Nat) :
    (s.setCtx q v).ctx j = if j = q then v else s.ctx j := Tab.look_put _ _ _ _ _
@[simp] theorem State.setCtx_seqH (s : State) (q : Nat) (v : Ctx) (j : Nat) : (s.setCtx q v).seqH j = s.seqH j := rfl
@[simp] theorem State.setCtx_group (s : State) (q : Nat) (v : Ctx) (j : Nat) : (s.setCtx q v).group j = s.group j := rfl
@[simp] theorem State.setCtx_chan (s : State) (q : Nat) (v : Ctx) (j : Nat) : (s.setCtx q v).chan j = s.chan j := rfl

-- ## setSeq

@[simp] theorem State.setSeq_pending (s : State) (h : Nat) (v : Seq) : (s.setSeq h v).pending = s.pending := rfl
@[simp] theorem State.setSeq_drawn (s : State) (h : Nat) (v : Seq) : (s.setSeq h v).drawn = s.drawn := rfl
@[simp] theorem State.setSeq_edge (s : State) (h : Nat) (v : Seq) : (s.setSeq h v).edge = s.edge := rfl
@[simp] theorem State.setSeq_i3c (s : State) (h : Nat) (v : Seq) : (s.setSeq h v).i3c = s.i3c := rfl
@[simp] theorem State.setSeq_dbg (s : State) (h : Nat) (v : Seq) : (s.setSeq h v).dbg = s.dbg := rfl
@[simp] theorem State.setSeq_mem (s : State) (h : Nat) (v : Seq) : (s.setSeq h v).mem = s.mem := rfl
@[simp] theorem State.setSeq_poison (s : State) (h : Nat) (v : Seq) : (s.setSeq h v).poison = s.poison := rfl
@[simp] theorem State.setSeq_latches (s : State) (h : Nat) (v : Seq) : (s.setSeq h v).latches = s.latches := rfl
@[simp] theorem State.setSeq_memSys (s : State) (h : Nat) (v : Seq) : (s.setSeq h v).memSys = s.memSys := rfl
@[simp] theorem State.setSeq_cfg (s : State) (h : Nat) (v : Seq) : (s.setSeq h v).cfg = s.cfg := rfl
@[simp] theorem State.setSeq_shadow (s : State) (h : Nat) (v : Seq) : (s.setSeq h v).shadow = s.shadow := rfl
@[simp] theorem State.setSeq_commits (s : State) (h : Nat) (v : Seq) : (s.setSeq h v).commits = s.commits := rfl
@[simp] theorem State.setSeq_parts (s : State) (h : Nat) (v : Seq) : (s.setSeq h v).parts = s.parts := rfl
@[simp] theorem State.setSeq_ctxs (s : State) (h : Nat) (v : Seq) : (s.setSeq h v).ctxs = s.ctxs := rfl
@[simp] theorem State.setSeq_seqs (s : State) (h : Nat) (v : Seq) : (s.setSeq h v).seqs = s.seqs.put {} h v := rfl
@[simp] theorem State.setSeq_cmds (s : State) (h : Nat) (v : Seq) : (s.setSeq h v).cmds = s.cmds := rfl
@[simp] theorem State.setSeq_pans (s : State) (h : Nat) (v : Seq) : (s.setSeq h v).pans = s.pans := rfl
@[simp] theorem State.setSeq_slots (s : State) (h : Nat) (v : Seq) : (s.setSeq h v).slots = s.slots := rfl
@[simp] theorem State.setSeq_tally (s : State) (h : Nat) (v : Seq) : (s.setSeq h v).tally = s.tally := rfl
@[simp] theorem State.setSeq_power (s : State) (h : Nat) (v : Seq) : (s.setSeq h v).power = s.power := rfl
@[simp] theorem State.setSeq_groups (s : State) (h : Nat) (v : Seq) : (s.setSeq h v).groups = s.groups := rfl
@[simp] theorem State.setSeq_saltern (s : State) (h : Nat) (v : Seq) : (s.setSeq h v).saltern = s.saltern := rfl
@[simp] theorem State.setSeq_otp (s : State) (h : Nat) (v : Seq) : (s.setSeq h v).otp = s.otp := rfl
@[simp] theorem State.setSeq_chans (s : State) (h : Nat) (v : Seq) : (s.setSeq h v).chans = s.chans := rfl
@[simp] theorem State.setSeq_eng (s : State) (h : Nat) (v : Seq) : (s.setSeq h v).eng = s.eng := rfl
@[simp] theorem State.setSeq_boot (s : State) (h : Nat) (v : Seq) : (s.setSeq h v).boot = s.boot := rfl
@[simp] theorem State.setSeq_flash (s : State) (h : Nat) (v : Seq) : (s.setSeq h v).flash = s.flash := rfl
@[simp] theorem State.setSeq_attest (s : State) (h : Nat) (v : Seq) : (s.setSeq h v).attest = s.attest := rfl
@[simp] theorem State.setSeq_errs (s : State) (h : Nat) (v : Seq) : (s.setSeq h v).errs = s.errs := rfl
@[simp] theorem State.setSeq_sent (s : State) (h : Nat) (v : Seq) : (s.setSeq h v).sent = s.sent := rfl
@[simp] theorem State.setSeq_part (s : State) (h : Nat) (v : Seq) (j : Nat) : (s.setSeq h v).part j = s.part j := rfl
@[simp] theorem State.setSeq_pan (s : State) (h : Nat) (v : Seq) (j : Nat) : (s.setSeq h v).pan j = s.pan j := rfl
@[simp] theorem State.setSeq_slot (s : State) (h : Nat) (v : Seq) (j : Nat) : (s.setSeq h v).slot j = s.slot j := rfl
@[simp] theorem State.setSeq_ctx (s : State) (h : Nat) (v : Seq) (j : Nat) : (s.setSeq h v).ctx j = s.ctx j := rfl
@[simp] theorem State.setSeq_seqH (s : State) (h : Nat) (v : Seq) (j : Nat) :
    (s.setSeq h v).seqH j = if j = h then v else s.seqH j := Tab.look_put _ _ _ _ _
@[simp] theorem State.setSeq_group (s : State) (h : Nat) (v : Seq) (j : Nat) : (s.setSeq h v).group j = s.group j := rfl
@[simp] theorem State.setSeq_chan (s : State) (h : Nat) (v : Seq) (j : Nat) : (s.setSeq h v).chan j = s.chan j := rfl

-- ## modGroup

@[simp] theorem State.modGroup_pending (s : State) (g : Nat) (f : Group → Group) : (s.modGroup g f).pending = s.pending := rfl
@[simp] theorem State.modGroup_drawn (s : State) (g : Nat) (f : Group → Group) : (s.modGroup g f).drawn = s.drawn := rfl
@[simp] theorem State.modGroup_edge (s : State) (g : Nat) (f : Group → Group) : (s.modGroup g f).edge = s.edge := rfl
@[simp] theorem State.modGroup_i3c (s : State) (g : Nat) (f : Group → Group) : (s.modGroup g f).i3c = s.i3c := rfl
@[simp] theorem State.modGroup_dbg (s : State) (g : Nat) (f : Group → Group) : (s.modGroup g f).dbg = s.dbg := rfl
@[simp] theorem State.modGroup_mem (s : State) (g : Nat) (f : Group → Group) : (s.modGroup g f).mem = s.mem := rfl
@[simp] theorem State.modGroup_poison (s : State) (g : Nat) (f : Group → Group) : (s.modGroup g f).poison = s.poison := rfl
@[simp] theorem State.modGroup_latches (s : State) (g : Nat) (f : Group → Group) : (s.modGroup g f).latches = s.latches := rfl
@[simp] theorem State.modGroup_memSys (s : State) (g : Nat) (f : Group → Group) : (s.modGroup g f).memSys = s.memSys := rfl
@[simp] theorem State.modGroup_cfg (s : State) (g : Nat) (f : Group → Group) : (s.modGroup g f).cfg = s.cfg := rfl
@[simp] theorem State.modGroup_shadow (s : State) (g : Nat) (f : Group → Group) : (s.modGroup g f).shadow = s.shadow := rfl
@[simp] theorem State.modGroup_commits (s : State) (g : Nat) (f : Group → Group) : (s.modGroup g f).commits = s.commits := rfl
@[simp] theorem State.modGroup_parts (s : State) (g : Nat) (f : Group → Group) : (s.modGroup g f).parts = s.parts := rfl
@[simp] theorem State.modGroup_ctxs (s : State) (g : Nat) (f : Group → Group) : (s.modGroup g f).ctxs = s.ctxs := rfl
@[simp] theorem State.modGroup_seqs (s : State) (g : Nat) (f : Group → Group) : (s.modGroup g f).seqs = s.seqs := rfl
@[simp] theorem State.modGroup_cmds (s : State) (g : Nat) (f : Group → Group) : (s.modGroup g f).cmds = s.cmds := rfl
@[simp] theorem State.modGroup_pans (s : State) (g : Nat) (f : Group → Group) : (s.modGroup g f).pans = s.pans := rfl
@[simp] theorem State.modGroup_slots (s : State) (g : Nat) (f : Group → Group) : (s.modGroup g f).slots = s.slots := rfl
@[simp] theorem State.modGroup_tally (s : State) (g : Nat) (f : Group → Group) : (s.modGroup g f).tally = s.tally := rfl
@[simp] theorem State.modGroup_power (s : State) (g : Nat) (f : Group → Group) : (s.modGroup g f).power = s.power := rfl
@[simp] theorem State.modGroup_groups (s : State) (g : Nat) (f : Group → Group) : (s.modGroup g f).groups = s.groups.put {} g (f (s.group g)) := rfl
@[simp] theorem State.modGroup_saltern (s : State) (g : Nat) (f : Group → Group) : (s.modGroup g f).saltern = s.saltern := rfl
@[simp] theorem State.modGroup_otp (s : State) (g : Nat) (f : Group → Group) : (s.modGroup g f).otp = s.otp := rfl
@[simp] theorem State.modGroup_chans (s : State) (g : Nat) (f : Group → Group) : (s.modGroup g f).chans = s.chans := rfl
@[simp] theorem State.modGroup_eng (s : State) (g : Nat) (f : Group → Group) : (s.modGroup g f).eng = s.eng := rfl
@[simp] theorem State.modGroup_boot (s : State) (g : Nat) (f : Group → Group) : (s.modGroup g f).boot = s.boot := rfl
@[simp] theorem State.modGroup_flash (s : State) (g : Nat) (f : Group → Group) : (s.modGroup g f).flash = s.flash := rfl
@[simp] theorem State.modGroup_attest (s : State) (g : Nat) (f : Group → Group) : (s.modGroup g f).attest = s.attest := rfl
@[simp] theorem State.modGroup_errs (s : State) (g : Nat) (f : Group → Group) : (s.modGroup g f).errs = s.errs := rfl
@[simp] theorem State.modGroup_sent (s : State) (g : Nat) (f : Group → Group) : (s.modGroup g f).sent = s.sent := rfl
@[simp] theorem State.modGroup_part (s : State) (g : Nat) (f : Group → Group) (j : Nat) : (s.modGroup g f).part j = s.part j := rfl
@[simp] theorem State.modGroup_pan (s : State) (g : Nat) (f : Group → Group) (j : Nat) : (s.modGroup g f).pan j = s.pan j := rfl
@[simp] theorem State.modGroup_slot (s : State) (g : Nat) (f : Group → Group) (j : Nat) : (s.modGroup g f).slot j = s.slot j := rfl
@[simp] theorem State.modGroup_ctx (s : State) (g : Nat) (f : Group → Group) (j : Nat) : (s.modGroup g f).ctx j = s.ctx j := rfl
@[simp] theorem State.modGroup_seqH (s : State) (g : Nat) (f : Group → Group) (j : Nat) : (s.modGroup g f).seqH j = s.seqH j := rfl
@[simp] theorem State.modGroup_group (s : State) (g : Nat) (f : Group → Group) (j : Nat) :
    (s.modGroup g f).group j = if j = g then f (s.group g) else s.group j := Tab.look_put _ _ _ _ _
@[simp] theorem State.modGroup_chan (s : State) (g : Nat) (f : Group → Group) (j : Nat) : (s.modGroup g f).chan j = s.chan j := rfl

-- ## modChan

@[simp] theorem State.modChan_pending (s : State) (c : Nat) (f : Chan → Chan) : (s.modChan c f).pending = s.pending := rfl
@[simp] theorem State.modChan_drawn (s : State) (c : Nat) (f : Chan → Chan) : (s.modChan c f).drawn = s.drawn := rfl
@[simp] theorem State.modChan_edge (s : State) (c : Nat) (f : Chan → Chan) : (s.modChan c f).edge = s.edge := rfl
@[simp] theorem State.modChan_i3c (s : State) (c : Nat) (f : Chan → Chan) : (s.modChan c f).i3c = s.i3c := rfl
@[simp] theorem State.modChan_dbg (s : State) (c : Nat) (f : Chan → Chan) : (s.modChan c f).dbg = s.dbg := rfl
@[simp] theorem State.modChan_mem (s : State) (c : Nat) (f : Chan → Chan) : (s.modChan c f).mem = s.mem := rfl
@[simp] theorem State.modChan_poison (s : State) (c : Nat) (f : Chan → Chan) : (s.modChan c f).poison = s.poison := rfl
@[simp] theorem State.modChan_latches (s : State) (c : Nat) (f : Chan → Chan) : (s.modChan c f).latches = s.latches := rfl
@[simp] theorem State.modChan_memSys (s : State) (c : Nat) (f : Chan → Chan) : (s.modChan c f).memSys = s.memSys := rfl
@[simp] theorem State.modChan_cfg (s : State) (c : Nat) (f : Chan → Chan) : (s.modChan c f).cfg = s.cfg := rfl
@[simp] theorem State.modChan_shadow (s : State) (c : Nat) (f : Chan → Chan) : (s.modChan c f).shadow = s.shadow := rfl
@[simp] theorem State.modChan_commits (s : State) (c : Nat) (f : Chan → Chan) : (s.modChan c f).commits = s.commits := rfl
@[simp] theorem State.modChan_parts (s : State) (c : Nat) (f : Chan → Chan) : (s.modChan c f).parts = s.parts := rfl
@[simp] theorem State.modChan_ctxs (s : State) (c : Nat) (f : Chan → Chan) : (s.modChan c f).ctxs = s.ctxs := rfl
@[simp] theorem State.modChan_seqs (s : State) (c : Nat) (f : Chan → Chan) : (s.modChan c f).seqs = s.seqs := rfl
@[simp] theorem State.modChan_cmds (s : State) (c : Nat) (f : Chan → Chan) : (s.modChan c f).cmds = s.cmds := rfl
@[simp] theorem State.modChan_pans (s : State) (c : Nat) (f : Chan → Chan) : (s.modChan c f).pans = s.pans := rfl
@[simp] theorem State.modChan_slots (s : State) (c : Nat) (f : Chan → Chan) : (s.modChan c f).slots = s.slots := rfl
@[simp] theorem State.modChan_tally (s : State) (c : Nat) (f : Chan → Chan) : (s.modChan c f).tally = s.tally := rfl
@[simp] theorem State.modChan_power (s : State) (c : Nat) (f : Chan → Chan) : (s.modChan c f).power = s.power := rfl
@[simp] theorem State.modChan_groups (s : State) (c : Nat) (f : Chan → Chan) : (s.modChan c f).groups = s.groups := rfl
@[simp] theorem State.modChan_saltern (s : State) (c : Nat) (f : Chan → Chan) : (s.modChan c f).saltern = s.saltern := rfl
@[simp] theorem State.modChan_otp (s : State) (c : Nat) (f : Chan → Chan) : (s.modChan c f).otp = s.otp := rfl
@[simp] theorem State.modChan_chans (s : State) (c : Nat) (f : Chan → Chan) : (s.modChan c f).chans = s.chans.put {} c (f (s.chan c)) := rfl
@[simp] theorem State.modChan_eng (s : State) (c : Nat) (f : Chan → Chan) : (s.modChan c f).eng = s.eng := rfl
@[simp] theorem State.modChan_boot (s : State) (c : Nat) (f : Chan → Chan) : (s.modChan c f).boot = s.boot := rfl
@[simp] theorem State.modChan_flash (s : State) (c : Nat) (f : Chan → Chan) : (s.modChan c f).flash = s.flash := rfl
@[simp] theorem State.modChan_attest (s : State) (c : Nat) (f : Chan → Chan) : (s.modChan c f).attest = s.attest := rfl
@[simp] theorem State.modChan_errs (s : State) (c : Nat) (f : Chan → Chan) : (s.modChan c f).errs = s.errs := rfl
@[simp] theorem State.modChan_sent (s : State) (c : Nat) (f : Chan → Chan) : (s.modChan c f).sent = s.sent := rfl
@[simp] theorem State.modChan_part (s : State) (c : Nat) (f : Chan → Chan) (j : Nat) : (s.modChan c f).part j = s.part j := rfl
@[simp] theorem State.modChan_pan (s : State) (c : Nat) (f : Chan → Chan) (j : Nat) : (s.modChan c f).pan j = s.pan j := rfl
@[simp] theorem State.modChan_slot (s : State) (c : Nat) (f : Chan → Chan) (j : Nat) : (s.modChan c f).slot j = s.slot j := rfl
@[simp] theorem State.modChan_ctx (s : State) (c : Nat) (f : Chan → Chan) (j : Nat) : (s.modChan c f).ctx j = s.ctx j := rfl
@[simp] theorem State.modChan_seqH (s : State) (c : Nat) (f : Chan → Chan) (j : Nat) : (s.modChan c f).seqH j = s.seqH j := rfl
@[simp] theorem State.modChan_group (s : State) (c : Nat) (f : Chan → Chan) (j : Nat) : (s.modChan c f).group j = s.group j := rfl
@[simp] theorem State.modChan_chan (s : State) (c : Nat) (f : Chan → Chan) (j : Nat) :
    (s.modChan c f).chan j = if j = c then f (s.chan c) else s.chan j := Tab.look_put _ _ _ _ _

-- ## modCmd

@[simp] theorem State.modCmd_pending (s : State) (q : DWord) (f : Cmd → Cmd) : (s.modCmd q f).pending = s.pending := rfl
@[simp] theorem State.modCmd_drawn (s : State) (q : DWord) (f : Cmd → Cmd) : (s.modCmd q f).drawn = s.drawn := rfl
@[simp] theorem State.modCmd_edge (s : State) (q : DWord) (f : Cmd → Cmd) : (s.modCmd q f).edge = s.edge := rfl
@[simp] theorem State.modCmd_i3c (s : State) (q : DWord) (f : Cmd → Cmd) : (s.modCmd q f).i3c = s.i3c := rfl
@[simp] theorem State.modCmd_dbg (s : State) (q : DWord) (f : Cmd → Cmd) : (s.modCmd q f).dbg = s.dbg := rfl
@[simp] theorem State.modCmd_mem (s : State) (q : DWord) (f : Cmd → Cmd) : (s.modCmd q f).mem = s.mem := rfl
@[simp] theorem State.modCmd_poison (s : State) (q : DWord) (f : Cmd → Cmd) : (s.modCmd q f).poison = s.poison := rfl
@[simp] theorem State.modCmd_latches (s : State) (q : DWord) (f : Cmd → Cmd) : (s.modCmd q f).latches = s.latches := rfl
@[simp] theorem State.modCmd_memSys (s : State) (q : DWord) (f : Cmd → Cmd) : (s.modCmd q f).memSys = s.memSys := rfl
@[simp] theorem State.modCmd_cfg (s : State) (q : DWord) (f : Cmd → Cmd) : (s.modCmd q f).cfg = s.cfg := rfl
@[simp] theorem State.modCmd_shadow (s : State) (q : DWord) (f : Cmd → Cmd) : (s.modCmd q f).shadow = s.shadow := rfl
@[simp] theorem State.modCmd_commits (s : State) (q : DWord) (f : Cmd → Cmd) : (s.modCmd q f).commits = s.commits := rfl
@[simp] theorem State.modCmd_parts (s : State) (q : DWord) (f : Cmd → Cmd) : (s.modCmd q f).parts = s.parts := rfl
@[simp] theorem State.modCmd_ctxs (s : State) (q : DWord) (f : Cmd → Cmd) : (s.modCmd q f).ctxs = s.ctxs := rfl
@[simp] theorem State.modCmd_seqs (s : State) (q : DWord) (f : Cmd → Cmd) : (s.modCmd q f).seqs = s.seqs := rfl
@[simp] theorem State.modCmd_cmds (s : State) (q : DWord) (f : Cmd → Cmd) : (s.modCmd q f).cmds = s.cmds.map fun c => if c.seq = q then f c else c := rfl
@[simp] theorem State.modCmd_pans (s : State) (q : DWord) (f : Cmd → Cmd) : (s.modCmd q f).pans = s.pans := rfl
@[simp] theorem State.modCmd_slots (s : State) (q : DWord) (f : Cmd → Cmd) : (s.modCmd q f).slots = s.slots := rfl
@[simp] theorem State.modCmd_tally (s : State) (q : DWord) (f : Cmd → Cmd) : (s.modCmd q f).tally = s.tally := rfl
@[simp] theorem State.modCmd_power (s : State) (q : DWord) (f : Cmd → Cmd) : (s.modCmd q f).power = s.power := rfl
@[simp] theorem State.modCmd_groups (s : State) (q : DWord) (f : Cmd → Cmd) : (s.modCmd q f).groups = s.groups := rfl
@[simp] theorem State.modCmd_saltern (s : State) (q : DWord) (f : Cmd → Cmd) : (s.modCmd q f).saltern = s.saltern := rfl
@[simp] theorem State.modCmd_otp (s : State) (q : DWord) (f : Cmd → Cmd) : (s.modCmd q f).otp = s.otp := rfl
@[simp] theorem State.modCmd_chans (s : State) (q : DWord) (f : Cmd → Cmd) : (s.modCmd q f).chans = s.chans := rfl
@[simp] theorem State.modCmd_eng (s : State) (q : DWord) (f : Cmd → Cmd) : (s.modCmd q f).eng = s.eng := rfl
@[simp] theorem State.modCmd_boot (s : State) (q : DWord) (f : Cmd → Cmd) : (s.modCmd q f).boot = s.boot := rfl
@[simp] theorem State.modCmd_flash (s : State) (q : DWord) (f : Cmd → Cmd) : (s.modCmd q f).flash = s.flash := rfl
@[simp] theorem State.modCmd_attest (s : State) (q : DWord) (f : Cmd → Cmd) : (s.modCmd q f).attest = s.attest := rfl
@[simp] theorem State.modCmd_errs (s : State) (q : DWord) (f : Cmd → Cmd) : (s.modCmd q f).errs = s.errs := rfl
@[simp] theorem State.modCmd_sent (s : State) (q : DWord) (f : Cmd → Cmd) : (s.modCmd q f).sent = s.sent := rfl
@[simp] theorem State.modCmd_part (s : State) (q : DWord) (f : Cmd → Cmd) (j : Nat) : (s.modCmd q f).part j = s.part j := rfl
@[simp] theorem State.modCmd_pan (s : State) (q : DWord) (f : Cmd → Cmd) (j : Nat) : (s.modCmd q f).pan j = s.pan j := rfl
@[simp] theorem State.modCmd_slot (s : State) (q : DWord) (f : Cmd → Cmd) (j : Nat) : (s.modCmd q f).slot j = s.slot j := rfl
@[simp] theorem State.modCmd_ctx (s : State) (q : DWord) (f : Cmd → Cmd) (j : Nat) : (s.modCmd q f).ctx j = s.ctx j := rfl
@[simp] theorem State.modCmd_seqH (s : State) (q : DWord) (f : Cmd → Cmd) (j : Nat) : (s.modCmd q f).seqH j = s.seqH j := rfl
@[simp] theorem State.modCmd_group (s : State) (q : DWord) (f : Cmd → Cmd) (j : Nat) : (s.modCmd q f).group j = s.group j := rfl
@[simp] theorem State.modCmd_chan (s : State) (q : DWord) (f : Cmd → Cmd) (j : Nat) : (s.modCmd q f).chan j = s.chan j := rfl

-- ## write

@[simp] theorem State.write_pending (s : State) (a : Nat) (bs : List Byte) : (s.write a bs).pending = s.pending := rfl
@[simp] theorem State.write_drawn (s : State) (a : Nat) (bs : List Byte) : (s.write a bs).drawn = s.drawn := rfl
@[simp] theorem State.write_edge (s : State) (a : Nat) (bs : List Byte) : (s.write a bs).edge = s.edge := rfl
@[simp] theorem State.write_i3c (s : State) (a : Nat) (bs : List Byte) : (s.write a bs).i3c = s.i3c := rfl
@[simp] theorem State.write_dbg (s : State) (a : Nat) (bs : List Byte) : (s.write a bs).dbg = s.dbg := rfl
@[simp] theorem State.write_mem (s : State) (a : Nat) (bs : List Byte) : (s.write a bs).mem = Tab.span s.mem 0 a bs := rfl
@[simp] theorem State.write_poison (s : State) (a : Nat) (bs : List Byte) : (s.write a bs).poison = s.poison.filter fun u => !(a ≤ u && u + 16 ≤ a + bs.length) := rfl
@[simp] theorem State.write_latches (s : State) (a : Nat) (bs : List Byte) : (s.write a bs).latches = s.latches := rfl
@[simp] theorem State.write_memSys (s : State) (a : Nat) (bs : List Byte) : (s.write a bs).memSys = s.memSys := rfl
@[simp] theorem State.write_cfg (s : State) (a : Nat) (bs : List Byte) : (s.write a bs).cfg = s.cfg := rfl
@[simp] theorem State.write_shadow (s : State) (a : Nat) (bs : List Byte) : (s.write a bs).shadow = s.shadow := rfl
@[simp] theorem State.write_commits (s : State) (a : Nat) (bs : List Byte) : (s.write a bs).commits = s.commits := rfl
@[simp] theorem State.write_parts (s : State) (a : Nat) (bs : List Byte) : (s.write a bs).parts = s.parts := rfl
@[simp] theorem State.write_ctxs (s : State) (a : Nat) (bs : List Byte) : (s.write a bs).ctxs = s.ctxs := rfl
@[simp] theorem State.write_seqs (s : State) (a : Nat) (bs : List Byte) : (s.write a bs).seqs = s.seqs := rfl
@[simp] theorem State.write_cmds (s : State) (a : Nat) (bs : List Byte) : (s.write a bs).cmds = s.cmds := rfl
@[simp] theorem State.write_pans (s : State) (a : Nat) (bs : List Byte) : (s.write a bs).pans = s.pans := rfl
@[simp] theorem State.write_slots (s : State) (a : Nat) (bs : List Byte) : (s.write a bs).slots = s.slots := rfl
@[simp] theorem State.write_tally (s : State) (a : Nat) (bs : List Byte) : (s.write a bs).tally = s.tally := rfl
@[simp] theorem State.write_power (s : State) (a : Nat) (bs : List Byte) : (s.write a bs).power = s.power := rfl
@[simp] theorem State.write_groups (s : State) (a : Nat) (bs : List Byte) : (s.write a bs).groups = s.groups := rfl
@[simp] theorem State.write_saltern (s : State) (a : Nat) (bs : List Byte) : (s.write a bs).saltern = s.saltern := rfl
@[simp] theorem State.write_otp (s : State) (a : Nat) (bs : List Byte) : (s.write a bs).otp = s.otp := rfl
@[simp] theorem State.write_chans (s : State) (a : Nat) (bs : List Byte) : (s.write a bs).chans = s.chans := rfl
@[simp] theorem State.write_eng (s : State) (a : Nat) (bs : List Byte) : (s.write a bs).eng = s.eng := rfl
@[simp] theorem State.write_boot (s : State) (a : Nat) (bs : List Byte) : (s.write a bs).boot = s.boot := rfl
@[simp] theorem State.write_flash (s : State) (a : Nat) (bs : List Byte) : (s.write a bs).flash = s.flash := rfl
@[simp] theorem State.write_attest (s : State) (a : Nat) (bs : List Byte) : (s.write a bs).attest = s.attest := rfl
@[simp] theorem State.write_errs (s : State) (a : Nat) (bs : List Byte) : (s.write a bs).errs = s.errs := rfl
@[simp] theorem State.write_sent (s : State) (a : Nat) (bs : List Byte) : (s.write a bs).sent = s.sent := rfl
@[simp] theorem State.write_part (s : State) (a : Nat) (bs : List Byte) (j : Nat) : (s.write a bs).part j = s.part j := rfl
@[simp] theorem State.write_pan (s : State) (a : Nat) (bs : List Byte) (j : Nat) : (s.write a bs).pan j = s.pan j := rfl
@[simp] theorem State.write_slot (s : State) (a : Nat) (bs : List Byte) (j : Nat) : (s.write a bs).slot j = s.slot j := rfl
@[simp] theorem State.write_ctx (s : State) (a : Nat) (bs : List Byte) (j : Nat) : (s.write a bs).ctx j = s.ctx j := rfl
@[simp] theorem State.write_seqH (s : State) (a : Nat) (bs : List Byte) (j : Nat) : (s.write a bs).seqH j = s.seqH j := rfl
@[simp] theorem State.write_group (s : State) (a : Nat) (bs : List Byte) (j : Nat) : (s.write a bs).group j = s.group j := rfl
@[simp] theorem State.write_chan (s : State) (a : Nat) (bs : List Byte) (j : Nat) : (s.write a bs).chan j = s.chan j := rfl

-- ## zero

@[simp] theorem State.zero_pending (s : State) (a n : Nat) : (s.zero a n).pending = s.pending := rfl
@[simp] theorem State.zero_drawn (s : State) (a n : Nat) : (s.zero a n).drawn = s.drawn := rfl
@[simp] theorem State.zero_edge (s : State) (a n : Nat) : (s.zero a n).edge = s.edge := rfl
@[simp] theorem State.zero_i3c (s : State) (a n : Nat) : (s.zero a n).i3c = s.i3c := rfl
@[simp] theorem State.zero_dbg (s : State) (a n : Nat) : (s.zero a n).dbg = s.dbg := rfl
@[simp] theorem State.zero_mem (s : State) (a n : Nat) : (s.zero a n).mem = Tab.wipe s.mem a n := rfl
@[simp] theorem State.zero_poison (s : State) (a n : Nat) : (s.zero a n).poison = s.poison.filter fun u => u < a || a + n ≤ u := rfl
@[simp] theorem State.zero_latches (s : State) (a n : Nat) : (s.zero a n).latches = s.latches := rfl
@[simp] theorem State.zero_memSys (s : State) (a n : Nat) : (s.zero a n).memSys = s.memSys := rfl
@[simp] theorem State.zero_cfg (s : State) (a n : Nat) : (s.zero a n).cfg = s.cfg := rfl
@[simp] theorem State.zero_shadow (s : State) (a n : Nat) : (s.zero a n).shadow = s.shadow := rfl
@[simp] theorem State.zero_commits (s : State) (a n : Nat) : (s.zero a n).commits = s.commits := rfl
@[simp] theorem State.zero_parts (s : State) (a n : Nat) : (s.zero a n).parts = s.parts := rfl
@[simp] theorem State.zero_ctxs (s : State) (a n : Nat) : (s.zero a n).ctxs = s.ctxs := rfl
@[simp] theorem State.zero_seqs (s : State) (a n : Nat) : (s.zero a n).seqs = s.seqs := rfl
@[simp] theorem State.zero_cmds (s : State) (a n : Nat) : (s.zero a n).cmds = s.cmds := rfl
@[simp] theorem State.zero_pans (s : State) (a n : Nat) : (s.zero a n).pans = s.pans := rfl
@[simp] theorem State.zero_slots (s : State) (a n : Nat) : (s.zero a n).slots = s.slots := rfl
@[simp] theorem State.zero_tally (s : State) (a n : Nat) : (s.zero a n).tally = s.tally := rfl
@[simp] theorem State.zero_power (s : State) (a n : Nat) : (s.zero a n).power = s.power := rfl
@[simp] theorem State.zero_groups (s : State) (a n : Nat) : (s.zero a n).groups = s.groups := rfl
@[simp] theorem State.zero_saltern (s : State) (a n : Nat) : (s.zero a n).saltern = s.saltern := rfl
@[simp] theorem State.zero_otp (s : State) (a n : Nat) : (s.zero a n).otp = s.otp := rfl
@[simp] theorem State.zero_chans (s : State) (a n : Nat) : (s.zero a n).chans = s.chans := rfl
@[simp] theorem State.zero_eng (s : State) (a n : Nat) : (s.zero a n).eng = s.eng := rfl
@[simp] theorem State.zero_boot (s : State) (a n : Nat) : (s.zero a n).boot = s.boot := rfl
@[simp] theorem State.zero_flash (s : State) (a n : Nat) : (s.zero a n).flash = s.flash := rfl
@[simp] theorem State.zero_attest (s : State) (a n : Nat) : (s.zero a n).attest = s.attest := rfl
@[simp] theorem State.zero_errs (s : State) (a n : Nat) : (s.zero a n).errs = s.errs := rfl
@[simp] theorem State.zero_sent (s : State) (a n : Nat) : (s.zero a n).sent = s.sent := rfl
@[simp] theorem State.zero_part (s : State) (a n : Nat) (j : Nat) : (s.zero a n).part j = s.part j := rfl
@[simp] theorem State.zero_pan (s : State) (a n : Nat) (j : Nat) : (s.zero a n).pan j = s.pan j := rfl
@[simp] theorem State.zero_slot (s : State) (a n : Nat) (j : Nat) : (s.zero a n).slot j = s.slot j := rfl
@[simp] theorem State.zero_ctx (s : State) (a n : Nat) (j : Nat) : (s.zero a n).ctx j = s.ctx j := rfl
@[simp] theorem State.zero_seqH (s : State) (a n : Nat) (j : Nat) : (s.zero a n).seqH j = s.seqH j := rfl
@[simp] theorem State.zero_group (s : State) (a n : Nat) (j : Nat) : (s.zero a n).group j = s.group j := rfl
@[simp] theorem State.zero_chan (s : State) (a n : Nat) (j : Nat) : (s.zero a n).chan j = s.chan j := rfl

-- ## mark

@[simp] theorem State.mark_pending (s : State) (a : Nat) : (s.mark a).pending = s.pending := rfl
@[simp] theorem State.mark_drawn (s : State) (a : Nat) : (s.mark a).drawn = s.drawn := rfl
@[simp] theorem State.mark_edge (s : State) (a : Nat) : (s.mark a).edge = s.edge := rfl
@[simp] theorem State.mark_i3c (s : State) (a : Nat) : (s.mark a).i3c = s.i3c := rfl
@[simp] theorem State.mark_dbg (s : State) (a : Nat) : (s.mark a).dbg = s.dbg := rfl
@[simp] theorem State.mark_mem (s : State) (a : Nat) : (s.mark a).mem = s.mem := rfl
@[simp] theorem State.mark_poison (s : State) (a : Nat) : (s.mark a).poison = insertNum (a / 16 * 16) s.poison := rfl
@[simp] theorem State.mark_latches (s : State) (a : Nat) : (s.mark a).latches = s.latches := rfl
@[simp] theorem State.mark_memSys (s : State) (a : Nat) : (s.mark a).memSys = s.memSys := rfl
@[simp] theorem State.mark_cfg (s : State) (a : Nat) : (s.mark a).cfg = s.cfg := rfl
@[simp] theorem State.mark_shadow (s : State) (a : Nat) : (s.mark a).shadow = s.shadow := rfl
@[simp] theorem State.mark_commits (s : State) (a : Nat) : (s.mark a).commits = s.commits := rfl
@[simp] theorem State.mark_parts (s : State) (a : Nat) : (s.mark a).parts = s.parts := rfl
@[simp] theorem State.mark_ctxs (s : State) (a : Nat) : (s.mark a).ctxs = s.ctxs := rfl
@[simp] theorem State.mark_seqs (s : State) (a : Nat) : (s.mark a).seqs = s.seqs := rfl
@[simp] theorem State.mark_cmds (s : State) (a : Nat) : (s.mark a).cmds = s.cmds := rfl
@[simp] theorem State.mark_pans (s : State) (a : Nat) : (s.mark a).pans = s.pans := rfl
@[simp] theorem State.mark_slots (s : State) (a : Nat) : (s.mark a).slots = s.slots := rfl
@[simp] theorem State.mark_tally (s : State) (a : Nat) : (s.mark a).tally = s.tally := rfl
@[simp] theorem State.mark_power (s : State) (a : Nat) : (s.mark a).power = s.power := rfl
@[simp] theorem State.mark_groups (s : State) (a : Nat) : (s.mark a).groups = s.groups := rfl
@[simp] theorem State.mark_saltern (s : State) (a : Nat) : (s.mark a).saltern = s.saltern := rfl
@[simp] theorem State.mark_otp (s : State) (a : Nat) : (s.mark a).otp = s.otp := rfl
@[simp] theorem State.mark_chans (s : State) (a : Nat) : (s.mark a).chans = s.chans := rfl
@[simp] theorem State.mark_eng (s : State) (a : Nat) : (s.mark a).eng = s.eng := rfl
@[simp] theorem State.mark_boot (s : State) (a : Nat) : (s.mark a).boot = s.boot := rfl
@[simp] theorem State.mark_flash (s : State) (a : Nat) : (s.mark a).flash = s.flash := rfl
@[simp] theorem State.mark_attest (s : State) (a : Nat) : (s.mark a).attest = s.attest := rfl
@[simp] theorem State.mark_errs (s : State) (a : Nat) : (s.mark a).errs = s.errs := rfl
@[simp] theorem State.mark_sent (s : State) (a : Nat) : (s.mark a).sent = s.sent := rfl
@[simp] theorem State.mark_part (s : State) (a : Nat) (j : Nat) : (s.mark a).part j = s.part j := rfl
@[simp] theorem State.mark_pan (s : State) (a : Nat) (j : Nat) : (s.mark a).pan j = s.pan j := rfl
@[simp] theorem State.mark_slot (s : State) (a : Nat) (j : Nat) : (s.mark a).slot j = s.slot j := rfl
@[simp] theorem State.mark_ctx (s : State) (a : Nat) (j : Nat) : (s.mark a).ctx j = s.ctx j := rfl
@[simp] theorem State.mark_seqH (s : State) (a : Nat) (j : Nat) : (s.mark a).seqH j = s.seqH j := rfl
@[simp] theorem State.mark_group (s : State) (a : Nat) (j : Nat) : (s.mark a).group j = s.group j := rfl
@[simp] theorem State.mark_chan (s : State) (a : Nat) (j : Nat) : (s.mark a).chan j = s.chan j := rfl

-- ## draw

@[simp] theorem State.draw_pending (s : State) : (s.draw.2).pending = s.pending := rfl
@[simp] theorem State.draw_drawn (s : State) : (s.draw.2).drawn = s.drawn + 1 := rfl
@[simp] theorem State.draw_edge (s : State) : (s.draw.2).edge = s.edge := rfl
@[simp] theorem State.draw_i3c (s : State) : (s.draw.2).i3c = s.i3c := rfl
@[simp] theorem State.draw_dbg (s : State) : (s.draw.2).dbg = s.dbg := rfl
@[simp] theorem State.draw_mem (s : State) : (s.draw.2).mem = s.mem := rfl
@[simp] theorem State.draw_poison (s : State) : (s.draw.2).poison = s.poison := rfl
@[simp] theorem State.draw_latches (s : State) : (s.draw.2).latches = s.latches := rfl
@[simp] theorem State.draw_memSys (s : State) : (s.draw.2).memSys = s.memSys := rfl
@[simp] theorem State.draw_cfg (s : State) : (s.draw.2).cfg = s.cfg := rfl
@[simp] theorem State.draw_shadow (s : State) : (s.draw.2).shadow = s.shadow := rfl
@[simp] theorem State.draw_commits (s : State) : (s.draw.2).commits = s.commits := rfl
@[simp] theorem State.draw_parts (s : State) : (s.draw.2).parts = s.parts := rfl
@[simp] theorem State.draw_ctxs (s : State) : (s.draw.2).ctxs = s.ctxs := rfl
@[simp] theorem State.draw_seqs (s : State) : (s.draw.2).seqs = s.seqs := rfl
@[simp] theorem State.draw_cmds (s : State) : (s.draw.2).cmds = s.cmds := rfl
@[simp] theorem State.draw_pans (s : State) : (s.draw.2).pans = s.pans := rfl
@[simp] theorem State.draw_slots (s : State) : (s.draw.2).slots = s.slots := rfl
@[simp] theorem State.draw_tally (s : State) : (s.draw.2).tally = s.tally := rfl
@[simp] theorem State.draw_power (s : State) : (s.draw.2).power = s.power := rfl
@[simp] theorem State.draw_groups (s : State) : (s.draw.2).groups = s.groups := rfl
@[simp] theorem State.draw_saltern (s : State) : (s.draw.2).saltern = s.saltern := rfl
@[simp] theorem State.draw_otp (s : State) : (s.draw.2).otp = s.otp := rfl
@[simp] theorem State.draw_chans (s : State) : (s.draw.2).chans = s.chans := rfl
@[simp] theorem State.draw_eng (s : State) : (s.draw.2).eng = s.eng := rfl
@[simp] theorem State.draw_boot (s : State) : (s.draw.2).boot = s.boot := rfl
@[simp] theorem State.draw_flash (s : State) : (s.draw.2).flash = s.flash := rfl
@[simp] theorem State.draw_attest (s : State) : (s.draw.2).attest = s.attest := rfl
@[simp] theorem State.draw_errs (s : State) : (s.draw.2).errs = s.errs := rfl
@[simp] theorem State.draw_sent (s : State) : (s.draw.2).sent = s.sent := rfl
@[simp] theorem State.draw_part (s : State) (j : Nat) : (s.draw.2).part j = s.part j := rfl
@[simp] theorem State.draw_pan (s : State) (j : Nat) : (s.draw.2).pan j = s.pan j := rfl
@[simp] theorem State.draw_slot (s : State) (j : Nat) : (s.draw.2).slot j = s.slot j := rfl
@[simp] theorem State.draw_ctx (s : State) (j : Nat) : (s.draw.2).ctx j = s.ctx j := rfl
@[simp] theorem State.draw_seqH (s : State) (j : Nat) : (s.draw.2).seqH j = s.seqH j := rfl
@[simp] theorem State.draw_group (s : State) (j : Nat) : (s.draw.2).group j = s.group j := rfl
@[simp] theorem State.draw_chan (s : State) (j : Nat) : (s.draw.2).chan j = s.chan j := rfl

-- ## tallyMod

@[simp] theorem State.tallyMod_pending (s : State) (q : DWord) (f : TEntry → TEntry) : (s.tallyMod q f).pending = s.pending := rfl
@[simp] theorem State.tallyMod_drawn (s : State) (q : DWord) (f : TEntry → TEntry) : (s.tallyMod q f).drawn = s.drawn := rfl
@[simp] theorem State.tallyMod_edge (s : State) (q : DWord) (f : TEntry → TEntry) : (s.tallyMod q f).edge = s.edge := rfl
@[simp] theorem State.tallyMod_i3c (s : State) (q : DWord) (f : TEntry → TEntry) : (s.tallyMod q f).i3c = s.i3c := rfl
@[simp] theorem State.tallyMod_dbg (s : State) (q : DWord) (f : TEntry → TEntry) : (s.tallyMod q f).dbg = s.dbg := rfl
@[simp] theorem State.tallyMod_latches (s : State) (q : DWord) (f : TEntry → TEntry) : (s.tallyMod q f).latches = s.latches := rfl
@[simp] theorem State.tallyMod_memSys (s : State) (q : DWord) (f : TEntry → TEntry) : (s.tallyMod q f).memSys = s.memSys := rfl
@[simp] theorem State.tallyMod_cfg (s : State) (q : DWord) (f : TEntry → TEntry) : (s.tallyMod q f).cfg = s.cfg := rfl
@[simp] theorem State.tallyMod_shadow (s : State) (q : DWord) (f : TEntry → TEntry) : (s.tallyMod q f).shadow = s.shadow := rfl
@[simp] theorem State.tallyMod_commits (s : State) (q : DWord) (f : TEntry → TEntry) : (s.tallyMod q f).commits = s.commits := rfl
@[simp] theorem State.tallyMod_parts (s : State) (q : DWord) (f : TEntry → TEntry) : (s.tallyMod q f).parts = s.parts := rfl
@[simp] theorem State.tallyMod_ctxs (s : State) (q : DWord) (f : TEntry → TEntry) : (s.tallyMod q f).ctxs = s.ctxs := rfl
@[simp] theorem State.tallyMod_seqs (s : State) (q : DWord) (f : TEntry → TEntry) : (s.tallyMod q f).seqs = s.seqs := rfl
@[simp] theorem State.tallyMod_cmds (s : State) (q : DWord) (f : TEntry → TEntry) : (s.tallyMod q f).cmds = s.cmds := rfl
@[simp] theorem State.tallyMod_pans (s : State) (q : DWord) (f : TEntry → TEntry) : (s.tallyMod q f).pans = s.pans := rfl
@[simp] theorem State.tallyMod_slots (s : State) (q : DWord) (f : TEntry → TEntry) : (s.tallyMod q f).slots = s.slots := rfl
@[simp] theorem State.tallyMod_power (s : State) (q : DWord) (f : TEntry → TEntry) : (s.tallyMod q f).power = s.power := rfl
@[simp] theorem State.tallyMod_groups (s : State) (q : DWord) (f : TEntry → TEntry) : (s.tallyMod q f).groups = s.groups := rfl
@[simp] theorem State.tallyMod_saltern (s : State) (q : DWord) (f : TEntry → TEntry) : (s.tallyMod q f).saltern = s.saltern := rfl
@[simp] theorem State.tallyMod_otp (s : State) (q : DWord) (f : TEntry → TEntry) : (s.tallyMod q f).otp = s.otp := rfl
@[simp] theorem State.tallyMod_chans (s : State) (q : DWord) (f : TEntry → TEntry) : (s.tallyMod q f).chans = s.chans := rfl
@[simp] theorem State.tallyMod_eng (s : State) (q : DWord) (f : TEntry → TEntry) : (s.tallyMod q f).eng = s.eng := rfl
@[simp] theorem State.tallyMod_boot (s : State) (q : DWord) (f : TEntry → TEntry) : (s.tallyMod q f).boot = s.boot := rfl
@[simp] theorem State.tallyMod_flash (s : State) (q : DWord) (f : TEntry → TEntry) : (s.tallyMod q f).flash = s.flash := rfl
@[simp] theorem State.tallyMod_attest (s : State) (q : DWord) (f : TEntry → TEntry) : (s.tallyMod q f).attest = s.attest := rfl
@[simp] theorem State.tallyMod_errs (s : State) (q : DWord) (f : TEntry → TEntry) : (s.tallyMod q f).errs = s.errs := rfl
@[simp] theorem State.tallyMod_sent (s : State) (q : DWord) (f : TEntry → TEntry) : (s.tallyMod q f).sent = s.sent := rfl
@[simp] theorem State.tallyMod_part (s : State) (q : DWord) (f : TEntry → TEntry) (j : Nat) : (s.tallyMod q f).part j = s.part j := rfl
@[simp] theorem State.tallyMod_pan (s : State) (q : DWord) (f : TEntry → TEntry) (j : Nat) : (s.tallyMod q f).pan j = s.pan j := rfl
@[simp] theorem State.tallyMod_slot (s : State) (q : DWord) (f : TEntry → TEntry) (j : Nat) : (s.tallyMod q f).slot j = s.slot j := rfl
@[simp] theorem State.tallyMod_ctx (s : State) (q : DWord) (f : TEntry → TEntry) (j : Nat) : (s.tallyMod q f).ctx j = s.ctx j := rfl
@[simp] theorem State.tallyMod_seqH (s : State) (q : DWord) (f : TEntry → TEntry) (j : Nat) : (s.tallyMod q f).seqH j = s.seqH j := rfl
@[simp] theorem State.tallyMod_group (s : State) (q : DWord) (f : TEntry → TEntry) (j : Nat) : (s.tallyMod q f).group j = s.group j := rfl
@[simp] theorem State.tallyMod_chan (s : State) (q : DWord) (f : TEntry → TEntry) (j : Nat) : (s.tallyMod q f).chan j = s.chan j := rfl

-- ## tallyPut

@[simp] theorem State.tallyPut_pending (s : State) (e : TEntry) : (s.tallyPut e).pending = s.pending := rfl
@[simp] theorem State.tallyPut_drawn (s : State) (e : TEntry) : (s.tallyPut e).drawn = s.drawn := rfl
@[simp] theorem State.tallyPut_edge (s : State) (e : TEntry) : (s.tallyPut e).edge = s.edge := rfl
@[simp] theorem State.tallyPut_i3c (s : State) (e : TEntry) : (s.tallyPut e).i3c = s.i3c := rfl
@[simp] theorem State.tallyPut_dbg (s : State) (e : TEntry) : (s.tallyPut e).dbg = s.dbg := rfl
@[simp] theorem State.tallyPut_latches (s : State) (e : TEntry) : (s.tallyPut e).latches = s.latches := rfl
@[simp] theorem State.tallyPut_memSys (s : State) (e : TEntry) : (s.tallyPut e).memSys = s.memSys := rfl
@[simp] theorem State.tallyPut_cfg (s : State) (e : TEntry) : (s.tallyPut e).cfg = s.cfg := rfl
@[simp] theorem State.tallyPut_shadow (s : State) (e : TEntry) : (s.tallyPut e).shadow = s.shadow := rfl
@[simp] theorem State.tallyPut_commits (s : State) (e : TEntry) : (s.tallyPut e).commits = s.commits := rfl
@[simp] theorem State.tallyPut_parts (s : State) (e : TEntry) : (s.tallyPut e).parts = s.parts := rfl
@[simp] theorem State.tallyPut_ctxs (s : State) (e : TEntry) : (s.tallyPut e).ctxs = s.ctxs := rfl
@[simp] theorem State.tallyPut_seqs (s : State) (e : TEntry) : (s.tallyPut e).seqs = s.seqs := rfl
@[simp] theorem State.tallyPut_cmds (s : State) (e : TEntry) : (s.tallyPut e).cmds = s.cmds := rfl
@[simp] theorem State.tallyPut_pans (s : State) (e : TEntry) : (s.tallyPut e).pans = s.pans := rfl
@[simp] theorem State.tallyPut_slots (s : State) (e : TEntry) : (s.tallyPut e).slots = s.slots := rfl
@[simp] theorem State.tallyPut_power (s : State) (e : TEntry) : (s.tallyPut e).power = s.power := rfl
@[simp] theorem State.tallyPut_groups (s : State) (e : TEntry) : (s.tallyPut e).groups = s.groups := rfl
@[simp] theorem State.tallyPut_saltern (s : State) (e : TEntry) : (s.tallyPut e).saltern = s.saltern := rfl
@[simp] theorem State.tallyPut_otp (s : State) (e : TEntry) : (s.tallyPut e).otp = s.otp := rfl
@[simp] theorem State.tallyPut_chans (s : State) (e : TEntry) : (s.tallyPut e).chans = s.chans := rfl
@[simp] theorem State.tallyPut_eng (s : State) (e : TEntry) : (s.tallyPut e).eng = s.eng := rfl
@[simp] theorem State.tallyPut_boot (s : State) (e : TEntry) : (s.tallyPut e).boot = s.boot := rfl
@[simp] theorem State.tallyPut_flash (s : State) (e : TEntry) : (s.tallyPut e).flash = s.flash := rfl
@[simp] theorem State.tallyPut_attest (s : State) (e : TEntry) : (s.tallyPut e).attest = s.attest := rfl
@[simp] theorem State.tallyPut_errs (s : State) (e : TEntry) : (s.tallyPut e).errs = s.errs := rfl
@[simp] theorem State.tallyPut_sent (s : State) (e : TEntry) : (s.tallyPut e).sent = s.sent := rfl
@[simp] theorem State.tallyPut_part (s : State) (e : TEntry) (j : Nat) : (s.tallyPut e).part j = s.part j := rfl
@[simp] theorem State.tallyPut_pan (s : State) (e : TEntry) (j : Nat) : (s.tallyPut e).pan j = s.pan j := rfl
@[simp] theorem State.tallyPut_slot (s : State) (e : TEntry) (j : Nat) : (s.tallyPut e).slot j = s.slot j := rfl
@[simp] theorem State.tallyPut_ctx (s : State) (e : TEntry) (j : Nat) : (s.tallyPut e).ctx j = s.ctx j := rfl
@[simp] theorem State.tallyPut_seqH (s : State) (e : TEntry) (j : Nat) : (s.tallyPut e).seqH j = s.seqH j := rfl
@[simp] theorem State.tallyPut_group (s : State) (e : TEntry) (j : Nat) : (s.tallyPut e).group j = s.group j := rfl
@[simp] theorem State.tallyPut_chan (s : State) (e : TEntry) (j : Nat) : (s.tallyPut e).chan j = s.chan j := rfl

-- ## respond

@[simp] theorem State.respond_pending (s : State) (r : Req) (st : BitVec 4) (d : List Byte) : (s.respond r st d).pending = s.pending := rfl
@[simp] theorem State.respond_drawn (s : State) (r : Req) (st : BitVec 4) (d : List Byte) : (s.respond r st d).drawn = s.drawn := rfl
@[simp] theorem State.respond_edge (s : State) (r : Req) (st : BitVec 4) (d : List Byte) : (s.respond r st d).edge = s.edge := rfl
@[simp] theorem State.respond_i3c (s : State) (r : Req) (st : BitVec 4) (d : List Byte) : (s.respond r st d).i3c = s.i3c := rfl
@[simp] theorem State.respond_dbg (s : State) (r : Req) (st : BitVec 4) (d : List Byte) : (s.respond r st d).dbg = s.dbg := rfl
@[simp] theorem State.respond_mem (s : State) (r : Req) (st : BitVec 4) (d : List Byte) : (s.respond r st d).mem = s.mem := rfl
@[simp] theorem State.respond_poison (s : State) (r : Req) (st : BitVec 4) (d : List Byte) : (s.respond r st d).poison = s.poison := rfl
@[simp] theorem State.respond_latches (s : State) (r : Req) (st : BitVec 4) (d : List Byte) : (s.respond r st d).latches = s.latches := rfl
@[simp] theorem State.respond_memSys (s : State) (r : Req) (st : BitVec 4) (d : List Byte) : (s.respond r st d).memSys = s.memSys := rfl
@[simp] theorem State.respond_cfg (s : State) (r : Req) (st : BitVec 4) (d : List Byte) : (s.respond r st d).cfg = s.cfg := rfl
@[simp] theorem State.respond_shadow (s : State) (r : Req) (st : BitVec 4) (d : List Byte) : (s.respond r st d).shadow = s.shadow := rfl
@[simp] theorem State.respond_commits (s : State) (r : Req) (st : BitVec 4) (d : List Byte) : (s.respond r st d).commits = s.commits := rfl
@[simp] theorem State.respond_parts (s : State) (r : Req) (st : BitVec 4) (d : List Byte) : (s.respond r st d).parts = s.parts := rfl
@[simp] theorem State.respond_ctxs (s : State) (r : Req) (st : BitVec 4) (d : List Byte) : (s.respond r st d).ctxs = s.ctxs := rfl
@[simp] theorem State.respond_seqs (s : State) (r : Req) (st : BitVec 4) (d : List Byte) : (s.respond r st d).seqs = s.seqs := rfl
@[simp] theorem State.respond_cmds (s : State) (r : Req) (st : BitVec 4) (d : List Byte) : (s.respond r st d).cmds = s.cmds := rfl
@[simp] theorem State.respond_pans (s : State) (r : Req) (st : BitVec 4) (d : List Byte) : (s.respond r st d).pans = s.pans := rfl
@[simp] theorem State.respond_slots (s : State) (r : Req) (st : BitVec 4) (d : List Byte) : (s.respond r st d).slots = s.slots := rfl
@[simp] theorem State.respond_tally (s : State) (r : Req) (st : BitVec 4) (d : List Byte) : (s.respond r st d).tally = s.tally := rfl
@[simp] theorem State.respond_power (s : State) (r : Req) (st : BitVec 4) (d : List Byte) : (s.respond r st d).power = s.power := rfl
@[simp] theorem State.respond_groups (s : State) (r : Req) (st : BitVec 4) (d : List Byte) : (s.respond r st d).groups = s.groups := rfl
@[simp] theorem State.respond_saltern (s : State) (r : Req) (st : BitVec 4) (d : List Byte) : (s.respond r st d).saltern = s.saltern := rfl
@[simp] theorem State.respond_otp (s : State) (r : Req) (st : BitVec 4) (d : List Byte) : (s.respond r st d).otp = s.otp := rfl
@[simp] theorem State.respond_chans (s : State) (r : Req) (st : BitVec 4) (d : List Byte) : (s.respond r st d).chans = s.chans := rfl
@[simp] theorem State.respond_eng (s : State) (r : Req) (st : BitVec 4) (d : List Byte) : (s.respond r st d).eng = s.eng := rfl
@[simp] theorem State.respond_boot (s : State) (r : Req) (st : BitVec 4) (d : List Byte) : (s.respond r st d).boot = s.boot := rfl
@[simp] theorem State.respond_flash (s : State) (r : Req) (st : BitVec 4) (d : List Byte) : (s.respond r st d).flash = s.flash := rfl
@[simp] theorem State.respond_attest (s : State) (r : Req) (st : BitVec 4) (d : List Byte) : (s.respond r st d).attest = s.attest := rfl
@[simp] theorem State.respond_errs (s : State) (r : Req) (st : BitVec 4) (d : List Byte) : (s.respond r st d).errs = s.errs := rfl
@[simp] theorem State.respond_sent (s : State) (r : Req) (st : BitVec 4) (d : List Byte) : (s.respond r st d).sent = s.sent ++ [{ module1 := r.module1, ini := r.ini, tag := r.tag, status := st, data := d }] := rfl
@[simp] theorem State.respond_part (s : State) (r : Req) (st : BitVec 4) (d : List Byte) (j : Nat) : (s.respond r st d).part j = s.part j := rfl
@[simp] theorem State.respond_pan (s : State) (r : Req) (st : BitVec 4) (d : List Byte) (j : Nat) : (s.respond r st d).pan j = s.pan j := rfl
@[simp] theorem State.respond_slot (s : State) (r : Req) (st : BitVec 4) (d : List Byte) (j : Nat) : (s.respond r st d).slot j = s.slot j := rfl
@[simp] theorem State.respond_ctx (s : State) (r : Req) (st : BitVec 4) (d : List Byte) (j : Nat) : (s.respond r st d).ctx j = s.ctx j := rfl
@[simp] theorem State.respond_seqH (s : State) (r : Req) (st : BitVec 4) (d : List Byte) (j : Nat) : (s.respond r st d).seqH j = s.seqH j := rfl
@[simp] theorem State.respond_group (s : State) (r : Req) (st : BitVec 4) (d : List Byte) (j : Nat) : (s.respond r st d).group j = s.group j := rfl
@[simp] theorem State.respond_chan (s : State) (r : Req) (st : BitVec 4) (d : List Byte) (j : Nat) : (s.respond r st d).chan j = s.chan j := rfl

-- ## One spelling: an update by a function is an update by a value

@[simp] theorem State.modPart_eq (s : State) (p : Nat) (f : Part → Part) : s.modPart p f = s.setPart p (f (s.part p)) := rfl
@[simp] theorem State.modPan_eq (s : State) (p : Nat) (f : Pan → Pan) : s.modPan p f = s.setPan p (f (s.pan p)) := rfl
@[simp] theorem State.modSlot_eq (s : State) (i : Nat) (f : Slot → Slot) : s.modSlot i f = s.setSlot i (f (s.slot i)) := rfl
@[simp] theorem State.modCtx_eq (s : State) (q : Nat) (f : Ctx → Ctx) : s.modCtx q f = s.setCtx q (f (s.ctx q)) := rfl
@[simp] theorem State.draw_fst (s : State) : s.draw.1 = s.drawn := rfl

end Sys2Proof.Machine
end

