-- ==== Sys2Proof/Laws/PanRow.lean ====
section
/-! SUPPORT. What a pan's operand reads after a write, and what a pan's instruction does where no check finds an error. -/
namespace Sys2Proof.Machine

-- ## Bytes

@[simp] theorem State.byte_write (s : State) (a : Nat) (bs : List Byte) (x : Nat) :
    (s.write a bs).byte x = if a ≤ x ∧ x < a + bs.length then bs.getD (x - a) 0 else s.byte x := Tab.look_span _ _ _ _ _

@[simp] theorem State.byte_zero (s : State) (a n x : Nat) :
    (s.zero a n).byte x = if a ≤ x ∧ x < a + n then 0 else s.byte x := Tab.look_wipe _ _ _ _ _

/-- The bytes of a read. -/
theorem State.getD_read (s : State) (a n i : Nat) (h : i < n) : (s.read a n).getD i 0 = s.byte (a + i) := by
  simp [State.read, State.byte, h]

@[simp] theorem State.length_read (s : State) (a n : Nat) : (s.read a n).length = n := by simp [State.read]

/-- What was written reads back. -/
theorem State.read_write (s : State) (a : Nat) (bs : List Byte) : (s.write a bs).read a bs.length = bs := by
  refine List.ext_getElem (by simp) fun i h _ => ?_
  simp only [State.length_read] at h
  have hd := State.getD_read (s.write a bs) a bs.length i h
  rw [State.byte_write] at hd
  simpa [h] using hd

@[simp] theorem State.length_slotRead (s : State) (p : Nat) (sl : Slot22) (k n : Nat) : (s.slotRead p sl k n).length = n := by
  simp [State.slotRead]

/-- A run no longer than the memory wraps once at most. -/
theorem byte_wrapWrite (n : Nat) (s : State) (base size a : Nat) (bs : List Byte) (hl : bs.length ≤ size) (x : Nat) :
    (wrapWrite (n + 2) s base size a bs).byte x = ((s.write (base + a) (bs.take (size - a))).write base (bs.drop (size - a))).byte x := by
  rw [wrapWrite]
  split
  · rw [List.take_of_length_le ‹_›, List.drop_eq_nil_of_le ‹_›, State.byte_write (s.write (base + a) bs),
      if_neg (by simp only [List.length_nil]; omega)]
  · rw [wrapWrite, if_pos (by simp only [List.length_drop]; omega)]; rfl

theorem State.byte_slotWrite (s : State) (p : Nat) (sl : Slot22) (k : Nat) (bs : List Byte) (hl : bs.length ≤ sl.size) (x : Nat) :
    (s.slotWrite p sl k bs).byte x =
      ((s.write (slotAddr p sl k) (bs.take (sl.size - ((if sl.acc then sl.ofs * 256 else sl.ofs) + k) % sl.size))).write
        (if sl.acc then accBase p else storeBase p)
        (bs.drop (sl.size - ((if sl.acc then sl.ofs * 256 else sl.ofs) + k) % sl.size))).byte x := by
  have hb : slotAddr p sl k = (if sl.acc then accBase p else storeBase p)
      + ((if sl.acc then sl.ofs * 256 else sl.ofs) + k) % sl.size := by
    unfold slotAddr Slot22.size; cases sl.acc <;> rfl
  rw [hb]
  exact byte_wrapWrite _ _ _ _ _ _ hl _

/-- The bytes of an operand read back as they were written. -/
theorem State.byte_slotWrite_in (s : State) (p : Nat) (sl : Slot22) (k : Nat) (bs : List Byte) (i : Nat)
    (hl : bs.length ≤ sl.size) (hi : i < bs.length) : (s.slotWrite p sl k bs).byte (slotAddr p sl (k + i)) = bs.getD i 0 := by
  rw [State.byte_slotWrite _ _ _ _ _ hl]
  simp only [State.byte_write, List.length_take, List.length_drop]
  cases ha : sl.acc <;> simp only [Slot22.size, slotAddr, ha, Bool.false_eq_true, if_true, if_false] at hl ⊢
  · by_cases hw : (sl.ofs + k) % 0x200000 + i < 0x200000
    · have he : (sl.ofs + (k + i)) % 0x200000 = (sl.ofs + k) % 0x200000 + i := by omega
      rw [if_neg (by omega), if_pos (by omega), he, Nat.add_sub_add_left, Nat.add_sub_cancel_left]
      simp [List.getD_eq_getElem?_getD, show i < 0x200000 - (sl.ofs + k) % 0x200000 by omega]
    · have he : (sl.ofs + (k + i)) % 0x200000 = (sl.ofs + k) % 0x200000 + i - 0x200000 := by omega
      rw [if_pos (by omega), he, Nat.add_sub_cancel_left]
      rw [List.getD_eq_getElem?_getD, List.getElem?_drop, List.getD_eq_getElem?_getD,
        show 0x200000 - (sl.ofs + k) % 0x200000 + ((sl.ofs + k) % 0x200000 + i - 0x200000) = i by omega]
  · by_cases hw : (sl.ofs * 256 + k) % 0x40000 + i < 0x40000
    · have he : (sl.ofs * 256 + (k + i)) % 0x40000 = (sl.ofs * 256 + k) % 0x40000 + i := by omega
      rw [if_neg (by omega), if_pos (by omega), he, Nat.add_sub_add_left, Nat.add_sub_cancel_left]
      simp [List.getD_eq_getElem?_getD, show i < 0x40000 - (sl.ofs * 256 + k) % 0x40000 by omega]
    · have he : (sl.ofs * 256 + (k + i)) % 0x40000 = (sl.ofs * 256 + k) % 0x40000 + i - 0x40000 := by omega
      rw [if_pos (by omega), he, Nat.add_sub_cancel_left]
      rw [List.getD_eq_getElem?_getD, List.getElem?_drop, List.getD_eq_getElem?_getD,
        show 0x40000 - (sl.ofs * 256 + k) % 0x40000 + ((sl.ofs * 256 + k) % 0x40000 + i - 0x40000) = i by omega]

/-- A write to an operand leaves every other byte. -/
theorem State.byte_slotWrite_out (s : State) (p : Nat) (sl : Slot22) (k : Nat) (bs : List Byte) (a : Nat)
    (hl : bs.length ≤ sl.size) (h : ∀ i, i < bs.length → slotAddr p sl (k + i) ≠ a) : (s.slotWrite p sl k bs).byte a = s.byte a := by
  rw [State.byte_slotWrite _ _ _ _ _ hl]
  simp only [State.byte_write, List.length_take, List.length_drop]
  cases ha : sl.acc <;> simp only [Slot22.size, slotAddr, ha, Bool.false_eq_true, if_true, if_false] at hl h ⊢
  · rw [if_neg, if_neg]
    · intro hx; exact h (a - (storeBase p + (sl.ofs + k) % 0x200000)) (by omega) (by omega)
    · intro hx; exact h (a - storeBase p + (0x200000 - (sl.ofs + k) % 0x200000)) (by omega) (by omega)
  · rw [if_neg, if_neg]
    · intro hx; exact h (a - (accBase p + (sl.ofs * 256 + k) % 0x40000)) (by omega) (by omega)
    · intro hx; exact h (a - accBase p + (0x40000 - (sl.ofs * 256 + k) % 0x40000)) (by omega) (by omega)

/-- An operand reads as it was written. -/
theorem State.slotRead_slotWrite (s : State) (p : Nat) (sl : Slot22) (k : Nat) (bs : List Byte) (hl : bs.length ≤ sl.size) :
    (s.slotWrite p sl k bs).slotRead p sl k bs.length = bs := by
  refine List.ext_getElem (by simp) fun i h _ => ?_
  simp only [State.length_slotRead] at h
  have hd := State.byte_slotWrite_in s p sl k bs i hl h
  simp only [State.slotRead, List.getElem_map, List.getElem_range]
  simpa [State.byte, List.getD_eq_getElem?_getD, h] using hd

/-- A write to an operand changes memory and marks alone. -/
theorem State.slotWrite_frame (s : State) (p : Nat) (sl : Slot22) (k : Nat) (bs : List Byte) :
    ∃ m q, s.slotWrite p sl k bs = { s with mem := m, poison := q } := ⟨_, _, rfl⟩

@[simp] theorem State.slotWrite_pan (s : State) (p : Nat) (sl : Slot22) (k : Nat) (bs : List Byte) (j : Nat) :
    (s.slotWrite p sl k bs).pan j = s.pan j := rfl
@[simp] theorem State.slotWrite_drawn (s : State) (p : Nat) (sl : Slot22) (k : Nat) (bs : List Byte) :
    (s.slotWrite p sl k bs).drawn = s.drawn := rfl

-- ## Counters and flags

@[simp] theorem State.addFlags_mem (s : State) (p : Nat) (f : AFlags) : (s.addFlags p f).mem = s.mem := rfl
@[simp] theorem State.addFlags_byte (s : State) (p : Nat) (f : AFlags) (a : Nat) : (s.addFlags p f).byte a = s.byte a := rfl
@[simp] theorem State.addFlags_slotRead (s : State) (p : Nat) (f : AFlags) (q : Nat) (sl : Slot22) (k n : Nat) :
    (s.addFlags p f).slotRead q sl k n = s.slotRead q sl k n := rfl
@[simp] theorem State.charge_mem (s : State) (p : Nat) (c : Cost) : (s.charge p c).mem = s.mem := rfl
@[simp] theorem State.charge_byte (s : State) (p : Nat) (c : Cost) (a : Nat) : (s.charge p c).byte a = s.byte a := rfl
@[simp] theorem State.charge_slotRead (s : State) (p : Nat) (c : Cost) (q : Nat) (sl : Slot22) (k n : Nat) :
    (s.charge p c).slotRead q sl k n = s.slotRead q sl k n := rfl

/-- What counting leaves: the pan but for its counters, and the free value drawn. -/
theorem State.charge_frame (s : State) (p : Nat) (c : Cost) :
    ∃ v : Pan, s.charge p c = { s with drawn := s.drawn + 1, pans := s.pans.put {} p v }
      ∧ { v with
          cycles := (s.pan p).cycles, profIssue := (s.pan p).profIssue, profCell := (s.pan p).profCell
          profVec := (s.pan p).profVec, profMove := (s.pan p).profMove } = s.pan p := by
  refine ⟨_, rfl, ?_⟩
  dsimp only
  split <;> rfl

-- ## The row

/-- What holds of a pan that is to execute an instruction. -/
theorem State.fetch_some {s : State} {p : Nat} {e : PEnv} (h : s.fetch p = some e) :
    e.p = p ∧ (s.pan p).run = some e.run ∧ s.canIssue p = true := by
  unfold State.fetch at h
  split at h
  · cases h
  · rename_i hc
    dsimp only at h
    split at h
    · cases h
    · rename_i hr
      split at h
      · cases h
      · split at h
        · cases h
        · cases h; exact ⟨rfl, hr, by simpa using hc⟩

/-- What a pan that may issue is not. -/
theorem State.canIssue_true {s : State} {p : Nat} (h : s.canIssue p = true) :
    s.edge.stopped = false ∧ (s.pan p).bunded = false ∧ (s.pan p).st = .run ∧ (s.pan p).holds = [] ∧ (s.pan p).append = none
      ∧ blockHere (s.pan p) = true := by
  simp only [State.canIssue, Bool.and_eq_true, Bool.not_eq_true', beq_iff_eq, List.isEmpty_iff, Option.isNone_iff_eq_none] at h
  obtain ⟨⟨⟨⟨⟨⟨a, b⟩, c⟩, d⟩, -⟩, f⟩, g⟩ := h
  exact ⟨a, b, c, d, f, g⟩

@[simp] theorem State.detectAll_nil (s : State) (pan : Option Nat) (met : Met) : s.detectAll pan met [] = s := rfl

/-- A pan's instruction where no check finds an error: its act, and then its end. -/
theorem panRow_runs {cls f : Nat} {func : Nat → Bool} {act : PEnv → State → Done} {p : BitVec 6} {s : State} {e : PEnv}
    (h : Runs s p e cls f) (hf : func e.w = true) :
    panRow cls func act p [] s =
      match (act e s).stop with
      | some st => (act e s).s.stopPan e st
      | none =>
        if (act e s).stay then (act e s).s.charge p.toNat (act e s).cost
        else ((act e s).s.charge p.toNat (act e s).cost).advance p.toNat := by
  obtain ⟨hfetch, hc, -⟩ := h
  obtain ⟨hp, hrun, hissue⟩ := State.fetch_some hfetch
  have hs := (State.canIssue_true hissue).1
  cases hx : (act e s).stop <;> simp [panRow, hfetch, hc, hf, hp, hrun, hs, hx]

/-- A pan's instruction that always completes. -/
theorem panRow_plain {cls f : Nat} {func : Nat → Bool} {act : PEnv → State → Done} {p : BitVec 6} {s t : State} {e : PEnv} {c : Cost}
    (h : Runs s p e cls f) (hf : func e.w = true) (ha : act e s = plain t c) :
    panRow cls func act p [] s = (t.charge p.toNat c).advance p.toNat := by
  rw [panRow_runs h hf, ha]; rfl

/-- A pan that is about to execute something else, or nothing, is left alone. -/
theorem panRow_other {cls : Nat} {func : Nat → Bool} {act : PEnv → State → Done} {p : BitVec 6} {ds : List Detection} {s : State}
    (h : ∀ e, s.fetch p.toNat = some e → iClass e.w ≠ cls ∨ func e.w = false) : panRow cls func act p ds s = s := by
  unfold panRow
  split
  · rfl
  · rename_i e he
    rcases h e he with h | h <;> simp [h]

/-- An instruction that writes bytes to an operand and raises flags writes those bytes and changes nothing else. -/
theorem panWrites_of_plain {i : Instr} {cls f : Nat} {func : Nat → Bool} {act : PEnv → State → Done} {p : BitVec 6} {s : State}
    {e : PEnv} {c : Cost} {sl : Slot22} {bs : List Byte} {fl : AFlags} (h : Runs s p e cls f) (hf : func e.w = true)
    (hx : exec i s = .next (panRow cls func act p [] s))
    (ha : act e s = plain ((s.slotWrite p.toNat sl 0 bs).addFlags p.toNat fl) c) (hl : bs.length ≤ sl.size) :
    PanWrites i p.toNat sl bs fl s s (s.pan p.toNat) := by
  refine ⟨((s.slotWrite p.toNat sl 0 bs).addFlags p.toNat fl).charge p.toNat c, ?_, ?_, ?_, ?_⟩
  · rw [hx, panRow_plain h hf ha]
  · simpa using State.slotRead_slotWrite s p.toNat sl 0 bs hl
  · obtain ⟨v, hv, he⟩ := State.charge_frame ((s.slotWrite p.toNat sl 0 bs).addFlags p.toNat fl) p.toNat c
    have hp : (((s.slotWrite p.toNat sl 0 bs).addFlags p.toNat fl).charge p.toNat c).pan p.toNat = v := by
      rw [hv]; simp [State.pan]
    have ha := congrArg Pan.arith he
    rw [hp]
    simpa [State.addFlags] using ha
  · refine ⟨rfl, fun q hq => ?_, ?_, fun a hh => ?_⟩
    · obtain ⟨v, hv, -⟩ := State.charge_frame ((s.slotWrite p.toNat sl 0 bs).addFlags p.toNat fl) p.toNat c
      rw [hv]; simp [State.pan, State.addFlags, hq]; rfl
    · obtain ⟨v, hv, he⟩ := State.charge_frame ((s.slotWrite p.toNat sl 0 bs).addFlags p.toNat fl) p.toNat c
      have hp : (((s.slotWrite p.toNat sl 0 bs).addFlags p.toNat fl).charge p.toNat c).pan p.toNat = v := by
        rw [hv]; simp [State.pan]
      have hf : ((s.slotWrite p.toNat sl 0 bs).addFlags p.toNat fl).pan p.toNat
          = { s.pan p.toNat with arith := (s.pan p.toNat).arith ||| fl } := by simp [State.addFlags]
      rw [hf] at he
      rw [hp]
      have hx := congrArg (fun x : Pan =>
        { x with arith := (s.pan p.toNat).arith, cycles := (s.pan p.toNat).cycles, profIssue := (s.pan p.toNat).profIssue
                 profCell := (s.pan p.toNat).profCell, profVec := (s.pan p.toNat).profVec, profMove := (s.pan p.toNat).profMove
                 profGated := (s.pan p.toNat).profGated }) he
      exact hx
    · simp only [State.charge_byte, State.addFlags_byte]
      exact State.byte_slotWrite_out s p.toNat sl 0 bs a hl fun k hk hka => hh ⟨k, hk, by simpa using hka⟩

end Sys2Proof.Machine
end

