-- ==== Sys2Proof/Laws/Memory.lean ====
section
/-! SUPPORT. Memory's canonical form under every operation on memory, what each of them leaves, and the lengths of what is written. -/
namespace Sys2Proof.Machine

-- ## The canonical form

theorem Memory.wf_nil : Memory.wf [] := Tab.wf_nil 0
theorem Memory.wf_reset : Memory.wf State.reset.mem := Memory.wf_nil

theorem Memory.wf_write {s : State} (a : Nat) (bs : List Byte) (h : Memory.wf s.mem) : Memory.wf (s.write a bs).mem :=
  Tab.wf_span a bs h
theorem Memory.wf_writeN {s : State} (a n v : Nat) (h : Memory.wf s.mem) : Memory.wf (s.writeN a n v).mem := Memory.wf_write a _ h
theorem Memory.wf_zero {s : State} (a n : Nat) (h : Memory.wf s.mem) : Memory.wf (s.zero a n).mem := Tab.wf_wipe a n h
theorem Memory.wf_mark {s : State} (a : Nat) (h : Memory.wf s.mem) : Memory.wf (s.mark a).mem := h
theorem Memory.wf_slotWrite {s : State} (p : Nat) (sl : Slot22) (k : Nat) (bs : List Byte) (h : Memory.wf s.mem) :
    Memory.wf (s.slotWrite p sl k bs).mem := by
  suffices hw : ∀ (n : Nat) (s : State) (base size a : Nat) (bs : List Byte), Memory.wf s.mem → Memory.wf (wrapWrite n s base size a bs).mem from
    hw _ _ _ _ _ _ h
  intro n
  induction n with
  | zero => exact fun _ _ _ _ _ h => h
  | succ n ih =>
    intro s base size a bs h
    unfold wrapWrite
    split
    · exact Memory.wf_write _ _ h
    · exact ih _ _ _ _ _ (Memory.wf_write _ _ h)
theorem Memory.wf_engineWrite {s : State} (a : Nat) (bs : List Byte) (h : Memory.wf s.mem) : Memory.wf (s.engineWrite a bs).mem := by
  unfold State.engineWrite
  dsimp only
  split
  · exact h
  · exact Memory.wf_write _ _ h
theorem Memory.wf_wipePan {s : State} (p : Nat) (h : Memory.wf s.mem) : Memory.wf (s.wipePan p).mem := by
  unfold State.wipePan
  split
  · exact h
  · exact Memory.wf_zero _ _ (Memory.wf_zero _ _ (Memory.wf_zero _ _ h))
/-- A fall of PORST_N keeps what lies in LPDDR5X. -/
theorem Memory.wf_porReset {s : State} (left : FuseOutcome) (h : Memory.wf s.mem) : Memory.wf (s.porReset left).mem :=
  Tab.wf_filter _ h

-- ## What the operations leave

@[simp] theorem State.mark_byte (s : State) (a x : Nat) : (s.mark a).byte x = s.byte x := rfl

/-- A write changes memory and marks alone. -/
theorem State.write_frame (s : State) (a : Nat) (bs : List Byte) :
    { s.write a bs with mem := s.mem, poison := s.poison } = s := rfl
/-- Zeroing changes memory and marks alone. -/
theorem State.zero_frame (s : State) (a n : Nat) : { s.zero a n with mem := s.mem, poison := s.poison } = s := rfl

/-- A read that meets no written byte reads as before. -/
theorem State.read_write_other (s : State) (a : Nat) (bs : List Byte) (b n : Nat) (h : b + n ≤ a ∨ a + bs.length ≤ b) :
    (s.write a bs).read b n = s.read b n := by
  refine List.ext_getElem (by simp) fun i hi _ => ?_
  simp only [State.length_read] at hi
  have h1 := State.getD_read (s.write a bs) b n i hi
  have h2 := State.getD_read s b n i hi
  rw [State.byte_write, if_neg (by omega), ← h2] at h1
  simpa [hi] using h1

/-- Where no unit of the range is marked, a write inside it leaves the marks. -/
theorem State.write_poison_unmarked (s : State) (a : Nat) (bs : List Byte) (h : s.marked a bs.length = false) :
    (s.write a bs).poison = s.poison := by
  refine List.filter_eq_self.mpr fun u hu => ?_
  by_cases hn : bs.length = 0
  · simp [hn]; omega
  simp only [State.marked, Bool.and_eq_false_iff, bne_eq_false_iff_eq, hn, false_or] at h
  have := List.any_eq_false.mp h u hu
  simp only [Bool.and_eq_true, decide_eq_true_eq, not_and, Nat.not_lt] at this
  simp only [Bool.not_eq_true', Bool.and_eq_false_iff, decide_eq_false_iff_not]
  by_cases h1 : u < a + bs.length
  · exact Or.inl (by have := this h1; omega)
  · exact Or.inr (by omega)

/-- A set of marks stays in rising order. -/
theorem insertNum_sorted (k : Nat) {l : List Nat} (h : l.Pairwise (· < ·)) : (insertNum k l).Pairwise (· < ·) ∧
    ∀ x, x ∈ insertNum k l ↔ x = k ∨ x ∈ l := by
  induction l with
  | nil => simp [insertNum]
  | cons y l ih =>
    obtain ⟨hy, hl⟩ := List.pairwise_cons.mp h
    obtain ⟨is, im⟩ := ih hl
    simp only [insertNum]
    split
    · refine ⟨List.pairwise_cons.mpr ⟨fun x hx => ?_, h⟩, by simp⟩
      rcases List.mem_cons.mp hx with rfl | hx
      · assumption
      · exact Nat.lt_trans (by assumption) (hy x hx)
    · split
      · subst_vars; exact ⟨h, by simp⟩
      · refine ⟨List.pairwise_cons.mpr ⟨fun x hx => ?_, is⟩, fun x => ?_⟩
        · rcases (im x).mp hx with rfl | hx
          · omega
          · exact hy x hx
        · simp only [List.mem_cons, im]; exact ⟨fun h => by tauto, fun h => by tauto⟩

-- ## Lengths

@[simp] theorem length_leBytes (n x : Nat) : (leBytes n x).length = n := by
  induction n generalizing x with
  | zero => rfl
  | succ n ih => simp [leBytes, ih]
@[simp] theorem length_slice (l : List Byte) (a n : Nat) : (slice l a n).length = n := by simp [slice]

/-- Running a function over a list gives as many values. -/
theorem Arith.length_go_mapM {α : Type} (f : α → Arith Nat) (l : List α) : (Arith.go (l.mapM f)).1.length = l.length := by
  suffices h : ∀ (l : List α) (x : AFlags), ((l.mapM f) x).1.length = l.length from h l 0
  intro l
  induction l with
  | nil => intro x; rfl
  | cons a l ih =>
    intro x
    simp only [List.mapM_cons, bind, StateT.bind, pure, StateT.pure, List.length_cons]
    exact congrArg (· + 1) (ih _)

end Sys2Proof.Machine
end

