-- ==== Sys2Proof/Laws/Rows.lean ====
section
/-! SUPPORT. What a step and each shared row do once their conditions hold, and the inductions over what a row settles. -/
namespace Sys2Proof.Machine

-- ## Steps

@[simp] theorem step_cons (c : Instr) (rest : List Instr) (s : State) :
    step { s with pending := c :: rest } = exec c { s with pending := rest } := rfl

/-- On an empty queue the block idles. -/
theorem step_idle {s : State} (h : s.pending = []) : step s = .next s := by unfold step; rw [h]

/-- A step answers what the command in front does on the rest of the queue. -/
theorem step_front {s : State} {c : Instr} {rest : List Instr} (h : s.pending = c :: rest) :
    step s = exec c { s with pending := rest } := by unfold step; rw [h]

-- ## Port rows

/-- A request that the port serves takes its effect and is answered with its status. -/
theorem State.serve_served {s : State} {r : Req} (h : Served s r) (early : State → State) (act : State → BitVec 4 × State) :
    s.serve r early act = (act s).2.respond r (act s).1 [] := by
  obtain ⟨⟨h1, h2, h3, h4⟩, h5⟩ := h
  simp [State.serve, h1, h2, h4, h5, Nat.not_le.mpr h3]

/-- A request that a time lock keeps waiting has no effect yet. -/
theorem State.serve_held {s : State} {r : Req} (h : Taken s r) (hh : s.ctlHeld r.module1 = true) (early : State → State)
    (act : State → BitVec 4 × State) : s.serve r early act = s := by
  obtain ⟨h1, h2, h3, h4⟩ := h
  simp [State.serve, h1, h2, h4, hh, Nat.not_le.mpr h3]

/-- A request to a race window waits for no lock: it ends those in its way, takes its effect and is answered. -/
theorem State.serveRace_taken {s : State} {r : Req} (h : Taken s r) (early : State → State) (act : State → BitVec 4 × State) :
    s.serveRace r early act =
      (act (s.racePath (modRow r.module1) 0)).2.respond r (act (s.racePath (modRow r.module1) 0)).1 [] := by
  obtain ⟨h1, h2, h3, h4⟩ := h
  simp [State.serveRace, h1, h2, h4, Nat.not_le.mpr h3]

/-- A stopped device serves nothing. -/
theorem State.serve_stopped {s : State} (h : s.edge.stopped = true) (r : Req) (early : State → State)
    (act : State → BitVec 4 × State) : s.serve r early act = s := by simp [State.serve, h]

/-- Before READY a request is answered NOT_READY. -/
theorem State.serve_early {s : State} {r : Req} (h1 : (s.link r.module1).isUp = true) (h2 : s.edge.stopped = false)
    (h3 : r.ini.toNat < 64) (h4 : s.edge.ready = false) (early : State → State) (act : State → BitVec 4 × State) :
    s.serve r early act = (early s).respond r rNotReady [] := by simp [State.serve, h1, h2, h4, Nat.not_le.mpr h3]

-- ## Command rows

/-- A command that may start begins, takes its row's effect, and what waited for it follows. -/
theorem startRow_starts {s : State} {c : Cmd} {op : Nat} (h : Starts s c op) {sel : Nat → Bool} (hs : sel (c.f 8 1) = true)
    (act : Cmd → State → State) :
    startRow op sel act c.seq s =
      match (s.beginCmd c).cmd? c.seq with
      | none => s.beginCmd c
      | some d => (act d (s.beginCmd c)).settled := by
  obtain ⟨h1, h2, h3, h4, h5⟩ := h
  simp [startRow, h1, h2, h3, h4, h5, hs]
  rfl

/-- A command of another opcode is left alone. -/
theorem startRow_other {s : State} {seq : DWord} {op : Nat} {sel : Nat → Bool} {act : Cmd → State → State}
    (h : ∀ c, s.cmd? seq = some c → c.op ≠ op) : startRow op sel act seq s = s := by
  unfold startRow
  split
  · rfl
  · rename_i c hc; simp [h c hc]

/-- A device that does not serve commands starts none. -/
theorem startRow_down {s : State} {seq : DWord} {op : Nat} {sel : Nat → Bool} {act : Cmd → State → State} (h : s.up = false) :
    startRow op sel act seq s = s := by
  unfold startRow
  split
  · rfl
  · simp [State.canStart, h]

-- ## Service rows

/-- A request whose turn it is takes its service's effect, for a requester whose partition is not torn down. -/
theorem svcRow_asks {s u : State} {c : BitVec 5} {code : Nat} {r : SvcReq} (h : Asks s c.toNat code r u)
    {waits : SvcReq → State → Bool} (hw : waits r s = false) (act : Nat → Ini → SvcReq → State → State) :
    svcRow code waits act c s = (act c.toNat (u.asker c.toNat) r u).settleMbx := by
  obtain ⟨h1, h2, h3, rfl, h5⟩ := h
  have ha : (s.takeRequest c.toNat r).asker c.toNat = s.asker c.toNat := by
    simp [State.asker, State.takeRequest, Chan.take, State.chan, Chan.sideA]
  rw [← ha] at h5
  unfold State.asker at h5
  unfold State.asker
  simp only [svcRow, h1, h2, h3, hw, bne_self_eq_false, Bool.false_eq_true, if_false, Bool.or_self]
  congr 1
  split
  · rename_i p hp
    rw [if_neg]
    rw [h5 p hp]; exact Bool.false_ne_true
  · rfl

/-- A reply from a service row. -/
theorem State.answer_replies (u : State) (c : Nat) (r : SvcReq) (st : Nat) (ws : List Nat) (clamp : Bool) :
    (u.answer c r st ws clamp).settleMbx = u.replies c r st ws clamp := rfl

-- ## Edge rows

/-- The I3C target takes part. -/
theorem i3cRow_live {s : State} (h : s.i3cLive = true) (f : State → I3c) : i3cRow f s = .next { s with i3c := f s } := by
  simp [i3cRow, h]

/-- The I3C target takes no part. -/
theorem i3cRow_dead {s : State} (h : s.i3cLive = false) (f : State → I3c) : i3cRow f s = .next s := by simp [i3cRow, h]

/-- A TAP instruction is loaded. -/
theorem loadTap_loads {s : State} (h : s.edge.aonUp = true) (t : TapInstr) (f : State → State) :
    loadTap t f s = .next (f { s with dbg := { s.dbg with tap := t } }) := by simp [loadTap, h]

/-- A debug operation that is done. -/
theorem dbgOp_done {s : State} (h : s.edge.aonUp = true) (ht : s.dbg.tap = .dbg) {always : Bool}
    (ha : always = true ∨ s.dbgShut = false) (op a : Nat) (write : Bool)
    (act : State → BitVec 3 × Nat × State) :
    dbgOp op a always write act s = .next ((act s).2.2.dbgResult op (act s).1 a (act s).2.1) := by
  rcases ha with rfl | h1 <;> simp_all [dbgOp]

/-- A debug operation that is denied, where debug reaches nothing. -/
theorem dbgOp_denied {s : State} (h : s.edge.aonUp = true) (ht : s.dbg.tap = .dbg)
    (hs : s.dbgShut = true) (op a : Nat) (write : Bool) (act : State → BitVec 3 × Nat × State) :
    dbgOp op a false write act s = .next ((if write then s.refuse else s).dbgResult op dDenied a 0) := by
  simp [dbgOp, h, ht, hs]

-- ## Engine rows

/-- The first program of a queue decides what settling it does. -/
theorem State.settlePke_cons {s : State} {r : PkeReq} {rest : List PkeReq} (n : Nat) (hq : s.eng.pke = r :: rest) :
    s.settlePke (n + 1) = match s.pkeRun r with | none => s.pkeBegin r | some t => (t.withPke rest).settlePke n := by
  conv_lhs => unfold State.settlePke
  simp only [hq]
  cases s.pkeRun r <;> rfl
theorem State.settlePke_nil {s : State} (n : Nat) (hq : s.eng.pke = []) : s.settlePke n = s := by
  cases n <;> simp [State.settlePke, hq]

/-- A request to an idle engine is run at once, and leaves the queue. -/
theorem State.pkeIssue_runs {s t : State} {r : PkeReq} (hq : s.eng.pke = []) (h : (s.withPke [r]).pkeRun r = some t) :
    s.pkeIssue r = t.withPke [] := by
  have hs : s.pkeIssue r = (s.withPke [r]).settlePke 2 := by simp [State.pkeIssue, State.withPke, hq]
  rw [hs, State.settlePke_cons 1 (rfl : (s.withPke [r]).eng.pke = [r]), h]
  exact State.settlePke_nil 1 rfl

/-- A request to an idle engine whose program waits for the DRBG begins and stays. -/
theorem State.pkeIssue_waits {s : State} {r : PkeReq} (hq : s.eng.pke = []) (h : (s.withPke [r]).pkeRun r = none) :
    s.pkeIssue r = (s.withPke [r]).pkeBegin r := by
  have hs : s.pkeIssue r = (s.withPke [r]).settlePke 2 := by simp [State.pkeIssue, State.withPke, hq]
  rw [hs, State.settlePke_cons 1 (rfl : (s.withPke [r]).eng.pke = [r]), h]

/-- A program that is not loaded. -/
theorem State.pkeRun_absent {s : State} {r : PkeReq} (h : s.pkeLoaded r.prog = false) : s.pkeRun r = some (s.pkeEnd pkProgram false []) := by
  simp [State.pkeRun, h]

/-- A program whose key slot may not be used leaves the engine. -/
theorem State.pkeRun_refused {s : State} {r : PkeReq} (h : s.pkeLoaded r.prog = true) (hr : s.pkeRefused r = true) : s.pkeRun r = some s := by
  simp [State.pkeRun, h, hr]

/-- A program that is loaded, whose slot may be used, and that has the random values it needs. -/
theorem State.pkeRun_runs {s : State} {r : PkeReq} (h : s.pkeLoaded r.prog = true) (hr : s.pkeRefused r = false)
    (hd : pkeRandom r.prog = true → s.drbgReady = true) : s.pkeRun r = (s.pkeBegin r).pkeProgram r := by
  cases hx : pkeRandom r.prog
  · simp [State.pkeRun, h, hr, hx]
  · have hy := hd hx
    have he : s.eng.drbg = .ready := by simp only [State.drbgReady, Bool.and_eq_true, beq_iff_eq] at hy; exact hy.1
    simp [State.pkeRun, h, hr, hx, State.drbgWaits, hy, he]

-- ## Inductions

/-- What every element keeps, a fold keeps. -/
theorem foldl_keeps {α β : Type} (P : β → Prop) (f : β → α → β) (l : List α) (h : ∀ b, ∀ a ∈ l, P b → P (f b a)) :
    ∀ b, P b → P (l.foldl f b) := by
  induction l with
  | nil => exact fun b hb => hb
  | cons a l ih =>
    exact fun b hb => ih (fun b x hx => h b x (List.mem_cons_of_mem _ hx)) _ (h b a List.mem_cons_self hb)

/-- What every completion keeps, settling keeps. -/
theorem State.settle_keeps (P : State → Prop) (h1 : ∀ s c st, P s → P (s.completeOne c st)) (h2 : ∀ s c st, P s → P (s.finishNoRow c st)) :
    ∀ fuel s, P s → P (s.settle fuel) := by
  intro fuel
  induction fuel with
  | zero => exact fun s h => h
  | succ n ih =>
    intro s h
    unfold State.settle
    split
    · exact ih _ (h1 _ _ _ h)
    · split
      · exact ih _ (h2 _ _ _ h)
      · exact h

/-- What every completion keeps, the completion of a command keeps. -/
theorem State.complete_keeps (P : State → Prop) (h1 : ∀ s c st, P s → P (s.completeOne c st)) (h2 : ∀ s c st, P s → P (s.finishNoRow c st))
    (s : State) (seq : DWord) (st : Byte) (h : P s) : P (s.complete seq st) := by
  unfold State.complete
  split
  · exact h
  · exact State.settle_keeps P h1 h2 _ _ (h1 _ _ _ h)

/-- What every step of the boot keeps, the boot keeps. -/
theorem State.boots_keeps (P : State → Prop) (h : ∀ s t, s.bootStep = some t → P s → P t) (s : State) (hs : P s) : P s.boots := by
  suffices hf : ∀ fuel s, P s → P (State.bootRun fuel s) from hf 16 s hs
  intro fuel
  induction fuel with
  | zero => exact fun s h => h
  | succ n ih =>
    intro s hs
    unfold State.bootRun
    split
    · exact hs
    · rename_i t ht; exact ih t (h s t ht hs)

/-- The boot does nothing where it waits. -/
theorem State.boots_waits {s : State} (h : s.bootStep = none) : s.boots = s := by
  show State.bootRun 16 s = s
  rw [State.bootRun, h]

/-- The boot is over. -/
theorem State.boots_done {s : State} (h : s.boot.stage = .done) : s.boots = s := by
  refine State.boots_waits ?_
  unfold State.bootStep
  split
  · rfl
  · rw [h]

/-- A stopped device's boot does not go on. -/
theorem State.boots_stopped {s : State} (h : s.edge.stopped = true) : s.boots = s :=
  State.boots_waits (by simp [State.bootStep, h])

/-- What every refused request keeps, settling the mailboxes keeps. -/
theorem State.settleMbx_keeps (P : State → Prop)
    (h : ∀ s c r, P s → P ((s.takeRequest c r).reply c r.tag svBadService false [])) (s : State) (hs : P s) : P s.settleMbx := by
  suffices hf : ∀ fuel s, P s → P (State.settleServices fuel s) from hf 300 s hs
  intro fuel
  induction fuel with
  | zero => exact fun s h => h
  | succ n ih =>
    intro s hs
    unfold State.settleServices
    split
    · exact hs
    · split
      · exact hs
      · split
        · exact hs
        · exact ih _ (h _ _ _ hs)

/-- No request is answered by itself where the Saltern takes none. -/
theorem State.settleMbx_none {s : State} (h : s.nextService = none) : s.settleMbx = s := by
  show State.settleServices 300 s = s
  rw [State.settleServices, h]

end Sys2Proof.Machine
end

