-- ==== Sys2Proof/Laws/Frames.lean ====
section
/-! SUPPORT. What the shared operations on the tally, the error records, the commands and the pans leave unchanged, and that the end of a
command keeps memory canonical. -/
namespace Sys2Proof.Machine

-- ## The tally and its spill ring

@[simp] theorem length_entryBytes (e : TEntry) : e.bytes.length = 32 := by simp [TEntry.bytes]

/-- An entry spilled changes memory and marks alone, and no byte outside the ring. -/
theorem State.spillEntry_frame (s : State) (e : TEntry) : { s.spillEntry e with mem := s.mem, poison := s.poison } = s := by
  unfold State.spillEntry
  split <;> rfl
theorem State.spillEntry_byte (s : State) (e : TEntry) (a : Nat) (h : ¬ InSpill s a) : (s.spillEntry e).byte a = s.byte a := by
  unfold State.spillEntry
  split
  · rfl
  · rename_i hd
    rw [State.byte_write, if_neg]
    simp only [length_entryBytes, Tally.spillAt, InSpill] at h ⊢
    have hm := Nat.mod_lt (e.seq.toNat % 2 ^ 40) (show 0 < max 1 s.tally.depth by omega)
    have hx : max 1 s.tally.depth = s.tally.depth := by omega
    rw [hx] at hm ⊢
    generalize e.seq.toNat % 2 ^ 40 % s.tally.depth = k at hm ⊢
    generalize s.tally.depth = d at h hm
    generalize reserveBase = r at h ⊢
    clear hd hx
    omega
theorem Memory.wf_spillEntry {s : State} (e : TEntry) (h : Memory.wf s.mem) : Memory.wf (s.spillEntry e).mem := by
  unfold State.spillEntry
  split
  · exact h
  · exact Memory.wf_write _ _ h

/-- A new entry, and an event, change the tally and the spill ring alone. -/
theorem State.tallyPut_frame (s : State) (e : TEntry) : { s.tallyPut e with tally := s.tally, mem := s.mem, poison := s.poison } = s := rfl
theorem State.tallyPut_byte (s : State) (e : TEntry) (a : Nat) (h : ¬ InSpill s a) : (s.tallyPut e).byte a = s.byte a := by
  unfold State.tallyPut
  dsimp only
  split
  · exact State.spillEntry_byte _ _ _ h
  · rfl
theorem Memory.wf_tallyPut {s : State} (e : TEntry) (h : Memory.wf s.mem) : Memory.wf (s.tallyPut e).mem := by
  unfold State.tallyPut
  dsimp only
  split
  · exact Memory.wf_spillEntry _ h
  · exact h
theorem State.event_frame (s : State) (ini : Ini) (code part pan st : Byte) (cl : BitVec 16) :
    { s.event ini code part pan st cl with tally := s.tally, mem := s.mem, poison := s.poison } = s := by
  unfold State.event State.tallyAdd
  split <;> rfl
theorem State.event_byte (s : State) (ini : Ini) (code part pan st : Byte) (cl : BitVec 16) (a : Nat) (h : ¬ InSpill s a) :
    (s.event ini code part pan st cl).byte a = s.byte a := by
  unfold State.event State.tallyAdd
  split
  · rfl
  · exact State.tallyPut_byte _ _ _ h
theorem Memory.wf_event {s : State} (ini : Ini) (code part pan st : Byte) (cl : BitVec 16) (h : Memory.wf s.mem) :
    Memory.wf (s.event ini code part pan st cl).mem := by
  unfold State.event State.tallyAdd
  split
  · exact h
  · exact Memory.wf_tallyPut _ h

@[simp] theorem State.event_cmds (s : State) (ini : Ini) (code part pan st : Byte) (cl : BitVec 16) :
    (s.event ini code part pan st cl).cmds = s.cmds := (congrArg State.cmds (State.event_frame s ini code part pan st cl) :)
@[simp] theorem State.event_pans (s : State) (ini : Ini) (code part pan st : Byte) (cl : BitVec 16) :
    (s.event ini code part pan st cl).pans = s.pans := (congrArg State.pans (State.event_frame s ini code part pan st cl) :)
@[simp] theorem State.event_edge (s : State) (ini : Ini) (code part pan st : Byte) (cl : BitVec 16) :
    (s.event ini code part pan st cl).edge = s.edge := (congrArg State.edge (State.event_frame s ini code part pan st cl) :)
@[simp] theorem State.event_boot (s : State) (ini : Ini) (code part pan st : Byte) (cl : BitVec 16) :
    (s.event ini code part pan st cl).boot = s.boot := (congrArg State.boot (State.event_frame s ini code part pan st cl) :)
@[simp] theorem State.event_cfg (s : State) (ini : Ini) (code part pan st : Byte) (cl : BitVec 16) :
    (s.event ini code part pan st cl).cfg = s.cfg := (congrArg State.cfg (State.event_frame s ini code part pan st cl) :)

/-- A tally entry changed in place. -/
theorem State.tallyMod_frame (s : State) (seq : DWord) (f : TEntry → TEntry) :
    { s.tallyMod seq f with tally := s.tally, mem := s.mem, poison := s.poison } = s := rfl
/-- What a fold of spilled entries keeps. -/
theorem State.spillFold (s : State) (seq : DWord) (l : List TEntry) (P : State → Prop)
    (h : ∀ (t : State) (e : TEntry), t.tally = s.tally → P t → P (t.spillEntry e)) (hs : P s) :
    P (l.foldl (fun s e => if e.seq = seq then s.spillEntry e else s) s) := by
  refine (foldl_keeps (fun t : State => t.tally = s.tally ∧ P t) _ l ?_ s ⟨rfl, hs⟩).2
  intro t e _ ht
  split
  · exact ⟨((congrArg State.tally (State.spillEntry_frame t e) :) : (t.spillEntry e).tally = t.tally).trans ht.1, h t e ht.1 ht.2⟩
  · exact ht
theorem State.tallyMod_byte (s : State) (seq : DWord) (f : TEntry → TEntry) (a : Nat) (h : ¬ InSpill s a) :
    (s.tallyMod seq f).byte a = s.byte a := by
  refine State.spillFold s seq _ (fun t => t.byte a = s.byte a) (fun t e ht hb => ?_) rfl
  rw [State.spillEntry_byte _ _ _ (by simpa [InSpill, ht] using h), hb]
theorem Memory.wf_tallyMod {s : State} (seq : DWord) (f : TEntry → TEntry) (h : Memory.wf s.mem) : Memory.wf (s.tallyMod seq f).mem :=
  State.spillFold s seq _ (fun t => Memory.wf t.mem) (fun _ e _ hb => Memory.wf_spillEntry e hb) h

-- ## One table each

/-- A record changes the error records alone. -/
theorem State.record_frame (s : State) (cls src unit addr : Nat) (met : Met) : { s.record cls src unit addr met with errs := s.errs } = s := by
  unfold State.record
  split <;> rfl
@[simp] theorem State.record_mem (s : State) (cls src unit addr : Nat) (met : Met) : (s.record cls src unit addr met).mem = s.mem :=
  (congrArg State.mem (State.record_frame s cls src unit addr met) :)
@[simp] theorem State.record_edge (s : State) (cls src unit addr : Nat) (met : Met) : (s.record cls src unit addr met).edge = s.edge :=
  (congrArg State.edge (State.record_frame s cls src unit addr met) :)
@[simp] theorem State.record_pans (s : State) (cls src unit addr : Nat) (met : Met) : (s.record cls src unit addr met).pans = s.pans :=
  (congrArg State.pans (State.record_frame s cls src unit addr met) :)
@[simp] theorem State.record_cmds (s : State) (cls src unit addr : Nat) (met : Met) : (s.record cls src unit addr met).cmds = s.cmds :=
  (congrArg State.cmds (State.record_frame s cls src unit addr met) :)

/-- A FATAL error stops the device, and changes its edge and the error records alone. -/
theorem State.fatal_frame (s : State) (cause src unit : Nat) :
    { s.fatal cause src unit with edge := s.edge, errs := s.errs } = s
      ∧ (s.fatal cause src unit).edge = { s.edge with ready := false, faultLow := true, stopped := true } := by
  have he := State.record_edge s eFatal src unit 0 {}
  have hf := State.record_frame s eFatal src unit 0 {}
  unfold State.fatal
  generalize s.record eFatal src unit 0 {} = u at he hf
  have h2 : ({ u.edge with ready := false, faultLow := true, stopped := true } : Edge)
      = { s.edge with ready := false, faultLow := true, stopped := true } := by rw [he]
  exact ⟨(show ({ u with edge := s.edge, errs := s.errs } : State) = s by rw [← he]; exact hf), h2⟩

/-- The lock of a command ends: its entry in the command table, and the refreshes owed. -/
theorem State.lockCause_frame (s : State) (seq : DWord) (cause : BitVec 4) :
    { s.lockCause seq cause with cmds := s.cmds, memSys := s.memSys } = s := by
  unfold State.lockCause
  split
  · rfl
  · split <;> rfl
@[simp] theorem State.lockCause_mem (s : State) (seq : DWord) (cause : BitVec 4) : (s.lockCause seq cause).mem = s.mem :=
  (congrArg State.mem (State.lockCause_frame s seq cause) :)
theorem State.lockWhere_frame (s : State) (f : Cmd → Bool) (cause : BitVec 4) :
    { s.lockWhere f cause with cmds := s.cmds, memSys := s.memSys } = s := by
  unfold State.lockWhere
  refine foldl_keeps (fun t : State => { t with cmds := s.cmds, memSys := s.memSys } = s) _ _ ?_ _ rfl
  intro t c _ ht
  split
  · have h := State.lockCause_frame t c.seq cause
    generalize t.lockCause c.seq cause = u at h ⊢
    rw [← ht, ← h]
  · exact ht
@[simp] theorem State.lockWhere_mem (s : State) (f : Cmd → Bool) (cause : BitVec 4) : (s.lockWhere f cause).mem = s.mem :=
  (congrArg State.mem (State.lockWhere_frame s f cause) :)

/-- The pans that leave a command change alone. -/
theorem State.leavePans_frame (s : State) (seq : DWord) : { s.leavePans seq with pans := s.pans } = s := by
  unfold State.leavePans
  generalize pansAll = l
  refine foldl_keeps (fun t : State => { t with pans := s.pans } = s) _ _ ?_ _ rfl
  intro b a _ hb
  split
  · split
    · exact hb
    · exact hb
  · exact hb
@[simp] theorem State.leavePans_mem (s : State) (seq : DWord) : (s.leavePans seq).mem = s.mem := by
  have h := State.leavePans_frame s seq
  generalize s.leavePans seq = u at h ⊢
  exact (congrArg State.mem h :)

/-- A request that ends changes its slot, and draws the counts that no rule gives. -/
theorem State.raceFail_frame (s : State) (i : Nat) : { s.raceFail i with slots := s.slots, drawn := s.drawn } = s := by
  unfold State.raceFail
  dsimp only
  split
  · rfl
  · split <;> rfl
@[simp] theorem State.raceFail_mem (s : State) (i : Nat) : (s.raceFail i).mem = s.mem := (congrArg State.mem (State.raceFail_frame s i) :)

/-- Ring fields that take effect change the context alone. -/
theorem State.settleCtx_frame (s : State) (q : Nat) : { s.settleCtx q with ctxs := s.ctxs } = s := by
  unfold State.settleCtx
  dsimp only
  split <;> rfl
@[simp] theorem State.settleCtx_mem (s : State) (q : Nat) : (s.settleCtx q).mem = s.mem := (congrArg State.mem (State.settleCtx_frame s q) :)

/-- A reply changes the channels alone. -/
theorem State.reply_frame (s : State) (c : Nat) (tag : BitVec 16) (st : Nat) (cl : Bool) (ws : List Word) :
    { s.reply c tag st cl ws with chans := s.chans } = s := rfl

/-- Requests with reserved codes change the channels and the Saltern's turn alone. -/
theorem State.settleMbx_mem (s : State) : s.settleMbx.mem = s.mem :=
  State.settleMbx_keeps (fun t => t.mem = s.mem) (fun _ _ _ h => h) s rfl

-- ## The end of a command

/-- The end of a stream's use keeps memory canonical. -/
theorem Memory.wf_settleStream {s : State} (u : KvUse) (good : Bool) (h : Memory.wf s.mem) : Memory.wf (s.settleStream u good).mem := by
  unfold State.settleStream
  dsimp only
  split
  · exact h
  · split
    · exact h
    · exact Memory.wf_write _ _ h

/-- The registers of the partition that a completion updates. -/
theorem State.creditSteps_frame (s : State) (c : Cmd) (good : Bool) : { s.creditSteps c good with parts := s.parts } = s := by
  unfold State.creditSteps
  split <;> rfl
theorem State.countFull_frame (s : State) (c : Cmd) (st : Byte) : { s.countFull c st with parts := s.parts } = s := by
  unfold State.countFull
  split <;> rfl
theorem State.noteLock_frame (s : State) (c : Cmd) (good : Bool) :
    { s.noteLock c good with parts := s.parts, drawn := s.drawn, memSys := s.memSys } = s := by
  unfold State.noteLock
  split
  · dsimp only; split <;> rfl
  · rfl
theorem State.tallyDone_frame (s : State) (c : Cmd) (st : Byte) :
    { s.tallyDone c st with tally := s.tally, mem := s.mem, poison := s.poison } = s := rfl

/-- The completion of a command keeps memory canonical. -/
theorem Memory.wf_putEntry {s : State} (c : Cmd) (st : Byte) (h : Memory.wf s.mem) : Memory.wf (s.putEntry c st).mem := by
  unfold State.putEntry
  dsimp only
  split
  · exact h
  · exact Memory.wf_write _ _ h
theorem Memory.wf_completeOne {s : State} (c : Cmd) (st : Byte) (h : Memory.wf s.mem) : Memory.wf (s.completeOne c st).mem := by
  unfold State.completeOne
  rw [State.settleCtx_mem]
  refine Memory.wf_putEntry c st ?_
  refine Memory.wf_tallyMod _ _ ?_
  rw [show ∀ (t : State) g, (t.noteLock c g).mem = t.mem from fun t g => (congrArg State.mem (State.noteLock_frame t c g) :),
    show ∀ t : State, (t.countFull c st).mem = t.mem from fun t => (congrArg State.mem (State.countFull_frame t c st) :),
    show ∀ (t : State) g, (t.creditSteps c g).mem = t.mem from fun t g => (congrArg State.mem (State.creditSteps_frame t c g) :),
    State.leavePans_mem]
  exact foldl_keeps (fun t : State => Memory.wf t.mem) _ _ (fun _ _ _ hb => Memory.wf_settleStream _ _ hb) _ h

theorem Memory.wf_beginCmd {s : State} (c : Cmd) (h : Memory.wf s.mem) : Memory.wf (s.beginCmd c).mem := Memory.wf_tallyMod _ _ h

theorem Memory.wf_finishNoRow {s : State} (c : Cmd) (st : Byte) (h : Memory.wf s.mem) : Memory.wf (s.finishNoRow c st).mem := by
  unfold State.finishNoRow
  dsimp only
  split
  · exact Memory.wf_beginCmd c h
  · exact Memory.wf_completeOne _ _ (Memory.wf_beginCmd c h)

theorem Memory.wf_settle {s : State} (n : Nat) (h : Memory.wf s.mem) : Memory.wf (s.settle n).mem :=
  State.settle_keeps (fun t => Memory.wf t.mem) (fun _ _ _ => Memory.wf_completeOne _ _) (fun _ _ _ => Memory.wf_finishNoRow _ _) n s h

theorem Memory.wf_complete {s : State} (seq : DWord) (st : Byte) (h : Memory.wf s.mem) : Memory.wf (s.complete seq st).mem :=
  State.complete_keeps (fun t => Memory.wf t.mem) (fun _ _ _ => Memory.wf_completeOne _ _) (fun _ _ _ => Memory.wf_finishNoRow _ _)
    s seq st h

/-- A command row keeps memory canonical where its act does. -/
theorem Memory.wf_startRow {s : State} {op : Nat} {sel : Nat → Bool} {act : Cmd → State → State} {seq : DWord}
    (ha : ∀ c t, Memory.wf t.mem → Memory.wf (act c t).mem) (h : Memory.wf s.mem) : Memory.wf (startRow op sel act seq s).mem := by
  unfold startRow
  split
  · exact h
  · split
    · exact h
    · dsimp only
      split
      · exact Memory.wf_beginCmd _ h
      · exact Memory.wf_settle _ (ha _ _ (Memory.wf_beginCmd _ h))

/-- A service row keeps memory canonical where its act does. -/
theorem Memory.wf_svcRow {s : State} {code : Nat} {waits : SvcReq → State → Bool} {act : Nat → Ini → SvcReq → State → State} {c : BitVec 5}
    (ha : ∀ n a r t, Memory.wf t.mem → Memory.wf (act n a r t).mem) (h : Memory.wf s.mem) :
    Memory.wf (svcRow code waits act c s).mem := by
  unfold svcRow
  dsimp only
  split
  · exact h
  · split
    · exact h
    · split
      · exact h
      · rw [State.settleMbx_mem]
        split
        · split
          · exact h
          · exact ha _ _ _ _ h
        · exact ha _ _ _ _ h

/-- A slot that loses its pan, among others. -/
theorem State.raceFails_mem (s : State) (f : State → Nat → Bool) (l : List Nat) :
    (l.foldl (fun s i => if f s i then s.raceFail i else s) s).mem = s.mem := by
  refine foldl_keeps (fun t : State => t.mem = s.mem) _ _ ?_ _ rfl
  intro t i _ ht
  split
  · rw [State.raceFail_mem, ht]
  · exact ht

/-- A pan is bunded: memory stays canonical. -/
theorem Memory.wf_bundPan {s : State} (p src : Nat) (met : Met) (h : Memory.wf s.mem) : Memory.wf (s.bundPan p src met).mem := by
  have hs : ∀ (o : Option PanRun) (t : State), Memory.wf t.mem →
      Memory.wf (match o with | some r => if r.race then t else t.stopCmd r.seq stPoison | none => t).mem := by
    intro o t ht
    split
    · split
      · exact ht
      · exact Memory.wf_complete _ _ ht
    · exact ht
  unfold State.bundPan
  split
  · exact h
  · refine hs _ _ ?_
    rw [State.raceFails_mem, State.lockPan, State.lockWhere_mem]
    refine Memory.wf_event _ _ _ _ _ _ ?_
    rw [State.modPan_eq, State.setPan_mem, State.record_mem]
    exact h

end Sys2Proof.Machine
end

