-- ==== Sys2Proof/Machine/Pins.lean ====
section
/-! DEFINITION. What the outputs of Table 1.1 show (R7, R9, R13): their reset levels, and the levels the state gives them. An interface
that carries traffic has no one level. -/
namespace Sys2Proof.Machine

/-- The outputs and bidirectional pins of Table 1.1. -/
inductive OutPin where
  | ready | faultN | xspiClk | xspiCsN | xspiDqs | xspiIo | i3cScl | i3cSda | tdo
  | ucie (module1 : Bool)
  | lpOutputs (port : Fin 6)
  | lpReset (port : Fin 6)
  deriving DecidableEq, Repr

/-- What such a pin shows. -/
inductive Level where
  | low | high
  /-- High impedance; with the device's own pull-down. -/
  | released | pulledDown
  /-- Driven to the inactive level; a module's lanes idle with its sideband in reset. -/
  | inactive
  /-- Under its interface's traffic. -/
  | traffic
  /-- Driven from the boundary register. -/
  | scanned
  deriving DecidableEq, Repr

/-- The level a pin has by the device's own function. -/
def State.ownLevel (s : State) : OutPin → Level
  | .ready => if s.edge.ready then .high else .low
  | .faultN => if s.edge.faultLow then .low else .released
  | .xspiClk => if s.edge.xspiDriven then .traffic else .low
  | .xspiCsN => if s.edge.xspiDriven then .traffic else .high
  | .xspiDqs | .xspiIo => if s.edge.xspiDriven then .traffic else .pulledDown
  | .i3cScl | .i3cSda | .tdo => .released
  | .ucie m1 => if s.link m1 = .down then .inactive else .traffic
  | .lpOutputs p => if s.edge.lpDriven.getLsbD p.val then .traffic else .inactive
  | .lpReset p => if s.edge.lpDriven.getLsbD p.val then .high else .low

/-- The level a pin shows: boundary scan takes the pins from the device (R13, Table 19.4), the TAP's own output excepted. -/
def State.outLevel (s : State) (p : OutPin) : Level :=
  if p == .tdo then s.ownLevel p else
    match s.dbg.tap with
    | .extest | .clamp => .scanned
    | .highz => .released
    | .idcode | .samplePreload | .dbg | .bypass => s.ownLevel p

end Sys2Proof.Machine
end

