-- ==== Sys2Proof/WellFormed.lean ====
section
/-! DEFINITION. The well-formed commands: the operands that the rows' rules let a sender or an event have. Every command has a meaning
in the model; these checks say which of them the block can meet. -/
namespace Sys2Proof

/-- A bond retry counts the failures before a burst passes, 1 to 4 (R130). -/
def Detection.wf : Detection → Bool
  | .bondRetry _ n => 1 ≤ n.toNat && n.toNat ≤ 4
  | .panStore | .instrMemory | .accParity | .vaultArray _ | .bondFail _ | .lpInline _ | .meshData _ | .meshHeader | .salternSram
  | .corrected _ _ _ => true

/-- What fails the repeat of a clear failed its first verification (R139). -/
def ClearVerdict.wf (v : ClearVerdict) : Bool :=
  v.failVaults &&& v.retryVaults == v.failVaults && v.failPorts &&& v.retryPorts == v.failPorts
    && v.failPans &&& v.retryPans == v.failPans

/-- Fuse words lie in the map, fuse bits in a word (R330), and the flash's bytes in its 512 MiB at most (R28), in order. -/
def BootEnv.wf (e : BootEnv) : Bool :=
  (e.testFuses ++ e.strictDiff).all (fun f => f.1 < 2048) && e.badFuses.all (fun f => f.1 < 2048 && f.2 < 32)
    && (match e.flashImage with
      | some m => m.all (fun c => c.1 < 2 ^ 29) && decide (m.Pairwise fun x y => x.1 < y.1)
      | none => true)

/-- Each pan and each group reports once, in ascending order, with a count for every class (R290, R297, Table 13.2), and every
sensor of R30 gives a reading. -/
def WindowReport.wf (w : WindowReport) : Bool :=
  decide (w.pans.Pairwise fun x y => x.pan.toNat < y.pan.toNat) && w.pans.all (fun x => x.events.length == 7)
    && w.fabric.length == 6 && w.temps.length == 16
    && decide (w.slack.Pairwise fun x y => x.1 < y.1) && w.slack.all (fun x => x.1 < 8)

/-- Operand registers: V0 to V15 of 128 words each (R356). -/
def operandsWf (ops : List (List DWord)) : Bool := ops.length ≤ 16 && ops.all fun v => v.length ≤ 128

/-- A well-formed command. -/
def Instr.wf : Instr → Bool
  | .registerWrite _ off _ be => off.toNat % 8 == 0 && be != 0
  | .latchedLowWordRead _ off => off.toNat % 8 == 0
  | .latchedHighWordRead _ off => off.toNat % 8 == 4
  | .vddAonRise => true
  | .i3cAddrSample _ _ _ => true
  | .vddAonLoss => true
  | .porstNFall _ => true
  | .porstNRise env => env.wf
  | .strapWindowStart => true
  | .strapSample _ _ _ => true
  | .railFault _ => true
  | .panSupplyFault _ => true
  | .refclkLoss => true
  | .tamperEvent _ _ => true
  | .ignorePeriodEnd _ => true
  | .regAlertAssert => true
  | .thermTrip => true
  | .thermShutdown => true
  | .spillwayRelease => true
  | .spillwayClimb _ => true
  | .slackWake => true
  | .ucieTrainingDone _ _ => true
  | .ucieModuleDrop _ => true
  | .rd _ _ ds => ds.all Detection.wf
  | .wr _ hdr data ds => (data.length == 16 * ((hdr.toNat >>> 26) % 16 + 1)) && ds.all Detection.wf
  | .doorbellWrite _ _ _ => true
  | .commandAccept => true
  | .contextRingChange _ => true
  | .nop _ => true
  | .runProgram _ => true
  | .loadProgram _ => true
  | .loadWeights _ => true
  | .sealedCopyDone _ ds => ds.all Detection.wf
  | .measureProgram _ => true
  | .measureWeights _ => true
  | .measureOwner _ => true
  | .kvBind _ => true
  | .kvRelease _ => true
  | .clearRegionProgram _ => true
  | .clearRegionWeights _ => true
  | .clearRegionRange _ => true
  | .setSeed _ => true
  | .fenceQueue _ => true
  | .fencePartition _ => true
  | .abortCommand _ => true
  | .abortQueue _ => true
  | .abortPartition _ => true
  | .queryDevice _ => true
  | .queryQueue _ => true
  | .queryProgram _ => true
  | .queryTally _ => true
  | .queryTallyCkpt _ => true
  | .queryWeights _ => true
  | .queryPartition _ => true
  | .querySequence _ => true
  | .profile _ => true
  | .dbgRead _ => true
  | .dbgWrite _ => true
  | .dbgHalt _ => true
  | .dbgResume _ => true
  | .dbgPanstate _ => true
  | .dbgEnd _ => true
  | .stage _ => true
  | .commitPartition _ => true
  | .commitDevice _ => true
  | .prtCommitGo _ _ => true
  | .prtCommitDiscard _ _ => true
  | .glbCommitGo _ => true
  | .glbCommitDiscard _ => true
  | .epochBoundary _ => true
  | .partitionClearDone _ v => v.wf
  | .copy _ ds => ds.all Detection.wf
  | .fill _ ds => ds.all Detection.wf
  | .cycle _ ds => ds.all Detection.wf
  | .matmulTile _ ds => ds.all Detection.wf
  | .matmulStream _ ds => ds.all Detection.wf
  | .kvAppend _ ds => ds.all Detection.wf
  | .add _ ds => ds.all Detection.wf
  | .sub _ ds => ds.all Detection.wf
  | .mul _ ds => ds.all Detection.wf
  | .fma _ ds => ds.all Detection.wf
  | .max _ ds => ds.all Detection.wf
  | .min _ ds => ds.all Detection.wf
  | .abs _ ds => ds.all Detection.wf
  | .neg _ ds => ds.all Detection.wf
  | .convert _ ds => ds.all Detection.wf
  | .shr _ ds => ds.all Detection.wf
  | .recip _ ds => ds.all Detection.wf
  | .rsqrt _ ds => ds.all Detection.wf
  | .exp _ ds => ds.all Detection.wf
  | .sigmoid _ ds => ds.all Detection.wf
  | .silu _ ds => ds.all Detection.wf
  | .iadd _ ds => ds.all Detection.wf
  | .isub _ ds => ds.all Detection.wf
  | .imul _ ds => ds.all Detection.wf
  | .reduceAdd _ ds => ds.all Detection.wf
  | .reduceMax _ ds => ds.all Detection.wf
  | .quantRuntime _ ds => ds.all Detection.wf
  | .quantLearned _ ds => ds.all Detection.wf
  | .dequantFp32 _ ds => ds.all Detection.wf
  | .dequantBf16 _ ds => ds.all Detection.wf
  | .score _ ds => ds.all Detection.wf
  | .softmax _ ds => ds.all Detection.wf
  | .value _ ds => ds.all Detection.wf
  | .gatherKeys _ ds => ds.all Detection.wf
  | .gatherValues _ ds => ds.all Detection.wf
  | .greedy _ ds => ds.all Detection.wf
  | .categorical _ ds => ds.all Detection.wf
  | .barrier _ ds => ds.all Detection.wf
  | .gatherAll _ ds => ds.all Detection.wf
  | .sum _ ds => ds.all Detection.wf
  | .lseMerge _ ds => ds.all Detection.wf
  | .argmax _ ds => ds.all Detection.wf
  | .broadcast _ ds => ds.all Detection.wf
  | .confluenceRelease _ _ => true
  | .loop _ ds => ds.all Detection.wf
  | .wait _ ds => ds.all Detection.wf
  | .step _ ds => ds.all Detection.wf
  | .endProgram _ ds => ds.all Detection.wf
  | .programBlockFetch _ ds => ds.all Detection.wf
  | .panClockGate _ => true
  | .vaultRefresh _ _ ds => ds.all Detection.wf
  | .raceDoorbell _ _ _ => true
  | .raceComplete _ _ _ => true
  | .raceInWrite _ _ off data => !data.isEmpty && off.toNat + data.length ≤ 4096
  | .raceArmDone _ => true
  | .raceDisarm d => d.verdict.wf
  | .glbSleepDoze _ => true
  | .glbSleepSlack _ => true
  | .dozeEntry => true
  | .slackEntry => true
  | .dozeWake => true
  | .fastWake raw env => env.wf && raw.length == 256
  | .capWindow w => w.wf
  | .droopTrip _ => true
  | .stretchEnd _ => true
  | .opIncrease _ => true
  | .replanPoint => true
  | .energySlackTick => true
  | .checkpoint => true
  | .mbxPush _ _ _ be => be != 0
  | .mbxPop _ _ => true
  | .flushIn _ _ => true
  | .serviceTimeout _ => true
  | .keyInfo _ => true
  | .keyDerive _ => true
  | .keyGenerate _ => true
  | .keyImport _ => true
  | .keyHmac _ => true
  | .keySign _ => true
  | .keyEcdh _ => true
  | .keyZeroise _ => true
  | .keyPublic _ => true
  | .otpRead _ => true
  | .otpProgram _ => true
  | .otpLock _ => true
  | .otpPulse _ => true
  | .digest _ => true
  | .hmacVerify _ => true
  | .random _ => true
  | .attestReport _ => true
  | .attestLog _ => true
  | .attestChain _ => true
  | .attestMr _ => true
  | .imageWrite _ => true
  | .digestDescriptor place desc _ => desc.length == 32 && 0x10030000 ≤ place.at32.toNat && place.at32.toNat ≤ 0x1005FFE0
  | .p256Sign _ ops => operandsWf ops
  | .p256Verify ops => operandsWf ops
  | .p256Public _ => true
  | .p384Sign _ ops => operandsWf ops
  | .p384Verify ops => operandsWf ops
  | .p384Public _ => true
  | .p384Ecdh _ ops => operandsWf ops
  | .mldsaPublic _ => true
  | .mldsaSign _ _ => true
  | .mldsaVerify pub _ sig => pub.length == 1952 && sig.length == 3309
  | .rsa3072Verify ops => operandsWf ops
  | .rsa4096Verify ops => operandsWf ops
  | .drbgInstantiate startup raw => startup.length == 512 && raw.length == 256
  | .drbgReseed raw => raw.length == 128
  | .entropyBufferRefill => true
  | .healthTestFail _ => true
  | .transitionExamine => true
  | .bootClearDone v => v.wf
  | .selfTestDone _ _ => true
  | .readyRise => true
  | .pushChunk _ _ => true
  | .abandon _ _ => true
  | .profClear _ _ => true
  | .testLogicReset => true
  | .extest => true
  | .samplePreload _ => true
  | .idcode => true
  | .highz => true
  | .clamp => true
  | .dbg => true
  | .bypass => true
  | .dbgNop => true
  | .read8B _ => true
  | .write8B _ _ => true
  | .haltPan _ => true
  | .resumePan _ => true
  | .haltSaltern => true
  | .resumeSaltern => true
  | .dbgStatus => true
  | .entdaa _ => true
  | .setdasa _ _ => true
  | .rstdaa => true
  | .getpid => true
  | .getbcr => true
  | .getdcr => true
  | .getstatus => true
  | .enec => true
  | .disec => true
  | .regRead _ _ => true
  | .holdSet => true
  | .holdClear => true
  | .i3cPrivateRead _ => true
  | .i3cClockSourceSwitch _ => true
  | .vppOtpLoss _ => true
  | .droopDetectorClear _ => true
  | .boostLeave100C _ => true
  | .clearRegionDone _ v => v.wf

end Sys2Proof
end

