-- ==== Sys2Proof/Tests/Slice0.lean ====
section
/-! SUPPORT. Small tests of the model: the well-formedness checks refuse, values that the spec works out come out, and every statement
with hypotheses has a state and operands that meet them together. -/
namespace Sys2Proof.Tests
open Sys2Proof Sys2Proof.Machine

-- each of these theorems is evaluated by the kernel, one after another
set_option Elab.async false

-- ## Helpers

/-- The device after READY: module 0 is up; initiator 0 is an operator bound to partition 0 and its queues 0 to 3, initiator 1 is an
operator and bound to nothing, initiator 2 is bound to partition 0 alone; partition 0 holds the first granule of vault 0, pans 8 and 9 and
queues 0 to 3. -/
def up : State :=
  { State.reset with
    edge := { State.reset.edge with
      porst := true, ready := true, ucie0 := .up32, ucie1 := .retraining, refclkOk := true, panSupplyGood := true, ignoreOver := true
      strapsLatched := true }
    boot := { stage := .done, cleared := true }
    saltern := { phase := .firmware }
    cfg :=
      { parts := [(0, { pdef := 0x80000000, pans := 0x300, queues := 0x40000, vshare := [(0, 0x100)], kvCfg := 0 })]
        binds := [(0, 0x400000300), (1, 0x200), (2, 0x400000100)]
        ctxs := [(0, { ringBase := 0x100000, cplBase := 0x200000, depth := 4, weight := 1, enable := true })] }
    ctxs := [(0, { live := { ringBase := 0x100000, cplBase := 0x200000, depth := 4, weight := 1, enable := true } })]
    tally := { begun := true, head := 9 } }

/-- The operator, an operator without a partition, a client, and nobody. -/
def root : Req := { module1 := false, ini := 0, tag := 1 }
def oper : Req := { module1 := false, ini := 1, tag := 1 }
def client : Req := { module1 := false, ini := 2, tag := 1 }
def nobody : Req := { module1 := false, ini := 3, tag := 1 }

/-- A command accepted from queue 0, its 64 bytes given as a number. -/
def cmd (n : Nat) : Cmd := { seq := 5, queue := 0, part := 0, ini := 0, idx := 0, bytes := leBytes 64 n }
def accepted (n : Nat) : State := { up with cmds := [cmd n] }

/-- Pan 8 runs a program of one word for command 5. -/
def theRun : PanRun := { seq := 5, race := false, slot := 0, part := 0, rank := 0, size := 1, seqBase := 0 }
def running : Cmd := { cmd 1 with started := true, pans := [8] }
def onPan (w : Nat) : State :=
  { up with
    cmds := [running], pans := [(8, { st := .run, nInstr := 2, run := some theRun })]
    mem := Tab.span [] 0 (imemBase 8) (leBytes 16 w) }
/-- What that pan's instruction is given. -/
def env (w : Nat) : PEnv := { p := 8, run := theRun, w, descs := [] }
/-- An instruction word of a class and a function. -/
def word (cls func : Nat) : Nat := cls * 2 ^ 124 + func * 2 ^ 120

-- ## The checks of well-formedness refuse

def emptyReport : WindowReport :=
  { pans := [], fabric := List.replicate 6 0, temps := List.replicate 16 40, slack := [], vpp := true, panGood := true }
/-- What a pan did in a window: events of class 0 alone. -/
def window (pan n : Nat) : PanWindow :=
  { pan := BitVec.ofNat 6 pan, issued := true, events := BitVec.ofNat 20 n :: List.replicate 6 0, issueWindows := 0 }
def board : BootEnv :=
  { flashOk := true, flashUid := 0, flashErase := true, flashImage := none, lpPass := 0, vpp := true, testFuses := [], strictDiff := []
    badFuses := [], katOk := true, flashWriteOk := true }
def noVerdict : ClearVerdict := { retryVaults := 0, retryPorts := 0, retryPans := 0, failVaults := 0, failPorts := 0, failPans := 0 }
def badVerdict : ClearVerdict := { retryVaults := 1, retryPorts := 0, retryPans := 0, failVaults := 2, failPorts := 0, failPans := 0 }
def badRetry : List Detection := [.bondRetry 0 5]

/-- Every pan row, with the errors found. -/
def panRows (ds : List Detection) : List Instr :=
  ([.copy, .fill, .cycle, .matmulTile, .matmulStream, .kvAppend, .add, .sub, .mul, .fma, .max, .min, .abs, .neg, .convert, .shr, .recip,
    .rsqrt, .exp, .sigmoid, .silu, .iadd, .isub, .imul, .reduceAdd, .reduceMax, .quantRuntime, .quantLearned, .dequantFp32, .dequantBf16,
    .score, .softmax, .value, .gatherKeys, .gatherValues, .greedy, .categorical, .barrier, .gatherAll, .sum, .lseMerge, .argmax,
    .broadcast, .loop, .wait, .step,
    .endProgram, .programBlockFetch] : List (BitVec 6 → List Detection → Instr)).map fun f => f 8 ds

theorem test_wf_refuses_bad_detections :
    (panRows badRetry ++ ([.rd false 0 badRetry, .wr false 0 (List.replicate 16 0) badRetry, .vaultRefresh 0 0 badRetry,
      .sealedCopyDone 5 badRetry, .copy 8 [.bondRetry 0 0]] : List Instr)).all (fun i => !i.wf) = true ∧ (panRows [.bondRetry 0 4]).all Instr.wf = true := by
  decide +kernel

theorem test_wf_refuses_register_and_port_forms :
    ([.registerWrite root 4 0 1, .registerWrite root 8 0 0, .latchedLowWordRead 0 4, .latchedHighWordRead 0 8, .wr false 0 [0] [],
      .raceInWrite root 0 0 [], .raceInWrite root 0 0xFFF [0, 0], .mbxPush root 0 0 0] : List Instr).all (fun i => !i.wf) = true := by
  decide +kernel

theorem test_wf_refuses_verdicts_and_boards :
    ([.partitionClearDone 0 badVerdict, .bootClearDone { badVerdict with failVaults := 0, failPorts := 1 },
      .clearRegionDone 5 { badVerdict with failVaults := 0, failPans := 1 }, .porstNRise { board with badFuses := [(2048, 0)] },
      .porstNRise { board with badFuses := [(0, 32)] }, .porstNRise { board with testFuses := [(2048, 0)] },
      .porstNRise { board with strictDiff := [(2048, 0)] }, .porstNRise { board with flashImage := some [(1, 0), (1, 0)] },
      .porstNRise { board with flashImage := some [(2 ^ 29, 0)] }, .fastWake (List.replicate 47 0) board,
      .fastWake (List.replicate 48 0) { board with badFuses := [(0, 32)] }] : List Instr).all (fun i => !i.wf) = true := by
  decide +kernel

theorem test_wf_refuses_reports :
    ([.capWindow { emptyReport with pans := [window 1 0, window 0 0] }, .capWindow { emptyReport with pans := [{ window 0 0 with events := [] }] },
      .capWindow { emptyReport with fabric := [] }, .capWindow { emptyReport with temps := [] }, .capWindow { emptyReport with slack := [(8, 0)] },
      .capWindow { emptyReport with slack := [(1, 0), (1, 0)] }] : List Instr).all
        (fun i => !i.wf) = true ∧ (Instr.capWindow emptyReport).wf = true := by
  decide +kernel

theorem test_wf_refuses_engine_operands :
    ([.p256Sign 0 (List.replicate 17 []), .p384Sign 0 [List.replicate 129 0], .p256Verify (List.replicate 17 []),
      .p384Verify [List.replicate 129 0], .p384Ecdh 0 [List.replicate 129 0], .rsa3072Verify (List.replicate 17 []),
      .rsa4096Verify [List.replicate 129 0], .mldsaVerify [] [] [], .drbgInstantiate [] [], .drbgReseed [],
      .digestDescriptor { window := 0, at32 := 0 } [] []] : List Instr).all (fun i => !i.wf) = true := by
  decide +kernel

-- ## Witnesses: pans

theorem witness_VecFloatFunctionsGiveResults :
    ∀ f ∈ [0, 1, 2, 3, 4, 5, 6, 7, 10, 11, 12, 13, 14], Runs (onPan (word kVec f)) 8 (env (word kVec f)) kVec f
      ∧ bitAt (word kVec f) 118 = false := by
  unfold Runs; decide +kernel

/-- CONVERT of FP32 to FP16. -/
def conv : Nat := word kVec 8 + 8 * 2 ^ 112 + 10 * 2 ^ 108

theorem witness_VecIntegerAndConvertResults :
    (∀ f ∈ [0, 1, 2], Runs (onPan (word kVec f + 2 ^ 118)) 8 (env (word kVec f + 2 ^ 118)) kVec f ∧ bitAt (word kVec f + 2 ^ 118) 118 = true)
      ∧ (Runs (onPan (word kVec 9)) 8 (env (word kVec 9)) kVec 9 ∧ bitAt (word kVec 9) 118 = false)
      ∧ Runs (onPan conv) 8 (env conv) kVec 8 ∧ fmt4 8 = some .fp32 ∧ fmt4 10 = some .fp16 := by
  unfold Runs; decide +kernel

theorem witness_ReduceGivesOneResultARow :
    ∀ f ∈ [0, 1], Runs (onPan (word kReduce f)) 8 (env (word kReduce f)) kReduce f := by
  unfold Runs; decide +kernel

/-- A COPY of 16 bytes from vault 0, and one of 16 bytes into it; the store is the pan's own. -/
def copyIn : Nat := word kMove 0 + 0x1000 * 2 ^ 55
def copyOut : Nat := copyIn + 2 ^ 118

theorem witness_MoveWordsFillCopyAndShowTheCycle :
    (∀ f ∈ [1, 2], Runs (onPan (word kMove f)) 8 (env (word kMove f)) kMove f ∧ rank0Skips (env (word kMove f)) = false)
      ∧ (∀ w ∈ [copyIn, copyOut], let s := onPan w
        Runs s 8 (env w) kMove 0 ∧ (env w).run.race = false ∧ rank0Skips (env w) = false
          ∧ ∀ r, r < moveRows w → let a := fld w 55 40 + r * moveRemoteStride w
            within (s.ranges 0) a (moveLen w) = true ∧ s.fencedAt a (moveLen w) = false
              ∧ overlaps a (moveLen w) (storeBase 8) 0x200000 = false ∧ overlaps a (moveLen w) (accBase 8) 0x40000 = false
              ∧ s.hitsSealed a (moveLen w) = false ∧ s.kvHit a (moveLen w) = none ∧ s.marked a (moveLen w) = false)
      ∧ let w := word kMove 1 + 2 ^ 117
        let e : PEnv := { env w with run := { theRun with rank := 1 } }
        Runs { onPan w with pans := [(8, { st := .run, nInstr := 2, run := some e.run })] } 8 e kMove 1 ∧ rank0Skips e = true := by
  unfold Runs; decide +kernel

/-- A BF16 by BF16 MATMUL of 1 by 1 by 1, tile or stream, and one that hands its row to the append path. -/
def matmulWord (func : Nat) : Nat := word kMatmul func + 6 * 2 ^ 116 + 6 * 2 ^ 113

theorem witness_MatmulFillsAccumulatorRows :
    ∀ w ∈ [matmulWord 0, matmulWord 1, matmulWord 2],
      (onPan w).fetch 8 = some (env w) ∧ iClass w = kMatmul ∧ fmt3 (fld w 116 3) = some .bf16 ∧ fmt3 (fld w 113 3) = some .bf16
        ∧ cdiv (fld w 57 16 + 1) 64 * (fld w 87 10 + 1) ≤ 1024 := by
  decide +kernel

/-- Sequence 0 of partition 0: one head of 16 INT8 columns, its table in granule 0, its pool in granule 1. -/
def held : Seq := { bound := true, part := 0, nh := 1, hd := 16, ps := 16, pfmt := 2, sfmt := false, maxlen := 64, table := 0x400000 }
def kvUp (s : State) : State :=
  { s with
    seqs := [(0, held)]
    parts := [(0, { freeList := [0, 1] })]
    cfg := { s.cfg with parts := [(0, { s.cfg.part 0 with vshare := [(0, 0x200)], kvCfg := 0x200, kvExt := [(0, 0x100000001)] })] } }
def job : AppendJob := { desc := 0, rows := 1, cols := 16, drow := 0, isInt := false }
def appending : State :=
  let s := kvUp (onPan (word kWait 0))
  { s with pans := [(8, { st := .run, nInstr := 2, run := some theRun, append := some job })] }

theorem witness_KvAppendTakesItsStreams :
    (appending.pan 8).append = some job ∧ (appending.pan 8).run = some theRun ∧ theRun.race = false ∧ appending.edge.stopped = false
      ∧ (appending.pan 8).bunded = false ∧ (appending.pan 8).st = .run ∧ (appending.pan 8).holds = []
      ∧ appending.cmd? theRun.seq = some running ∧ 0 < job.rows ∧ (appendRun { p := 8, run := theRun, w := 0, descs := [] } job appending).2 = none
      ∧ planColumns (planAppend theRun (appending.seqH 0) 0).1 0 16 ≠ []
      ∧ appending.kvHeld 0 ≠ [] ∧ ∀ r ∈ appending.kvHeld 0, appending.addrHeld (some 5) 1 r.1 = false
        ∧ appending.addrHeld (some 5) 1 (r.1 + r.2 - 1) = false := by
  decide +kernel

/-- A descriptor of INT8 rows, and a pan that holds it with an instruction. -/
def quantDesc : Nat := 2 + 2 * 2 ^ 5
def onPanD (w : Nat) : State :=
  { onPan w with
    pans := [(8, { st := .run, nInstr := 2, nDesc := 1, run := some theRun })]
    mem := Tab.span [] 0 (imemBase 8) (leBytes 16 quantDesc ++ leBytes 16 w) }
def envD (w : Nat) : PEnv := { env w with descs := [quantDesc] }
/-- QUANT or DEQUANT of 16 elements under descriptor 1, with the result 4 KiB above the source. -/
def quantWord (cls func : Nat) : Nat := word cls func + 2 ^ 111 + 15 * 2 ^ 83 + 0x1000 * 2 ^ 39

theorem witness_QuantAndDequantConvertTheirRows :
    ∀ c ∈ [kQuant, kDequant], ∀ f ∈ [0, 1], let w := quantWord c f
      Runs (onPanD w) 8 (envD w) c f ∧ (qdesc (envD w).descs (fld w 111 8)).isSome = true ∧ fld w 99 10 = 0
        ∧ ∀ i, i < 3 → ∀ j, j < 16 → slotAddr 8 { acc := false, ofs := 0 } i ≠ slotAddr 8 (slotAt w 39) j := by
  unfold Runs; decide +kernel

/-- The header of a keys buffer of BF16 pages with no position copied stands at 0x2000 of the store. -/
def attnWord (func : Nat) : Nat := word kAttn func + 0x4000 * 2 ^ 61 + 0x2000 * 2 ^ 39 + 0x8000 * 2 ^ 17
def onAttn (w : Nat) : State :=
  let s := onPan w
  { s with mem := Tab.span s.mem 0 (storeBase 8 + 0x2000) (leBytes 16 (1 + 2 ^ 32 + 2 * 2 ^ 64 + 15 * 2 ^ 72 + 16 * 2 ^ 112)) }

theorem witness_AttentionScoresSoftmaxesAndWeighsValues :
    (∀ f ∈ [0, 2], let w := attnWord f
      Runs (onAttn w) 8 (env w) kAttn f ∧ (gheader ((onAttn w).slotRead 8 (slotAt w 39) 0 16)).isSome = true)
      ∧ let w := word kAttn 1 + 2 ^ 61 * 2 ^ 21 + 0x8000 * 2 ^ 17
        Runs (onPan w) 8 (env w) kAttn 1 ∧ (slotAt w 61).acc = true ∧ (slotAt w 17).acc = false ∧ attnRows w * recSize (attnL w) ≤ 0x200000 := by
  unfold Runs; decide +kernel

theorem witness_ARowThatAttendsToNothingIsEmpty :
    (∀ x ∈ [negInf], x = negInf)
      ∧ (let w := attnWord 2
        let s := onAttn w
        let t := { s with mem := Tab.put s.mem 0 (storeBase 8 + 0x4000 + 9) 1 }
        Runs t 8 (env w) kAttn 2 ∧ (gheader (t.slotRead 8 (slotAt w 39) 0 16)).isSome = true
          ∧ bitAt (t.byte (slotAddr 8 (slotAt w 61) (0 * recSize (attnL w) + 9))).toNat 0 = true)
      ∧ ∃ a b : ARec, a.empty = true ∧ b.empty = false :=
  ⟨by decide, by unfold Runs; decide +kernel, { tag := 0, hd := 1, empty := true, m := negInf, l := 0, o := [] }, 
    { tag := 0, hd := 1, empty := false, m := 0, l := 0, o := [] }, rfl, rfl⟩

/-- The stream holds one position, whose page is 0, with keys and values. -/
def gathering (func : Nat) : State :=
  let s := kvUp (onPan (word kGather func + 0x2000 * 2 ^ 54))
  { s with mem := Tab.put (Tab.put (Tab.put s.mem 0 0x400000 1) 0 0x400012 7) 0 0x4000000 9 }

theorem witness_GatherCopiesTheSelection :
    ∀ f ∈ [0, 1], let w := word kGather f + 0x2000 * 2 ^ 54
      let s := gathering f
      Runs s 8 (env w) kGather f ∧ (env w).run.race = false ∧ f ≤ 1 ∧ (s.seqH 0).bound = true ∧ (s.seqH 0).part = 0 ∧ 0 < (s.seqH 0).nh
        ∧ s.unitStatus 0 ((s.seqH 0).header 0) 16 = none ∧ (s.sample 5 0 0).1.len = 1 ∧ (gatherOne s 0 (s.seqH 0) 0 (f = 1) 0).1 = none
        ∧ 16 + cdiv 8 16 * 16 + rowBytes (s.seqH 0).fmt 16 ≤ 0x200000 := by
  unfold Runs; decide +kernel

theorem witness_SampleChoosesTheGreatestKey :
    (Runs (onPan (word kSample 0)) 8 (env (word kSample 0)) kSample 0)
      ∧ (Runs (onPan (word kSample 1)) 8 (env (word kSample 1)) kSample 1 ∧ bitAt (word kSample 1) 118 = false)
      ∧ (let w := word kSample 1 + 2 ^ 118
        let s := { onPan w with eng := { drbg := .ready, entropy := List.replicate 8 7 } }
        Runs s 8 (env w) kSample 1 ∧ bitAt w 118 = true ∧ (s.entropyWords 1).isSome = true)
      ∧ (∀ x ∈ [(0x3F800000, 0), (0x7FC00000, 1)], x.1 < 2 ^ 32) ∧ (v32 0x3F800000).isNan = false := by
  unfold Runs; decide +kernel

/-- A confluence word of 16 bytes from 0 to 0x1000. -/
def confWord (func : Nat) : Nat := word kConf func + 0x1000 * 2 ^ 52
/-- Pan 8 waits at a SUM for no one else. -/
def atSum : State :=
  let a : Arrival := { func := 2, order := false, root := 0, units := 1, s := 0, d := 0x1000 }
  { onPan (confWord 2) with
    cmds := [{ running with arrived := [8] }], pans := [(8, { st := .atConfluence, nInstr := 2, run := some theRun, arrival := some a })] }

theorem witness_ConfluencesGatherAndReleaseTheirPans :
    (∀ f ∈ [0, 1, 2, 3, 4, 5], let s := onPan (confWord f)
      Runs s 8 (env (confWord f)) kConf f ∧ s.cmd? 5 = some running ∧ running.ended = [] ∧ running.arrived = [])
      ∧ (let s := { onPan (confWord 0) with cmds := [{ running with ended := [(9, 0)] }] }
        Runs s 8 (env (confWord 0)) kConf 0 ∧ (s.cmd? 5).isSome = true)
      ∧ (atSum.cmd? 5 = some { running with arrived := [8] } ∧ atSum.edge.stopped = false ∧ running.pans ≠ [] ∧ running.pans.Nodup)
      ∧ (∃ c, (onPan 0).cmd? 5 = some c ∧ c.arrived.length ≠ c.pans.length) := by
  unfold Runs
  exact ⟨by decide +kernel, by decide +kernel, by decide +kernel, running, by decide +kernel, by decide +kernel⟩

theorem witness_SequencerWordsLoopStepAndEnd :
    (∀ c ∈ [kLoop, kWait, kStep], let w := word c 0 + (if c = kWait then 0 else 2 ^ 103)
      (onPan w).fetch 8 = some (env w) ∧ iFunc w = 0 ∧ iClass w = c)
      ∧ (let w := word kEnd 0
        Runs (onPan w) 8 (env w) kEnd 0 ∧ (env w).run.race = false ∧ (onPan w).cmd? 5 = some running ∧ running.arrived = []
          ∧ (running.ended ++ [(8, (0 : DWord))]).length = running.pans.length
          ∧ let s := { onPan w with pans := [(8, { st := .run, nInstr := 1, run := some theRun })] }
            s.fetch 8 = some (env w) ∧ (s.pan 8).nInstr ≤ (advanceLoops ((s.pan 8).pc + 1) (s.pan 8).loops).1)
      ∧ let f : LoopFrame := { start := 1, body := 1, count := 1, iter := 0, sa := 0, sb := 0, sd := 0 }
        f.iter = 0 ∧ 0 < f.count := by
  unfold Runs; decide +kernel

theorem witness_FetchGatingAndRefreshComplete :
    (let v : Pan := { st := .run, nInstr := 10000, run := some theRun, held := some (0, 0, 1), streamed := true, blocks := [0] }
      let r : Region := { used := true, base := 0x10000, len := 0x30000, closed := true, prog := { nInstr := 10000 } }
      let s : State := { onPan 0 with pans := [(8, v)], parts := [(0, { progs := [(0, r)] })] }
      let n := 16 * min 2048 (v.nInstr - 2048)
      (s.pan 8).run = some theRun ∧ (s.pan 8).held = some (0, 0, 1) ∧ v.blocks.foldl max 0 + 1 = 1 ∧ v.pc / 2048 + 1 = 1 ∧ 2048 * 1 < v.nInstr
        ∧ s.marked (0x10040 + 16 * 2048) n = false ∧ s.fencedAt (0x10040 + 16 * 2048) n = false ∧ v.bunded = false ∧ v.st = .run
        ∧ s.edge.stopped = false ∧ s.addrHeld (some 5) 1 (0x10040 + 16 * 2048) = false)
      ∧ (up.up = true ∧ up.panPart 7 = none ∧ up.panPart 8 = some 0 ∧ ∀ p ∈ [7, 8], (up.pan p).gated = false ∧ (up.pan p).bunded = false
        ∧ (up.pan p).run = none ∧ (up.pan p).st = .idle ∧ up.slotOf p = none)
      ∧ (let s : State := { up with
          cfg := { up.cfg with parts := [(0, { up.cfg.part 0 with race := 1 })], racePan := [(0, 1)] }, slots := [(0, { st := .armed })] }
        s.slotOf 1 = some 0 ∧ (s.slot 0).st = .armed)
      ∧ (up.live = true ∧ up.power.sleep ≠ .doze ∧ up.power.sleep ≠ .slack ∧ up.lockedOver 1 = none)
      ∧ ∀ k ∈ [7, 8], let s : State := { onPan 0 with
          cmds := [{ running with locked := true, wasLocked := true }], memSys := { postponed := [(16, k)] } }
        s.live = true ∧ (s.lockedOver 1).isSome = true ∧ s.memSys.postponed.look 0 16 = k := by
  decide +kernel

-- ## Witnesses: queues and commands

theorem witness_AcceptanceTakesTheNextCommandOfAnEligibleQueue :
    (let s : State := { up with ctxs := [(0, { (up.ctx 0) with tail := 1 })] }
      ∃ pu, s.nextPart s.tally.roundPart s.tally.turnUsed = some pu ∧ s.eligibles pu.1 = [0])
      ∧ (let s : State := { up with ctxs := [(0, { (up.ctx 0) with tail := 1 })], tally := { up.tally with turnUsed := 1 } }
        s.nextPart 0 1 = none ∧ (s.newRound.nextPart 0 0).isSome = true)
      ∧ (up.nextPart up.tally.roundPart up.tally.turnUsed = none ∧ up.newRound.nextPart 0 0 = none)
      ∧ let s : State := { up with cfg := { up.cfg with ctxs := [] } }
        (s.ctx 0).live.sameRings (s.cfg.ctx 0) = false ∧ (s.ctx 0).tail = (s.ctx 0).head ∧ (s.ctx 0).head = (s.ctx 0).ctail := by
  refine ⟨⟨(0, 0), by decide +kernel, by decide +kernel⟩, by decide +kernel, by decide +kernel, by decide +kernel⟩

theorem witness_QuotasShareTheCommandTable :
    partsAll.filter up.inService = [0] ∧ (∀ c ∈ (accepted 0).cmds, c.part ∈ [0]) ∧ (accepted 0).inflight 0 < (accepted 0).quota 0
      ∧ (accepted 0).quota 0 = 4096 := by
  decide +kernel

theorem witness_CompletionWritesEntriesAndCounters :
    (accepted 0).cmd? 5 = some (cmd 0) ∧ (accepted 0).fencedAt 0x200000 16 = false
      ∧ (up.ctx 0).live.sameRings (up.cfg.ctx 0) = true
      ∧ (let c : Cmd := { running with
          wasLocked := true, locked := true, kv := [{ handle := 0, stream := 0, base := 0, added := 1, owned := true }] }
        let s := { kvUp up with cmds := [c] }
        s.cmd? 5 = some c ∧ (s.seqH 0).bound = true ∧ s.fencedAt ((s.seqH 0).header 0) 16 = false
          ∧ s.hitsSealed 0x200000 16 = false ∧ overlaps ((s.seqH 0).header 0) 16 0x200000 16 = false
          ∧ (s.seqH 0).header 0 + 16 ≤ reserveBase + 0x1000000) := by
  decide +kernel

theorem witness_WaitingAndSeedCommandsComplete :
    Starts (accepted 0) (cmd 0) 0 ∧ Starts (accepted 9) (cmd 9) 9 ∧ Starts (accepted (9 + 2 ^ 64)) (cmd (9 + 2 ^ 64)) 9
      ∧ Starts (accepted 10) (cmd 10) 10 ∧ (accepted 10).abortKnows (cmd 10) 0 = false
      ∧ (let c := cmd (10 + 4 * 2 ^ 128)
        let s : State := { up with cmds := [{ cmd 0 with seq := 4 }, c], tally := { up.tally with accepted := [(4, 0), (5, 0)] } }
        Starts s c 10 ∧ (s.beginCmd c).abortKnows c 4 = true)
      ∧ Starts (accepted (10 + 2 ^ 64)) (cmd (10 + 2 ^ 64)) 10 ∧ up.queueOwner 0 = some 0 ∧ up.queueOwner 4 = none
      ∧ Starts (accepted (10 + 2 ^ 65)) (cmd (10 + 2 ^ 65)) 10 ∧ Starts (accepted 8) (cmd 8) 8 := by
  unfold Starts; decide +kernel

/-- A program image of one END word at 0x1000, or of one word of no class. -/
def image (w : Nat) : List Host.Cell :=
  Tab.span [] 0 0x1000 (leBytes 80 (0x4E345047 + 2 * 2 ^ 32 + 2 ^ 64 + 2 ^ 128 + 2 ^ 136 + w * 2 ^ 512))
def loadCmd (op : Nat) : Nat := op + 0x1000 * 2 ^ 128 + 80 * 2 ^ 192 + 0x300000 * 2 ^ 256
/-- A region of handle 0 with one word, open or closed. -/
def region (closed : Bool) : Region :=
  { used := true, base := 0x300000, len := 0x10000, plen := 80, loadSeq := 5, closed, prog := { nInstr := 1 } }
def loaded (n : Nat) : State := { accepted n with parts := [(0, { progs := [(0, region true)], wgts := [(0, region true)] })] }

theorem witness_LoadsCopyMeasureAndCloseTheirRegion :
    (∀ w ∈ [0, 15 * 2 ^ 124], let c := cmd (loadCmd 2)
      let s : State := { accepted (loadCmd 2) with mem := image w }
      Starts s c 2 ∧ firstFail (loadChecks false (s.beginCmd c) c 80) = none ∧ s.marked 0x1000 64 = false
        ∧ (readHeader (s.read 0x1000 64)).map Header.need = some 80 ∧ s.marked 0x1000 80 = false
        ∧ (checkProgram (s.words 0x1040 0) (s.words 0x1040 1)).isSome = decide (w = 0))
      ∧ (Starts (accepted (loadCmd 3)) (cmd (loadCmd 3)) 3
        ∧ firstFail (loadChecks true ((accepted (loadCmd 3)).beginCmd (cmd (loadCmd 3))) (cmd (loadCmd 3)) 80) = none)
      ∧ ∀ op ∈ [2, 3], ∀ bad ∈ [false, true], let c : Cmd := { cmd (loadCmd op) with started := true, working := true }
        let s : State := { up with
          cmds := [c], parts := [(0, { progs := [(0, region false)], wgts := [(0, region false)] })]
          poison := if bad then [0x1000] else [] }
        s.cmd? c.seq = some c ∧ c.op = op ∧ s.saltern.halted = false ∧ overlaps 0x300000 0x10000 logBase 0x400000 = false
          ∧ s.marked 0x1000 80 = bad ∧ s.fencedAt 0x1000 80 = false ∧ s.fencedAt 0x300000 0x10000 = false
          ∧ (s.region (op == 3) 0 0).loadSeq = 5 ∧ (s.region (op == 3) 0 0).used = true ∧ (s.region (op == 3) 0 0).closed = false
          ∧ s.copyHeld 0x1000 0x300000 = false ∧ s.memSys.clears = [] ∧ s.edge.stopped = false ∧ c.working = true := by
  unfold Starts; decide +kernel

/-- MEASURE with its RESULT at 0x400000: of handle 0, or of owner data into register 24. -/
def measureCmd (what mr : Nat) : Nat := 4 + what * 2 ^ 64 + mr * 2 ^ 80 + 0x1000 * 2 ^ 128 + 16 * 2 ^ 192 + 0x400000 * 2 ^ 256

theorem witness_MeasureHashesAndExtends :
    (∀ what ∈ [0, 1], let n := measureCmd what 0
      let s := loaded n
      Starts s (cmd n) 4 ∧ (s.region (what == 1) 0 0).loaded = true ∧ (s.beginCmd (cmd n)).noWrite 0 0x400000 48 = false
        ∧ s.fencedAt 0x400000 48 = false ∧ s.marked 0x300000 80 = false ∧ s.fencedAt 0x300000 80 = false
        ∧ overlaps 0x400000 48 logBase 0x400000 = false)
      ∧ (∀ mr ∈ [23, 24, 31, 32], let n := measureCmd 2 mr
        Starts (accepted n) (cmd n) 4 ∧ (accepted n).isOperator 0 = true ∧ ((accepted n).beginCmd (cmd n)).noRead 0 0x1000 16 = false
          ∧ ((accepted n).beginCmd (cmd n)).noWrite 0 0x400000 48 = false ∧ (accepted n).marked 0x1000 16 = false
          ∧ ({ accepted n with poison := [0x1000] } : State).marked 0x1000 16 = true ∧ (accepted n).ctxsFull = false
          ∧ ({ accepted n with eng := { ctxs := (List.range 4).map fun i => (i, { busy := true }) } } : State).ctxsFull = true)
      ∧ let c : Cmd := { cmd (measureCmd 2 24) with ini := 2 }
        let s : State := { up with cmds := [c] }
        Starts s c 4 ∧ s.isOperator c.ini = false := by
  unfold Starts; decide +kernel

/-- KV_BIND of handle 0: one head of 16 INT8 columns, its table at 0x400000 and its scales at 0x1000. -/
def bindCmd : Nat := 5 + 2 ^ 80 + 16 * 2 ^ 88 + 16 * 2 ^ 96 + 2 * 2 ^ 104 + 64 * 2 ^ 128 + 0x400000 * 2 ^ 192 + 0x1000 * 2 ^ 256

theorem witness_SequencesAreBoundAndReleased :
    (let c := cmd bindCmd
      let s := accepted bindCmd
      Starts s c 5 ∧ fmt3 (c.f 13 1 % 8) = some .int8 ∧ (s.seqH 0).bound = false
        ∧ (fitPs .int8 16 (s.cfg.part 0).slotBytes (nearPs 16)).isSome = true
        ∧ (s.beginCmd c).noWrite 0 0x400000 80 = false ∧ (s.beginCmd c).noWrite 0 0x1000 8 = false ∧ s.fencedAt 0x400000 80 = false
        ∧ s.fencedAt 0x1000 8 = false ∧ s.marked 0x1000 8 = false)
      ∧ (Starts (accepted 6) (cmd 6) 6 ∧ ((accepted 6).seqH 0).bound = false)
      ∧ let s := kvUp (accepted 6)
        Starts s (cmd 6) 6 ∧ (s.seqH 0).bound = true ∧ (s.seqH 0).part = 0 ∧ s.fencedAt 0x400000 (s.seqH 0).tableLen = false := by
  unfold Starts; decide +kernel

/-- A time-locked command runs on pan 8, beside vault 1; both modules are up. -/
def lockedUp : State :=
  { onPan 0 with edge := { up.edge with ucie1 := .up32 }, cmds := [{ running with locked := true, wasLocked := true }] }

/-- CLEAR_REGION of 4 KiB from 0x1000. -/
def clearCmd : Nat := 7 + 2 * 2 ^ 64 + 0x1000 * 2 ^ 128 + 0x1000 * 2 ^ 192

theorem witness_ClearsAreQueuedAndZeroTheirRanges :
    (∀ what ∈ [0, 1], let n := 7 + what * 2 ^ 64
      Starts (loaded n) (cmd n) 7 ∧ ((loaded n).region (what == 1) 0 0).loaded = true)
      ∧ (let s := accepted clearCmd
        Starts s (cmd clearCmd) 7 ∧ within ((s.beginCmd (cmd clearCmd)).ranges 0) 0x1000 0x1000 = true ∧ s.hitsSealed 0x1000 0x1000 = false
          ∧ s.fencedAt 0x1000 0x1000 = false)
      ∧ (∀ n ∈ [clearCmd, 7, 2, 3], ∀ a ∈ [0x1000, 7 * vaultSize], let c : Cmd := { cmd n with started := true, working := true }
        let j : ClearJob := { whole := false, part := 0, seq := 5, ranges := [(a, 0x1000)], pans := 0 }
        let s : State := { up with cmds := [c], memSys := { clears := [j] }, eng := { drbg := .ready } }
        let dead (v : ClearVerdict) := (touchedVaults j.ranges).contains 7 && v.retryVaults.getLsbD 7 && v.failVaults.getLsbD 7
          && !s.errs.vaults.getLsbD 7
        s.cmd? c.seq = some c ∧ c.working = true ∧ s.saltern.halted = false
          ∧ s.memSys.clears.find? (fun k => !k.whole && k.seq == c.seq) = some j ∧ touchedVaults j.ranges = [a / vaultSize]
          ∧ s.clearWaits j.ranges = false ∧ dead noVerdict = false ∧ dead { noVerdict with retryVaults := 0x80, failVaults := 0x80 } = decide (a ≠ 0x1000))
      ∧ ∀ w ∈ [false, true], let r := { up with parts := [(0, { progs := [(0, region false)], wgts := [(0, region false)] })] }.region w 0 0
        r.used = true ∧ r.closed = false ∧ r.loadSeq = 5 := by
  unfold Starts; decide +kernel

/-- QUERY with its RESULT at 0x500000. -/
def queryCmd (what rlen arg : Nat) : Nat := 11 + what * 2 ^ 64 + arg * 2 ^ 128 + 0x500000 * 2 ^ 192 + rlen * 2 ^ 256

theorem witness_QueriesWriteTheirResult :
    ∀ what ∈ [0, 1, 2, 3, 4, 5, 6, 7, 0x80], ∀ rlen ∈ [0, 4], let n := queryCmd what rlen 0
      let s : State := { kvUp (loaded n) with parts := (loaded n).parts }
      Starts s (cmd n) 11 ∧ (cmd n).f 8 1 = what ∧ (cmd n).rlen = rlen ∧ (s.beginCmd (cmd n)).noWrite 0 (cmd n).result rlen = false
        ∧ s.fencedAt (cmd n).result rlen = false ∧ (s.region false 0 0).loaded = true ∧ (s.region true 0 0).loaded = true
        ∧ (s.seqH 0).bound = true ∧ (s.seqH 0).part = 0 ∧ s.fencedAt 0x400000 16 = false ∧ s.marked 0x400000 16 = false
        ∧ (queryQueueBytes (cmd n) (s.beginCmd (cmd n))).isSome = true ∧ (queryTallyBytes (cmd n) (s.beginCmd (cmd n))).isSome = true
        ∧ (queryPartBytes (cmd n) (s.beginCmd (cmd n))).isSome = true := by
  unfold Starts; decide +kernel

/-- An operator whose session is open. -/
def debugging (n : Nat) : State := { accepted n with dbg := { sessions := [.query 0] } }

theorem witness_OperatorDebugCommandsActOnPansAndMemory :
    (∀ what ∈ [0x88, 0x89], let n := queryCmd what 16 0x5000
      let s := debugging n
      let w := (s.beginCmd (cmd n)).beginSession (.query 0)
      Starts s (cmd n) 11 ∧ (cmd n).rlen = 16 ∧ w.reach 0x5000 = .memory ∧ w.fencedAt 0x5000 16 = false ∧ w.marked 0x5000 16 = false
        ∧ s.readHeld 0x5000 16 = false ∧ w.noWrite 0 0x500000 16 = false ∧ w.noRead 0 0x500000 16 = false ∧ w.fencedAt 0x500000 16 = false
        ∧ w.hitsSealed 0x5000 16 = false ∧ w.kvHit 0x5000 16 = none ∧ 0x5000 < reserveBase ∧ w.marked 0x500000 16 = false)
      ∧ (∀ x ∈ [0, 1], let n := queryCmd 0x8A 0 8 + x * 2 ^ 72
        Starts (debugging n) (cmd n) 11 ∧ (cmd n).f 9 1 = x ∧ ((debugging n).pan 8).bunded = false)
      ∧ (∀ what ∈ [0x8B, 0x8F], let n := queryCmd what 8 8
        Starts (debugging n) (cmd n) 11 ∧ (debugging n).noWrite 0 0x500000 8 = false ∧ 8 ≤ (cmd n).rlen)
      ∧ let n := queryCmd 0x8A 0 8
        let s : State := { debugging n with pans := [(8, { bunded := true })] }
        Starts s (cmd n) 11 ∧ (s.pan 8).bunded = true := by
  unfold Starts; decide +kernel

theorem witness_RunProgramStartsItsPans :
    ∀ mask ∈ [0, 0x100], let n := 1 + 2 ^ 72 + mask * 2 ^ 128
      let c := cmd n
      let s := loaded n
      (Starts s c 1 ∧ s.runWaits c = false ∧ (s.region false 0 0).loaded = true
        ∧ (∀ i ∈ maskList mask 64, i ∈ s.pool 0 ∧ (s.pan i).bunded = false) ∧ s.usable 0 ≠ [] ∧ s.fencedAt 0x300000 0x10000 = false
        ∧ (s.region false 0 0).prog.pansMin ≤ (choosePans (s.usable 0) mask 1 1 1).1.length ∧ s.marked 0x300040 16 = false
        ∧ 0x300000 + 64 + 16 ≤ 8 * vaultSize)
        ∧ let t : State := { s with pans := [(8, { st := .run, run := some { theRun with seq := 1 } })] }
          t.cmd? 5 = some c ∧ t.runWaits c = true := by
  unfold Starts; decide +kernel

-- ## Witnesses: registers, the port, doorbells

theorem witness_RegisterWritesStageRefuseAndClear :
    (Taken up root ∧ up.portHeld false (controlBase + 0x800) = false ∧ up.mayStage 0 (.pwr 0) = true ∧ up.mayStage 3 (.pwr 0) = false)
      ∧ (Taken lockedUp { root with module1 := true } ∧ lockedUp.portHeld true (controlBase + 0x800) = true)
      ∧ (∃ reg k, rwsAt 0x800 = some (reg, k) ∧ up.mayStage 1 reg = true ∧ up.mayStage 2 reg = false)
      ∧ (∃ reg, rwsAt 0x400 = some (reg, 0) ∧ reg.width = 8 ∧ up.mayStage 1 reg = true)
      ∧ ∃ reg, rwsAt 0x404 = some (reg, 4) := by
  refine ⟨by unfold Taken; decide +kernel, by unfold Taken; decide +kernel, ⟨_, _, rfl, by decide +kernel, by decide +kernel⟩, ⟨_, rfl, by decide +kernel, by decide +kernel⟩,
    ⟨_, rfl⟩⟩

theorem witness_SplitReadsOfARegisterAgree :
    up.up = true ∧ wideReg 0x200 = some 0x200 ∧ (up.latch 2).reg ≠ some 0x200 ∧ (2 : Ini).toNat < 64
      ∧ (let s : State := { up with edge := { up.edge with ready := false } }
        ¬ (0x80 : Ini).toNat < 64 ∧ s.up = false ∧ s.edge.porst = true ∧ s.edge.stopped = false) := by
  decide +kernel

/-- A header of one unit from initiator 2, every byte enabled: TYPE 1 reads, 2 writes. -/
def header (type a : Nat) : QWord := BitVec.ofNat 128 (type + 2 * 2 ^ 8 + a * 2 ^ 32 + 0xFFFF * 2 ^ 72)
/-- Slot 0 is assigned to partition 0 with pan 1; initiator 2 may use it. -/
def raceUp : State :=
  { up with cfg := { up.cfg with
      parts := [(0, { up.cfg.part 0 with race := 1 })], racePan := [(0, 1)], raceAllow := [(0, 4)], raceCfg := [(0, 0x80000000)] } }

theorem witness_PortReadsAndWritesReachOwnedMemory :
    ((up.link false).isUp = true ∧ up.edge.stopped = false ∧ up.edge.ready = true)
      ∧ (up.portHeld false 0x1000 = false ∧ lockedUp.portHeld true 0x1000 = true ∧ (lockedUp.link true).isUp = true
        ∧ lockedUp.portHeld false 0x1000 = false)
      ∧ (hBad (header 2 0) 1 = true ∧ hBad (header 1 0) 2 = true ∧ hBad (header 1 0x1000) 1 = false ∧ hBad (header 2 0x1000) 2 = false
        ∧ inControl 0x1000 = false ∧ hAddr (header 1 0x1000) = 0x1000 ∧ hUnits (header 1 0x1000) = 1)
      ∧ (up.portOwns 2 0x1000 16 = true ∧ up.portOwns 2 0x4000000 16 = false ∧ up.portOwns 3 0x1000 16 = false)
      ∧ (panOf (storeBase 1) = some 1 ∧ (raceUp.slotOf 1).isSome = true ∧ (raceUp.pan 1).bunded = false ∧ up.slotOf 1 = none
        ∧ hBad (header 2 (storeBase 1)) 2 = false ∧ inControl (storeBase 1) = false)
      ∧ ((loaded 0).portOwns 2 0x300000 16 = true ∧ (loaded 0).hitsSealed 0x300000 16 = true)
      ∧ ((kvUp up).portOwns 2 0x400000 16 = true ∧ (kvUp up).hitsSealed 0x400000 16 = false ∧ (kvUp up).kvHit 0x400000 16 = some 0)
      ∧ (let s : State := { up with errs := { vaults := 1 } }
        s.portOwns 2 0x1000 16 = true ∧ s.hitsSealed 0x1000 16 = false ∧ s.kvHit 0x1000 16 = none ∧ s.fencedAt 0x1000 16 = true)
      ∧ up.hitsSealed 0x1000 16 = false ∧ up.kvHit 0x1000 16 = none ∧ up.fencedAt 0x1000 16 = false ∧ panOf 0x1000 = none := by
  decide +kernel

/-- The device while it boots: the port is up, and READY is low. -/
def booting : State :=
  { up with edge := { up.edge with ready := false }, boot := { stage := .waitReady, cleared := true, need := 7 }, saltern := { phase := .firmware, locks := 0x80 } }

theorem witness_BeforeReadyOnlyTheBootWindowIsServed :
    booting.edge.stopped = false ∧ booting.edge.ready = false ∧ (booting.link false).isUp = true ∧ booting.windowOpen = true
      ∧ (∀ a ∈ [controlBase + 0x40000, controlBase + 0x4FFF0, controlBase + 0x10000, controlBase + 0x21800, 0x1000],
        hBad (header 1 a) 1 = false ∧ hBad (header 2 a) 2 = false)
      ∧ inControl (controlBase + 0x40000) = true ∧ inControl (controlBase + 0x10000) = true ∧ inControl 0x1000 = false
      ∧ hEnabled (header 2 0) 0 = true ∧ (root.ini).toNat < 64 := by
  decide +kernel

theorem witness_VaultErrorsMarkCountAndBund :
    vaultOf 0x1000 = some 0 ∧ 0x1000 ∉ up.poison ∧ 0x1000 ∈ ({ up with poison := [0x1000] } : State).poison ∧ vaultOf (8 * vaultSize - 1) = some 7
      ∧ vaultOf (8 * vaultSize) = none := by
  decide +kernel

-- ## Witnesses: supplies, boot and power

/-- Before the straps are latched. -/
def strapping : State := { booting with boot := { stage := .straps }, edge := { booting.edge with strapsLatched := false, strapWindow := true } }

theorem witness_SuppliesStrapsAndLinksComeAndGo :
    ({ State.reset with edge := { State.reset.edge with aonUp := false } } : State).edge.aonUp = false
      ∧ (up.edge.aonUp = true ∧ up.edge.porst = true) ∧ (State.reset.edge.aonUp = true ∧ State.reset.edge.porst = false)
      ∧ (let s : State := { strapping with edge := { strapping.edge with strapWindow := false } }
        s.boot.stage = .straps ∧ s.edge.strapWindow = false ∧ s.edge.stopped = false)
      ∧ (∀ n ∈ [0, 15, 16], let s : State := { strapping with edge := { strapping.edge with strapGroups := n } }
        s.boot.stage = .straps ∧ s.edge.strapWindow = true ∧ s.edge.strapsLatched = false ∧ s.edge.stopped = false ∧ s.edge.strapGroups = n)
      ∧ (State.reset.i3c.sampled = false ∧ ({ State.reset with i3c := { groups := 16 } } : State).i3c.sampled = false)
      ∧ (up.link false).isUp = true ∧ up.link true = .retraining
      ∧ ({ up with edge := { up.edge with ucie0 := .down, ucie1 := .training } } : State).link false = .down := by
  decide +kernel

theorem witness_SupplyAndClockFaultsStopTheDeviceOrOneGroup :
    up.edge.porst = true ∧ up.edge.stopped = false ∧ up.errs.fatalNow = false ∧ (up.pan 8).bunded = false
      ∧ ({ up with edge := { up.edge with stopped := true } } : State).edge.stopped = true := by
  decide +kernel

theorem witness_SpillwayEngagesReleasesAndClimbs :
    up.edge.porst = true ∧ up.edge.stopped = false ∧ up.edge.ignoreOver = true ∧ up.power.sleep ≠ .slack ∧ up.power.spillway = false
      ∧ ({ up with edge := { up.edge with ignoreOver := false } } : State).edge.ignoreOver = false ∧ up.edge.panSupplyGood = true
      ∧ ({ up with power := { up.power with spillway := true } } : State).power.spillway = true
      ∧ let s : State := { up with groups := [(1, { climbDue := true })] }
        (s.group 1).climbDue = true ∧ s.groupsOn = true ∧ s.power.spillway = false := by
  decide +kernel

/-- An empty image always compares. -/
theorem copyHolds_empty {s : State} {a : Nat} (h : s.poison = []) : s.copyHolds a (some []) = true := by
  have e : sameBytes 48 (sha384 []) (sha384 []) = true := by decide +kernel
  simp [State.copyHolds, State.read, State.marked, h, e]

/-- The device in a sleep state. -/
def asleep (k : SleepState) : State := { up with power := { up.power with sleep := k } }

theorem witness_WakeEventsActOrAreHeld :
    (∀ k ∈ [SleepState.doze, .slack, .awake, .enteringDoze, .enteringSlack], (asleep k).edge.porst = true ∧ (asleep k).edge.stopped = false
        ∧ (asleep k).power.sleep = k)
      ∧ ((asleep .enteringDoze).drainOver = true ∧ (asleep .enteringSlack).drainOver = true)
      ∧ let s : State := { asleep .waking with boot := { up.boot with pfw := some [], sfw := some [] } }
        s.copyHolds reserveBase s.boot.pfw = true ∧ s.copyHolds (reserveBase + 0x900000) s.boot.sfw = true :=
  ⟨by decide +kernel, by decide +kernel, copyHolds_empty rfl, copyHolds_empty rfl⟩

theorem witness_TamperEventsWipeKeysAndLetComputeRun :
    up.sensorOn .pin = true ∧ up.sensorOn .clockGlitch = true ∧ up.boot.stage = .done ∧ State.reset.sensorOn .clockGlitch = false
      ∧ up.eng.waiting = [] ∧ up.eng.pke.length ≤ 1
      ∧ ∃ c ∈ ({ up with eng := { ctxs := [(0, { busy := true })] } } : State).eng.ctxs, c.2.busy = true := by
  decide +kernel

theorem witness_DoorbellsMoveTailAndConsumerHead :
    Served up client ∧ up.mayRing 2 0 = true ∧ up.mayRing 2 4 = false ∧ up.mayRing 3 0 = false := by
  unfold Served Taken; decide +kernel

-- ## Witnesses: configuration

/-- STAGE of 32 bytes from 0x1000; one entry that names a register, a context field, or something reserved. -/
def stageCmd (n : Nat) : Nat := 12 + 0x1000 * 2 ^ 128 + n * 2 ^ 192
def staging (n entry ini : Nat) : State :=
  { up with cmds := [{ cmd (stageCmd n) with ini := BitVec.ofNat 8 ini }], mem := Tab.span [] 0 0x1000 (leBytes 32 (1 + entry * 2 ^ 128)) }

theorem witness_StageAndDiscardWriteShadowsOnly :
    (∀ n ∈ [15, 16, 31, 32, 48], ∀ e ∈ [0x800 * 2 ^ 32, 1, 2, 5 * 2 ^ 8 + 1, 0x10 * 2 ^ 32], let s := staging n e 0
      let c : Cmd := { cmd (stageCmd n) with ini := 0 }
      Starts s c 12 ∧ (s.beginCmd c).noRead 0 0x1000 n = false ∧ s.fencedAt 0x1000 n = false ∧ s.marked 0x1000 32 = false ∧ s.readN 0x1000 4 = 1
        ∧ ({ s with poison := [0x1000] } : State).marked 0x1000 16 = true ∧ ({ s with poison := [0x1010] } : State).marked 0x1000 16 = false)
      ∧ (rwsAt 0x800).isSome = true ∧ rwsAt 0x10 = none ∧ up.rwsPart (.pwr 0) = some 0 ∧ up.queueOwner 0 = some 0
      ∧ (Served up root ∧ up.isOperator 0 = true ∧ up.isOperator 2 = false ∧ up.mayRead 2 0 = true ∧ up.mayRead 3 0 = false) := by
  unfold Starts Served Taken; decide +kernel

/-- A commit that waits for the boundary of partition 0. -/
def waitingCommit (device : Bool) : Commit := { device, part := 0, ini := 0, seq := none, started := device, target := up.cfg, waiting := [0], below := 9 }

theorem witness_CommitsTakeEffectAtTheirBoundary :
    (Starts (accepted 13) (cmd 13) 13 ∧ Starts (accepted (13 + 2 ^ 64)) (cmd (13 + 2 ^ 64)) 13 ∧ up.isOperator 0 = true
        ∧ up.saltern.halted = false ∧ ∀ m ∈ up.commits, m.device = false)
      ∧ (let c : Cmd := { cmd (13 + 2 ^ 64) with ini := 2 }
        let s : State := { up with cmds := [c] }
        Starts s c 13 ∧ s.isOperator c.ini = false)
      ∧ (Served up client ∧ Served up root ∧ up.mayRead 3 0 = false ∧ up.mayRead 2 0 = true)
      ∧ (∀ device ∈ [false, true], let s : State := { up with commits := [waitingCommit device] }
        (s.commits.find? fun k => k.waiting.contains 0) = some (waitingCommit device) ∧ s.drained (waitingCommit device) 0 = true
          ∧ s.stillHeld (waitingCommit device) 0 = false ∧ (s.part 0).teardown = false
          ∧ ({ accepted 0 with commits := [waitingCommit device] } : State).drained (waitingCommit device) 0 = false) := by
  unfold Starts Served Taken; decide +kernel

/-- A device-scope commit that tears partition 0 down. -/
def tearing : State :=
  let j : ClearJob := { whole := true, part := 0, seq := 0, ranges := [(0, 0x1000)], pans := 0x300 }
  { up with
    commits := [{ waitingCommit true with waiting := [], tearing := [0] }], memSys := { clears := [j] }, parts := [(0, { teardown := true })] }

theorem witness_PartitionClearsEndATeardown :
    (tearing.edge.stopped = false ∧ tearing.saltern.halted = false
        ∧ (tearing.memSys.clears.find? fun j => j.whole).map (·.part) = some 0 ∧ tearing.commits.map (·.tearing) = [[0]]
        ∧ tearing.clearWaits [(0, 0x1000)] [8, 9] = true ∧ ({ tearing with eng := { drbg := .ready } } : State).clearWaits [(0, 0x1000)] [8, 9] = false)
      ∧ (∀ a ∈ [0, 7 * vaultSize], ∀ v ∈ [noVerdict, { noVerdict with retryVaults := 0x80, failVaults := 0x80 }],
        ((touchedVaults [(a, 0x1000)]).contains 7 && v.retryVaults.getLsbD 7 && v.failVaults.getLsbD 7 && !tearing.errs.vaults.getLsbD 7)
          = decide (a ≠ 0 ∧ v.failVaults = 0x80))
      ∧ (∀ m ∈ tearing.commits, tearing.stillHeld m 0 = false)
      ∧ (∀ j, up.memSys.clears.find? (fun j => j.whole) = some j → j.part ≠ 0) ∧ ∃ m, m ∈ tearing.commits :=
  ⟨by decide +kernel, by decide +kernel, by decide +kernel, fun j h => (by cases h), _, List.mem_cons_self⟩

-- ## Witnesses: the race lane

/-- Slot 0 in a state. -/
def slotIn (v : Slot) : State := { raceUp with slots := [(0, v)] }

theorem witness_RaceRequestsRunOnArmedSlots :
    (Taken raceUp client ∧ raceUp.raceAllowed 0 2 = true ∧ raceUp.raceAllowed 0 3 = false ∧ raceUp.slotOwner 0 = some 0)
      ∧ (∀ st ∈ [SlotState.busy, .armed, .disarmed], ((slotIn { st }).slot 0).st = st)
      ∧ let s := slotIn { st := .busy, ended := true }
        (s.slot 0).st = .busy ∧ (s.slot 0).ended = true ∧ (s.slot 1).st ≠ .busy ∧ s.edge.stopped = false := by
  unfold Taken; decide +kernel

/-- Handles 0 of partition 0 stand, and slot 0 names them: a program of a WAIT and an END, or none, and weights. -/
def armable (st : SlotState) (code : Bool) : State :=
  { slotIn { st } with
    parts := [(0, { progs := if code then [(0, { region true with prog := { nInstr := 2 } })] else [], wgts := [(0, region true)] })]
    mem := Tab.span [] 0 0x300040 (leBytes 16 (word kWait 0)) }

theorem witness_SlotsAreArmedWithSealedCopiesAndDisarmedClean :
    ((armable .disarmed true).armCheck 0 ((armable .disarmed true).slotOwner 0) 0 0).isOk = true
      ∧ (raceUp.armCheck 0 none 0 0).isOk = false ∧ ((armable .failed false).armCheck 0 ((armable .failed false).slotOwner 0) 0 0).isOk = false
      ∧ (let s := armable .arming true
        (s.slot 0).st = .arming ∧ s.slotOwner 0 = some 0 ∧ s.fencedAt 0x300000 80 = false ∧ s.marked 0x300000 96 = false
          ∧ (s.region true 0 0).weightBytes = 80 ∧ 0x300000 + 80 ≤ storeBase 0)
      ∧ ∀ r ∈ [false, true], let s := slotIn { disarm := true, rearm := r, clearPan := 1 }
        (s.slot 0).disarm = true ∧ (s.slot 0).st ≠ .busy ∧ (s.pan 1).bunded = false ∧ s.edge.stopped = false ∧ s.clearWaits [] [1] = false
          ∧ lockedUp.clearWaits [] [8] = true := by
  decide +kernel

-- ## Witnesses: power

/-- A wake that may go the fast way. -/
def waking : State :=
  { asleep .waking with
    edge := { up.edge with ready := false }, boot := { up.boot with pfw := some [], sfw := some [], saved := some (up.cfg, up.shadow) } }

theorem witness_SleepIsEnteredLeftAndRefused :
    (Served up root ∧ up.isOperator 0 = true ∧ up.isOperator 2 = false ∧ up.power.sleep = .awake ∧ up.anyArmed = false
        ∧ (slotIn { st := .armed }).anyArmed = true ∧ (slotIn { st := .armed }).power.sleep = .awake)
      ∧ ((asleep .enteringDoze).drainOver = true ∧ (asleep .enteringSlack).drainOver = true ∧ (asleep .waking).up = true)
      ∧ (waking.power.sleep = .waking ∧ waking.edge.ready = false ∧ waking.edge.porst = true ∧ waking.edge.stopped = false
        ∧ waking.saltern.halted = false ∧ waking.edge.ucie0 ≠ .training ∧ waking.edge.ucie1 ≠ .training ∧ waking.cmds = [] ∧ waking.boot.saved.isSome = true
        ∧ ({ waking with boot := { waking.boot with area := Tab.span [] 0 0 (leBytes 4 0x4E344C54) } } : State).requested = true)
      ∧ waking.copyHolds reserveBase waking.boot.pfw = true ∧ waking.copyHolds (reserveBase + 0x900000) waking.boot.sfw = true :=
  ⟨by unfold Served Taken; decide +kernel, by decide +kernel, by decide +kernel, copyHolds_empty rfl, copyHolds_empty rfl⟩

theorem witness_GroupsStretchRiseAndFollowTheirTargets :
    (up.edge.porst = true ∧ up.edge.stopped = false ∧ (up.group 1).tripped = false ∧ up.power.sleep ≠ .doze ∧ up.power.sleep ≠ .slack)
      ∧ (∀ x ∈ [false, true], let s : State := { up with groups := [(1, { rising := some 7, stretching := x, tripped := x })] }
        (s.group 1).rising = some 7 ∧ (s.group 1).stretching = x ∧ s.groupsOn = true)
      ∧ let s : State := { up with groups := [(1, { op := 8, cool := true, calm := 16 })] }
        s.groupsOn = true ∧ (s.group 1).climbDue = false ∧ (s.group 1).op = 8 ∧ (s.group 1).cool = true := by
  decide +kernel

theorem witness_CapWindowsShareThePowerAndCheckpointsFollow :
    (∀ k ∈ [SleepState.awake, .doze], let s := asleep k
      s.edge.porst = true ∧ s.edge.stopped = false ∧ s.boot.stage ≠ .off ∧ s.boot.stage ≠ .straps ∧ s.power.sleep ≠ .slack ∧ s.power.sleep = k)
      ∧ (let cap := fld up.cfg.pwrCfg.toNat 0 8 * 250 - 600 * up.armedCount
        up.pEst emptyReport - up.raceEst emptyReport ≤ cap ∧ cap ≠ 0)
      ∧ ((asleep .slack).power.sleep = .slack ∧ ({ up with power := { up.power with monitored := true } } : State).power.monitored = true)
      ∧ ∀ page ∈ [0, 16], ∀ budget ∈ [0, 1], let s : State := { up with
          tally := { up.tally with since := 4096, ckptEn := true, nextPage := page, budget }
          boot := { up.boot with flashPresent := true, env := some board } }
        s.up = true ∧ s.saltern.halted = false ∧ s.power.sleep ≠ .slack ∧ 4096 * 2 ^ s.tally.ckptK ≤ s.tally.since ∧ s.tally.ckptEn = true
          ∧ s.flashGood = true ∧ s.ckptErases = decide (page = 16) ∧ decide (s.tally.budget ≤ s.tally.erases.toNat) = decide (budget = 0) := by
  decide +kernel

-- ## Witnesses: mailboxes and services

/-- Channel 0 between initiator 2 and initiator 0. -/
def mailing (a b : List Word) : State := { up with chans := [(0, { bind := 0x80000200, aToB := a, bToA := b })] }

theorem witness_MailboxWordsArePushedPoppedAndFlushed :
    (Served up client ∧ (up.chan 0).side 2 = none)
      ∧ (∀ k ∈ [0, 7, 8], let s := mailing (List.replicate k 5) (List.replicate k 5)
        Served s client ∧ Served s root ∧ (s.chan 0).side 2 = some false ∧ (s.chan 0).side 0 = some true
          ∧ ((s.chan 0).outgoing false).length = k ∧ ((s.chan 0).incoming true).length = k)
      ∧ (let s : State := { up with chans := [(0, { bind := 0x80000280, discard := 2 })] }
        (s.chan 0).side 2 = some false ∧ (s.chan 0).sideB = 0x80 ∧ (s.chan 0).discard ≠ 0)
      ∧ let s : State := { up with chans := [(0, { bind := 0x80000280, aToB := [0x05060007, 8] })] }
        s.up = true ∧ s.saltern.halted = false ∧ ∃ r, (s.chan 0).request = some r ∧ r.words.length < r.need := by
  refine ⟨?_, ?_, ?_, ?_, ?_, ⟨5, 6, 7, [8]⟩, ?_, ?_⟩ <;> (try unfold Served Taken) <;> decide +kernel

/-- A request of an initiator on channel 0. -/
def reqOf (code : Nat) (args : List Word) : SvcReq := { code, len := args.length, tag := 7, words := args }
/-- A key record of initiator 2, or of initiator 0, in partition 0's world. -/
def keyOf (type usage : Nat) (m : List Byte) : KeySlot := { material := m, attr := attrWord 5 type usage 1 0 1 }
def ownKey (type usage : Nat) (m : List Byte) : KeySlot := { material := m, attr := attrWord 0 type usage 1 0x10 1 }
/-- That request stands at the head of channel 0; slots 8 to 12 hold keys, slot 7 the partition root and slots 5 and 6 the attestation
keys; 0x1000 holds the base point of P-384. -/
def serving (ini code : Nat) (args : List Word) : State :=
  { up with
    chans := [(0, { bind := BitVec.ofNat 32 (0x80000080 + ini * 256)
                    aToB := BitVec.ofNat 32 (code * 2 ^ 24 + args.length * 2 ^ 16 + 7) :: args })]
    saltern := { phase := .firmware
                 slots := [(5, ownKey kP384 2 (beBytes 48 1)), (6, ownKey kMldsa 2 (List.replicate 32 0)), (7, ownKey kDerive 8 [1]),
                   (8, keyOf kHmac384 1 [1]), (9, keyOf kP256 2 (beBytes 32 1)), (10, keyOf kP384 6 (beBytes 48 1)), (11, keyOf kDerive 8 [2])] }
    boot := { up.boot with certs := [[1], [2]], flashPresent := true, env := some board }
    eng := { drbg := .ready, fullSet := true }
    mem := Tab.span [] 0 0x1000 (p384.pair (p384.gx, p384.gy)) }
def taken (ini code : Nat) (args : List Word) : State := (serving ini code args).takeRequest 0 (reqOf code args)

/-- The Saltern takes that request next. -/
def Served' (ini code : Nat) (args : List Word) : Prop := Asks (serving ini code args) 0 code (reqOf code args) (taken ini code args)

theorem served_of {ini code : Nat} {args : List Word} (h : (let s := serving ini code args
    let r := reqOf code args
    s.nextService = some 0 ∧ (s.chan 0).request = some r ∧ (s.takeRequest 0 r).boundRaw (s.asker 0) = some 0
      ∧ ((s.takeRequest 0 r).part 0).teardown = false)) : Served' ini code args :=
  ⟨h.1, h.2.1, rfl, rfl, fun q hq => by have g := h.2.2.1; unfold taken at hq; rw [g] at hq; cases hq; exact h.2.2.2⟩

/-- As `served_of`, for a requester bound to no partition. -/
theorem served_free {ini code : Nat} {args : List Word} (h : (let s := serving ini code args
    let r := reqOf code args
    s.nextService = some 0 ∧ (s.chan 0).request = some r ∧ (s.takeRequest 0 r).boundRaw (s.asker 0) = none)) : Served' ini code args :=
  ⟨h.1, h.2.1, rfl, rfl, fun q hq => by have g := h.2.2; unfold taken at hq; rw [g] at hq; cases hq⟩

/-- Initiator 3 has no world. -/
theorem witness_NoWorld :
    (Served' 3 0x04 [4, 0x1000, 0] ∧ Served' 3 0x07 [10, 0x1000, 0, 8])
      ∧ (taken 3 0x04 [4, 0x1000, 0]).worldOf 3 = none ∧ (taken 3 0x07 [10, 0x1000, 0, 8]).worldOf 3 = none
      ∧ (taken 2 0x04 [4, 0x1000, 0]).worldOf 2 ≠ none ∧ (serving 2 0x04 []).pkeBusy = false ∧ (serving 2 0x04 []).ctxsFull = false := by
  refine ⟨⟨?_, ?_⟩, ?_, ?_, ?_, ?_, ?_⟩
  all_goals first
    | exact served_free (by decide +kernel)
    | exact fun h => by cases h
    | decide +kernel

theorem witness_KeyServicesFillShowAndEmptySlots :
    (Served' 2 0x01 [8] ∧ Served' 2 0x08 [8] ∧ Served' 2 0x09 [9, 0x5000, 0] ∧ Served' 2 0x04 [0, 0x1000, 0] ∧ Served' 2 0x04 [4, 0x1000, 0]
        ∧ Served' 2 0x04 [4, 0x2000, 0] ∧ Served' 2 0x03 [5, 0, 0] ∧ Served' 2 0x03 [5, 0x5000, 0] ∧ Served' 2 0x02 [0x4040002, 0x1000, 0])
      ∧ (let u := taken 2 0x09 [9, 0x5000, 0]
        u.eng.katFail = false ∧ u.useErr (some 2) 9 none = none ∧ u.useErr (some 2) 12 none = some svAbsent ∧ u.useErr (some 2) 8 none = none
          ∧ (u.key 8).type < 4 ∧ (u.key 9).type = 4 ∧ (publicOf 4 (u.key 9).material).isSome = true)
      ∧ (let u := taken 2 0x04 [4, 0x1000, 0]
        typeOk 0 = false ∧ typeOk 4 = true ∧ (u.slotFor 2).toOption = some (12, 0) ∧ (u.slotFor 3).toOption = none
          ∧ (u.svcRead 2 0x1000 32).toOption.map beNat = some (p384.gx / 2 ^ 128) ∧ p384.gx / 2 ^ 128 < p256.n
          ∧ (u.svcRead 2 0x2000 32).toOption.map beNat = some 0)
      ∧ (let s := serving 2 0x03 [5, 0, 0]
        let u := taken 2 0x03 [5, 0, 0]
        s.drbgWaits = false ∧ typeOk 5 = true ∧ (u.slotFor 2).toOption = some (12, 0) ∧ u.eng.drbg ≠ .error ∧ u.eng.katFail = false
          ∧ (u.drbgTake (typeBits 5 / 8)).isSome = true ∧ publicOf 1 [] = none ∧ u.svcRange 2 0x5000 96 true = true)
      ∧ (let s := serving 2 0x02 [0x4040002, 0x1000, 0]
        let u := taken 2 0x02 [0x4040002, 0x1000, 0]
        s.ctxsFull = false ∧ u.worldOf 2 = some 0 ∧ (u.parentOf 2 (reqOf 0x02 [0x4040002, 0x1000, 0])).isOk = true ∧ (u.slotFor 2).toOption = some (12, 0)
          ∧ (u.svcRead 2 0x1000 8).isOk = true) := by
  refine ⟨⟨?_, ?_, ?_, ?_, ?_, ?_, ?_, ?_, ?_⟩, ?_, ?_, ?_, ?_⟩
  all_goals first
    | exact served_of (by decide +kernel)
    | decide +kernel

theorem witness_KeyUsesAndDigestsGiveTheirResults :
    (Served' 2 0x05 [8, 0x1000, 0, 16, 0x5000, 0] ∧ Served' 2 0x06 [9, 0x1000, 0, 0, 0x5000, 0] ∧ Served' 2 0x07 [10, 0x1000, 0, 8]
        ∧ Served' 2 0x18 [3, 0x1000, 0, 0, 0x5000, 0] ∧ Served' 2 0x18 [2, 0x1000, 0, 0, 0x5000, 0]
        ∧ Served' 2 0x19 [8, 0x1000, 0, 16, 0x1000, 0, 16] ∧ Served' 2 0x1A [1])
      ∧ (let u := taken 2 0x05 [8, 0x1000, 0, 16, 0x5000, 0]
        (serving 2 0x05 []).ctxsFull = false ∧ (serving 2 0x05 []).drbgWaits = false ∧ u.useErr (some 2) 8 (some uHmac) = none
          ∧ u.useErr (some 2) 9 (some uHmac) = some svUsage ∧ u.svcRange 2 0x5000 (tagBytes 2) true = true ∧ (u.svcRead 2 0x1000 16).isOk = true)
      ∧ (let u := taken 2 0x07 [10, 0x1000, 0, 8]
        u.useErr (some 2) 10 (some uEcdh) = none ∧ ecdhType 8 = some kDerive ∧ (u.slotFor 2).toOption = some (12, 0) ∧ (u.svcRead 2 0x1000 96).isOk = true
          ∧ (p384.ecdh (beNat (u.key 10).material) p384.gx p384.gy).isOk = true ∧ (p384.ecdh 1 0 0).isOk = false)
      ∧ (let u := taken 2 0x06 [9, 0x1000, 0, 0, 0x5000, 0]
        u.useErr (some 2) 9 (some uSign) = none ∧ u.useErr (some 2) 8 (some uSign) = some svUsage ∧ u.eng.drbg ≠ .error
          ∧ u.svcRange 2 0x5000 (sigBytes 4) true = true ∧ (u.svcRead 2 0x1000 0).isOk = true)
      ∧ (taken 2 0x1A [1]).drbgTake 4 ≠ none
      ∧ ({ taken 2 0x1A [1] with eng := { drbg := .error } } : State).drbgTake 4 = none := by
  refine ⟨⟨?_, ?_, ?_, ?_, ?_, ?_, ?_⟩, ?_, ?_, ?_, ?_, ?_⟩
  all_goals first
    | exact served_of (by decide +kernel)
    | exact fun h => by cases h
    | decide +kernel

/-- The operator 0 in a MANUFACTURED or OWNED part with VPP_OTP there; lock word `k` of record 4 reads `x`. -/
def fusing (lc x : Nat) (code : Nat) (args : List Word) : State :=
  let s := taken 0 code args
  { s with otp := { vpp := true, shadow := [(0x100, BitVec.ofNat 32 (4 ^ lc - 1)), (lockWord 4 + 1, BitVec.ofNat 32 x)] } }

theorem witness_FusesAreReadProgrammedAndLockedByRequest :
    (Served' 0 0x10 [0, 1] ∧ Served' 0 0x11 [0x301, 1] ∧ Served' 0 0x12 [4])
      ∧ ((fusing 0 0 0x11 [0x301, 1]).otpErr 0 (some 4)).isSome = true ∧ (fusing 3 0 0x11 [0x301, 1]).otpErr 0 (some 4) = none
      ∧ (fusing 3 0 0x11 [0x301, 1]).otpErr 2 (some 4) = some svNotOperator
      ∧ (let u := fusing 3 0xFFFFFFFF 0x12 [4]
        u.otpErr 0 (some 4) = none ∧ ∃ d ∈ (lockDigestWords u.otpWord 4).zipIdx, u.otpWord (lockWord 4 + 1 + d.2) &&& d.1 ≠ u.otpWord (lockWord 4 + 1 + d.2))
      ∧ (∀ d ∈ (lockDigestWords (fusing 3 0 0x12 [4]).otpWord 4).zipIdx, (0 : Nat) &&& d.1 = 0)
      ∧ ((fusing 3 0 0x11 [0x300, 1]).otp.job = none ∧ (fusing 3 0 0x11 [0x300, 1]).otp.waiting = [] ∧ otpListed 0x300 = true
        ∧ (fusing 3 0 0x11 [0x300, 1]).bitsFor 0x300 1 = [(0x300, 0)] ∧ (fusing 3 0 0x11 [0x300, 1]).bitsFor 0x300 0 = []
        ∧ (lockDigestWords (fusing 3 0 0x12 [4]).otpWord 4).any (fun d => d != 0) = true)
      ∧ ∀ k ∈ [0, 2, 3], ∀ rest ∈ [[], [(0x300, 1)]], let j : OtpJob := { purpose := .program 0 0x300 3 7 false, bits := (0x300, 0) :: rest, pulses := k }
        let s : State := { up with otp := { vpp := true, job := some j } }
        s.otp.job = some j ∧ s.jobGone j = false ∧ s.otp.strict 0x300 0 = false ∧ s.otp.waiting = [] ∧ s.edge.stopped = false := by
  refine ⟨⟨?_, ?_, ?_⟩, ?_, ?_, ?_, ?_, fun d _ => Nat.zero_and _, ?_, ?_⟩
  all_goals first
    | exact served_of (by decide +kernel)
    | decide +kernel

theorem witness_AttestationAndImageServicesAnswer :
    (Served' 2 0x23 [32] ∧ Served' 2 0x23 [31] ∧ Served' 2 0x21 [0, 1, 0x5000, 0] ∧ Served' 2 0x22 [0x5000, 0, 100]
        ∧ Served' 2 0x20 [1, 0x1000, 0, 8, 0x5000, 0, 0] ∧ Served' 0 0x40 [2, 0x1000, 0, 0] ∧ Served' 2 0x40 [3, 0x1000, 0, 0]
        ∧ Served' 0 0x40 [3, 0x1000, 0, 16])
      ∧ (let s := serving 2 0x20 [0, 0x1000, 0, 8, 0x5000, 0, 0x10000]
        let u := taken 2 0x20 [0, 0x1000, 0, 8, 0x5000, 0, 0x10000]
        s.drbgWaits = false ∧ s.ctxsFull = false ∧ u.isOperator 2 = false ∧ u.canAttest = true ∧ (u.svcRead 2 0x1000 8).isOk = true
          ∧ u.eng.drbg ≠ .error ∧ u.svcRange 2 0x5000 0x4000 true = true
          ∧ ({ u with saltern := { u.saltern with tampered := true } } : State).canAttest = false)
      ∧ (let u := taken 0 0x40 [3, 0x1000, 0, 16]
        u.isOperator 0 = true ∧ u.eng.katFail = false ∧ u.flashGood = true ∧ (u.svcRead 0 0x1000 16).isOk = true) := by
  refine ⟨⟨?_, ?_, ?_, ?_, ?_, ?_, ?_, ?_⟩, ?_, ?_⟩
  all_goals first
    | exact served_of (by decide +kernel)
    | decide +kernel

-- ## Witnesses: the engines

/-- The Saltern's own keys in slots 9, 10 and 11, with every program loaded or none. -/
def computing (full : Bool) : State :=
  { up with
    saltern := { phase := .firmware
                 slots := [(9, ownKey kP256 2 (beBytes 32 1)), (10, ownKey kP384 6 (beBytes 48 1)), (11, ownKey kMldsa 2 (List.replicate 32 0))] }
    eng := { drbg := .ready, drbgK := List.replicate 48 0, drbgV := List.replicate 48 1, fullSet := full } }

theorem witness_PkeProgramsReturnResultsAndCodes :
    (let s := computing true;
      s.salternRuns = true ∧ (∀ n ∈ List.range 12, s.pkeLoaded n = true ∧ (computing false).pkeLoaded n = false) ∧ s.drbgReady = true
        ∧ s.useErr none 9 (some uSign) = none ∧ (s.key 9).type = kP256 ∧ s.useErr none 10 (some uEcdh) = none ∧ (s.key 10).type = kP384
        ∧ s.useErr none 10 none = none ∧ s.useErr none 11 (some uSign) = none ∧ (s.key 11).type = kMldsa
        ∧ s.useErr none 12 (some uSign) = some svAbsent ∧ (s.drbgTake 32).isSome = true ∧ s.eng.pke = [])
      ∧ (∀ d ∈ [DrbgState.error, .uninstantiated], let s : State := { computing true with eng := { (computing true).eng with drbg := d } }
        let q : PkeReq := { prog := 0, slot := some 9 }
        s.salternRuns = true ∧ s.drbgWaits = decide (d = .uninstantiated) ∧ s.pkeLoaded 0 = true ∧ s.useErr none 9 (some uSign) = none
          ∧ pkeRandom 0 = true ∧ (d = .uninstantiated → ((s.withPke [q, q]).pkeRun q).isNone = true))
      ∧ (∀ bits ∈ [3072, 4096], let m := 2 ^ bits - 1
        (1 : Nat) ≠ 0 ∧ 1 < m ∧ m % 2 = 1 ∧ 2 ^ (bits - 1) ≤ m ∧ m < 2 ^ bits) := by
  decide +kernel

/-- A signature can be had from the DRBG. -/
theorem witness_PkeSignature : (ecdsaSign p256 64 1 5 (computing true)).isSome = true := by decide +kernel

theorem witness_DigestDescriptorsAndTheDrbgFollowTheirRules :
    (∀ op ∈ [0, 1, 2], let desc := leBytes 32 (op + 3 * 2 ^ 8 + 4 * 2 ^ 128 + 0x2000 * 2 ^ 192)
      up.salternRuns = true ∧ desc.length = 32 ∧ leAt desc 0 1 = op ∧ op ≤ 2 ∧ bitAt (leAt desc 1 1) 0 = true ∧ bitAt (leAt desc 1 1) 1 = true
        ∧ bitAt (leAt desc 1 1) 2 = false ∧ (List.range 4).find? (fun j => !(up.dctx j).busy) = some 0
        ∧ salternBase + 0x1000 + 28 + 4 ≤ salternBase + leAt desc 24 4 ∧ ([1] : List Byte).length < min (leAt desc 16 8) (2 ^ 40 - 1)
        ∧ min (leAt desc 16 8) (2 ^ 40 - 1) ≤ ([1, 2, 3, 4, 5] : List Byte).length)
      ∧ (let s : State := { up with eng := { ctxs := (List.range 4).map fun i => (i, { busy := true }) } }
        s.salternRuns = true ∧ s.ctxsFull = true)
      ∧ (∀ n ∈ [5, 3], ∀ ov ∈ [0, 8], let desc := leBytes 32 ((3 + ov) * 2 ^ 8 + 0x10031000 * 2 ^ 64 + n * 2 ^ 128 + 0x10030100 * 2 ^ 192)
        inSram 0x10030000 32 = true ∧ inSram 0x10030100 64 = true ∧ inSram 0x10031000 5 = true ∧ leAt desc 8 4 = 0x10031000
          ∧ leAt desc 16 8 = n ∧ leAt desc 24 4 = 0x10030100 ∧ bitAt (leAt desc 1 1) 3 = decide (ov = 8))
      ∧ (inBridge 0x40001000 5 = true ∧ within up.deviceRanges 0x1000 5 = true ∧ up.hitsSealed 0x1000 5 = false ∧ up.marked 0x1000 5 = false
        ∧ up.fencedAt 0x1000 5 = false ∧ within up.deviceRanges 0x3FFF000000 5 = false)
      ∧ (up.openMsg 0 0 = none ∧ up.wasAborted 0 0 = false ∧ ({ up with eng := { aborted := [(0, none)] } } : State).wasAborted 0 0 = true)
      ∧ (healthTests (List.replicate 128 0x55) = (false, false) ∧ healthTests (List.replicate 128 0) = (true, true)
        ∧ healthTests (List.replicate 6 0) = (true, false) ∧ up.eng.startupDone = false ∧ up.enginesRun = true ∧ (computing true).enginesRun = true
        ∧ ({ up with eng := { startupDone := true } } : State).eng.startupDone = true)
      ∧ (up.boot.stage = .done ∧ up.eng.drbg = .uninstantiated ∧ (computing true).eng.drbg = .ready ∧ (computing true).boot.stage = .done)
      ∧ ((computing true).eng.entropy = [] ∧ ((computing true).drbgTake 4096).isSome = true)
      ∧ up.live = true ∧ up.power.sleep ≠ .slack ∧ up.eng.drbg ≠ .error := by
  decide +kernel

-- ## Witnesses: the boot

/-- The clears of the boot are still to end. -/
def clearing : State :=
  { booting with
    boot := { stage := .rom }
    eng := { drbg := .ready }
    attest := { log := [{ seq := 0, mr := 0, kind := 1, flags := 0, handle := 0, value := List.replicate 48 1 }] } }
/-- The ROM examines an empty request area, or one with the MAGIC word and nothing else. -/
def examining (magic : Nat) : State :=
  { booting with boot := { stage := .examine, cleared := true, area := Tab.span [] 0 0 (leBytes 4 magic) } }

theorem witness_TheBootClearsExaminesAndRaisesReady :
    (clearing.edge.stopped = false ∧ clearing.boot.stage = .rom ∧ clearing.boot.cleared = false ∧ clearing.attest.log.length ≤ 65536
        ∧ (∀ e ∈ clearing.attest.log, e.value.length = 48) ∧ noVerdict.failVaults = 0 ∧ noVerdict.failPans = 0 ∧ clearing.eng.drbg = .ready
        ∧ booting.eng.drbg = .uninstantiated ∧ clearing.boot.tested.getLsbD 8 = false
        ∧ (clearing.pan 8).bunded = false)
      ∧ (let s : State := { booting with boot := { stage := .lpClear, cleared := true } }
        s.boot.cleared = true ∧ s.boot.stage = .lpClear ∧ noVerdict.failPorts = 0)
      ∧ (∀ m ∈ [0, 0x4E344C54], let s := examining m
        s.boot.stage = .examine ∧ s.edge.stopped = false ∧ s.saltern.halted = false ∧ s.examineDue = true
          ∧ leAt (slice s.request 0 4) 0 4 = m ∧ s.boot.afterSlack = false
          ∧ ({ s with boot := { s.boot with afterSlack := true } } : State).boot.afterSlack = true)
      ∧ (examining 0x4E344C54).transCheck (examining 0x4E344C54).request = .error trFormat
      ∧ booting.canRise = false
      ∧ (let s : State := { booting with boot := { booting.boot with tested := 0xFFFFFFFFFFFFFFFE }, pans := [(0, { bunded := true })] }
        s.boot.stage = .waitReady ∧ s.lock 15 = true ∧ s.edge.stopped = false ∧ s.saltern.halted = false
          ∧ ∀ p, p < 64 → s.boot.tested.getLsbD p = true ∨ (s.pan p).bunded = true) := by
  refine ⟨by decide +kernel, by decide +kernel, by decide +kernel, ?_, by decide +kernel, by decide +kernel⟩
  have h : (match (examining 0x4E344C54).transCheck (examining 0x4E344C54).request with | .error c => c == trFormat | .ok _ => false) = true := by
    decide +kernel
  revert h
  cases (examining 0x4E344C54).transCheck (examining 0x4E344C54).request with
  | error c => intro h; exact congrArg _ (beq_iff_eq.mp h)
  | ok x => intro h; cases h

/-- PUSH_CTRL of a KIND, with FIRST and LAST, an offset and a length. -/
def control (kind flags offset len : Nat) : QWord := BitVec.ofNat 128 (3 + kind * 2 ^ 16 + flags * 2 ^ 24 + offset * 2 ^ 32 + len * 2 ^ 64)

theorem witness_PushesAreTakenInOrderFromTheirHolder :
    ((up.link false).isUp = true ∧ up.edge.ready = true ∧ root.ini.toNat < 64 ∧ booting.edge.ready = false ∧ booting.windowOpen = true
        ∧ booting.saltern.halted = false ∧ booting.boot.holder = none ∧ up.ctlHeld false = false ∧ lockedUp.ctlHeld true = true
        ∧ (lockedUp.link true).isUp = true ∧ lockedUp.edge.ready = true)
      ∧ (∀ h ∈ [(0 : Ini), 2], let s : State := { booting with boot := { booting.boot with holder := some h, pushed := some (1, [1, 2]) } }
        s.boot.holder = some h ∧ s.windowOpen = true ∧ s.edge.ready = false)
      ∧ (fld (control 15 0 0 0).toNat 16 8 = 15 ∧ fld (control 1 0 0 0).toNat 16 8 ≠ 15)
      ∧ (∀ f ∈ [0, 1, 2, 3], pushKind (control 1 f 2 16) = some .sfw ∧ booting.boot.need.getLsbD 0 = true ∧ fld (control 1 f 2 16).toNat 32 32 = 2
        ∧ bitAt (fld (control 1 f 2 16).toNat 24 8) 1 = decide (2 ≤ f) ∧ (booting.pushBuf 16).length < headerLen)
      ∧ pushKind (control 9 0 0 0) = none
      ∧ (Served up root ∧ Served up client ∧ up.isOperator 0 = true ∧ up.isOperator 2 = false) := by
  unfold Served Taken; decide +kernel

-- ## Witnesses: debug and the management bus

/-- The TAP's instruction is DBG. -/
def tapped (k : SleepState) : State := { asleep k with dbg := { tap := .dbg, sessions := [.jtag] } }

theorem witness_TheTapLoadsItsInstructionsAndRunsDebug :
    (up.edge.aonUp = true ∧ Session.jtag ∉ up.dbg.sessions ∧ Session.jtag ∈ (tapped .awake).dbg.sessions ∧ (tapped .awake).dbg.tap = .dbg)
      ∧ (∀ k ∈ [SleepState.doze, .slack], (tapped k).power.sleep = k ∧ (tapped k).readHeld 0x1000 8 = false)
      ∧ (let s := tapped .awake
        s.power.sleep ≠ .doze ∧ s.power.sleep ≠ .slack ∧ 0x1000 < reserveBase ∧ s.fencedAt 0x1000 8 = false ∧ s.marked 0x1000 16 = false
          ∧ s.hitsSealed 0x1000 8 = false ∧ s.kvHit 0x1000 8 = none ∧ (s.pan 8).bunded = false ∧ s.saltern.halted = false)
      ∧ (({ tapped .awake with pans := [(8, { bunded := true })] } : State).pan 8).bunded = true
      ∧ ((tapped .awake).edge.dark = false ∧ (tapped .awake).saltern.phase ≠ .stopped
        ∧ ({ tapped .awake with edge := { up.edge with dark := true } } : State).edge.dark = true
        ∧ ({ tapped .awake with saltern := { phase := .stopped } } : State).saltern.phase = .stopped) := by
  decide +kernel

/-- The target is live. -/
def live (dyn : Option (BitVec 7)) : State := { up with i3c := { sampled := true, addrSel := 1, dynAddr := dyn } }

theorem witness_TheManagementBusAddressesReportsAndHolds :
    (up.i3cLive = false ∧ up.edge.aonUp = true) ∧ ((live none).i3cLive = true ∧ (live none).i3c.dynAddr = none ∧ (live (some 9)).i3c.dynAddr ≠ none)
      ∧ (0x51#7).toNat = 0x50 + (live none).i3c.addrSel.toNat ∧ (live none).edge.ready = true
      ∧ ({ live none with edge := { up.edge with ready := false } } : State).edge.ready = false
      ∧ up.edge.refclkOk = true ∧ ({ up with edge := { up.edge with refclkOk := false } } : State).edge.refclkOk = false := by
  decide +kernel

-- ## Witnesses: the machine as a whole

theorem witness_StepTakesTheFrontCommand : State.reset.pending = [] := rfl

theorem witness_EveryStepKeepsMemoryCanonical :
    Memory.wf (onPan (word kWait 0)).mem ∧ ∃ t, step { onPan (word kWait 0) with pending := [.wait 8 []] } = .next t :=
  ⟨by decide +kernel, _, rfl⟩

theorem witness_AStoppedDeviceStaysStopped :
    let s : State := { up with edge := { up.edge with stopped := true } }
    s.edge.stopped = true ∧ (∀ left, Instr.commandAccept ≠ .porstNFall left) ∧ Instr.commandAccept ≠ .vddAonLoss
      ∧ (∀ a d, Instr.commandAccept ≠ .write8B a d) ∧ ∃ t, exec .commandAccept s = .next t := by
  refine ⟨by decide +kernel, fun _ h => (by cases h), fun h => (by cases h), fun _ _ h => (by cases h), _, rfl⟩

-- ## Worked examples of the spec

/-- Table 6.11: three ranks' records of one tag. -/
theorem test_lse_merge_of_one_tag :
    let two := 0x40000000
    let r0 : ARec := { tag := 3, hd := 1, empty := false, m := two, l := 0x3FC00000, o := [0x40400000] }
    let r1 : ARec := { tag := 3, hd := 1, empty := true, m := negInf, l := 0, o := [0] }
    let r2 : ARec := { tag := 3, hd := 1, empty := false, m := two, l := 0x3F000000, o := [0x3F800000] }
    (Arith.go (do foldRec (← foldRec r0 r1) r2)).1 = { r0 with l := two, o := [0x40800000] } := by
  decide +kernel

/-- The example of R68: UINT8 activations of 130 about 120, UINT4 weights 10 and 5 about 6, K = 32, give 15.0. -/
theorem test_scaled_group_gives_fifteen :
    (Arith.go (groupStep .uint8 .uint4 0 (0x3D800000, 120) (0x3F000000, 6)
      ((List.range 32).map fun k => (130, if k % 2 = 0 then 10 else 5)))).1 = 0x41700000 := by
  decide +kernel

/-- The example of R72: a runtime QUANT of a group from -1.5 to 2.5. -/
theorem test_runtime_quant_codes :
    let q : QDesc := { fmt := .uint8, bf16Scale := false, asym := true, gran := .row, gsize := 32, addr := 0, stride := 0 }
    (Arith.go (quantGroup q none [0x40200000, 0x3F800000, 0, 0xBFC00000])).1 = ([255, 160, 96, 0], 0x2404, 96) := by
  decide +kernel

/-- The example after R213: queue 9 with DEPTH 256, TAIL 0x320 and HEAD 0x310. -/
theorem test_doorbell_rows :
    let x : Ctx := { live := { depth := 256 }, tail := 0x320, head := 0x310 }
    let s : State := { up with
      cfg := { up.cfg with parts := [(0, { up.cfg.part 0 with queues := 0x100000 })], binds := [(2, 0x1000000100)] }, ctxs := [(9, x)] }
    let after (t : Nat) : Option (Word × Bool) := match exec (.doorbellWrite client 9 (BitVec.ofNat 64 t)) s with
      | .next u => some ((u.ctx 9).tail, (u.ctx 9).bellClamp)
      | _ => none
    after 0x318 = some (0x320, false) ∧ after 0x8400 = some (0x320, false) ∧ after 0x450 = some (0x410, true) := by
  decide +kernel

/-- The example of R292 and R294: 66.3 W under a cap of 60 W with GAIN 2.0, one armed slot, two partitions. -/
def hotReport : WindowReport :=
  { emptyReport with
    pans := (List.range 64).map fun p => if p = 0 then window 0 4000 else if p = 3 then window 3 300 else if p = 8 then window 8 32000 else window p 0
    fabric := 30000 :: List.replicate 5 0 }
/-- Each event of class 0 counts 1 mW. -/
def hot : State :=
  { up with
    cfg := { up.cfg with
      parts := [(0, { pdef := 0x8000C800, pans := 0xFFFFFFFFFFFFFF00 }), (1, { pdef := 0x80003700, pans := 0xF7, race := 1 })], racePan := [(0, 3)]
      pwrCfg := 0x8F0 }
    otp := { shadow := [(0x21A, 10240), (0x23E, 10240)] }
    slots := [(0, { st := .armed })] }
theorem test_power_shares_of_a_hot_window :
    (match exec (.capWindow hotReport) hot with
      | .next u => some (u.power.last, (u.part 0).pwrLast, (u.part 1).pwrLast, (u.pan 8).frac, (u.pan 0).frac)
      | _ => none) = some (6630 * 0x10000 + 57, 2540 * 0x10000 + 64, 400 * 0x10000, 64, 0) := by
  decide +kernel

/-- R449: the provisioned ID at ADDR_SEL 1. -/
theorem test_provisioned_id :
    (match exec .getpid (live none) with | .next u => u.i3c.answer | _ => []) = [0x54, 0xDC, 0x4E, 0x64, 0x10, 0x21] := by
  decide +kernel

end Sys2Proof.Tests
end

/-! SUPPORT. Split reads of 64-bit registers (R4). -/
namespace Sys2Proof.Machine

/-- Bytes of a number do not see what lies beyond them. -/
theorem leBytes_mod (n k x : Nat) (h : 8 * n ≤ k) : leBytes n (x % 2 ^ k) = leBytes n x := by
  induction n generalizing k x with
  | zero => rfl
  | succ n ih =>
    simp only [leBytes, List.cons.injEq]
    constructor
    · apply BitVec.eq_of_toNat_eq
      simp [Nat.mod_mod_of_dvd _ (Nat.pow_dvd_pow 2 (show 8 ≤ k by omega))]
    · rw [Nat.shiftRight_eq_div_pow, Nat.shiftRight_eq_div_pow,
        show 2 ^ k = 2 ^ 8 * 2 ^ (k - 8) by rw [← Nat.pow_add]; congr 1; omega, Nat.mod_mul_right_div_self]
      exact ih _ _ (by omega)

@[simp] theorem State.setLatch_latch (s : State) (i j : Ini) (l : Latch) :
    (s.setLatch i l).latch j = if j = i then l else s.latch j := by
  simp [State.latch, State.setLatch, BitVec.toNat_inj]
@[simp] theorem State.answerWord_latch (s : State) (i j : Ini) (w : Nat) : (s.answerWord i w).latch j = s.latch j := rfl

/-- An answer carries 32 bits of the word. -/
theorem State.answerWord_word (s : State) (i : Ini) (x : Nat) : s.answerWord i (BitVec.ofNat 32 x).toNat = s.answerWord i x := by
  simp only [State.answerWord, BitVec.toNat_ofNat, leBytes_mod 4 32 x (by decide)]

/-- Latches change nothing of an answer but themselves. -/
theorem State.setLatch_answerWord_frame (s : State) (i : Ini) (l : Latch) (x : Nat) :
    { (s.setLatch i l).answerWord i x with latches := s.latches } = s.answerWord i x := rfl

/-- An initiator of the port is served while the device is up, an agent of the device once PORST_N has risen. -/
theorem State.servesWords_of {s : State} {ini : Ini}
    (h : if ini.toNat < 64 then s.up = true else s.edge.porst = true ∧ s.edge.stopped = false) : s.servesWords ini = true := by
  unfold State.servesWords
  split at h
  · rw [h, Bool.true_or]
  · next hi =>
    obtain ⟨hp, hs⟩ := h
    simp [hp, hs, Nat.not_lt.mp hi]

/-- A low word read: the answer, with the high word of the same moment in the reader's latch. -/
theorem exec_latchedLowWordRead {s : State} {ini : Ini} {off : BitVec 24} {o : Nat} (hs : s.servesWords ini = true)
    (ho : wideReg off.toNat = some o) :
    exec (.latchedLowWordRead ini off) s = .next ((s.setLatch ini
      { reg := some o, high := BitVec.ofNat 32 (s.ctlWord ini (o + 4)) }).answerWord ini (s.ctlWord ini o)) := by
  simp only [exec, execLatchedLowWordRead, hs, if_true, latchedLow, ho]
  rfl

/-- A high word read whose latch holds the register answers the latch and clears it. -/
theorem exec_latchedHighWordRead_latched {s : State} {ini : Ini} {off : BitVec 24} {o : Nat} (hs : s.servesWords ini = true)
    (ho : wideReg off.toNat = some o) (hl : (s.latch ini).reg = some o) :
    exec (.latchedHighWordRead ini off) s = .next ((s.setLatch ini {}).answerWord ini (s.latch ini).high.toNat) := by
  simp only [exec, execLatchedHighWordRead, hs, if_true, latchedHigh, ho, hl]

/-- A high word read whose latch holds another register, or none, answers the current value. -/
theorem exec_latchedHighWordRead_current {s : State} {ini : Ini} {off : BitVec 24} {o : Nat} (hs : s.servesWords ini = true)
    (ho : wideReg off.toNat = some o) (hl : (s.latch ini).reg ≠ some o) :
    exec (.latchedHighWordRead ini off) s = .next (s.answerWord ini (s.ctlWord ini (o + 4))) := by
  simp only [exec, execLatchedHighWordRead, hs, if_true, latchedHigh, ho, hl, if_false]

/-- Settles O27: the low read leaves the high word of its moment in the reader's latch, and the high read answers from that latch. -/
theorem splitReadsOfARegisterAgree : Obligations.SplitReadsOfARegisterAgree := by
  unfold Obligations.SplitReadsOfARegisterAgree
  intro s ini off o serves hs ho
  refine ⟨⟨_, exec_latchedLowWordRead (State.servesWords_of hs) ho, State.setLatch_answerWord_frame _ _ _ _, fun j hj => ?_,
    fun v hv hl => ?_⟩, exec_latchedHighWordRead_current (State.servesWords_of hs) ho⟩
  · simp [hj]
  · have hlatch : v.latch ini = { reg := some o, high := BitVec.ofNat 32 (s.ctlWord ini (o + 4)) } := by simpa using hl
    refine ⟨_, exec_latchedHighWordRead_latched (State.servesWords_of hv) ho (by rw [hlatch]), by simp, ?_⟩
    rw [State.setLatch_answerWord_frame, hlatch, State.answerWord_word]

end Sys2Proof.Machine

/-! SUPPORT. The staged registers and contexts of a configuration: what each holds after an update of one of them (R5, R207, R243). -/
namespace Sys2Proof.Machine

-- ## Partition blocks and contexts

@[simp] theorem DevCfg.part_setPart (c : DevCfg) (p q : Nat) (v : PartCfg) :
    (c.setPart p v).part q = if q = p then v else c.part q := by simp [DevCfg.part, DevCfg.setPart]
@[simp] theorem DevCfg.ctx_setCtx (c : DevCfg) (q j : Nat) (v : CtxCfg) :
    (c.setCtx q v).ctx j = if j = q then v else c.ctx j := by simp [DevCfg.ctx, DevCfg.setCtx]
@[simp] theorem DevCfg.ctx_setPart (c : DevCfg) (p q : Nat) (v : PartCfg) : (c.setPart p v).ctx q = c.ctx q := rfl
@[simp] theorem DevCfg.part_setCtx (c : DevCfg) (p q : Nat) (v : CtxCfg) : (c.setCtx q v).part p = c.part p := rfl
@[simp] theorem DevCfg.get_setCtx (c : DevCfg) (q : Nat) (v : CtxCfg) (r : Rws) : (c.setCtx q v).get r = c.get r := by cases r <;> rfl
@[simp] theorem DevCfg.ctx_set (c : DevCfg) (r : Rws) (x q : Nat) : (c.set r x).ctx q = c.ctx q := by cases r <;> rfl

-- ## Registers

/-- The RWS bits of a register lie within its width. -/
theorem Rws.mask_lt (r : Rws) : r.mask < 2 ^ (8 * r.width) := by cases r <;> norm_num [Rws.mask, Rws.width]
theorem Rws.and_mask_lt (r : Rws) (x : Nat) : x &&& r.mask < 2 ^ (8 * r.width) := Nat.and_lt_two_pow x r.mask_lt
/-- A register has no bits beyond its width. -/
theorem DevCfg.get_lt (c : DevCfg) (r : Rws) : c.get r < 2 ^ (8 * r.width) := by cases r <;> exact BitVec.isLt _

theorem Rws.width_four_or_eight (r : Rws) : r.width = 4 ∨ r.width = 8 := by cases r <;> simp [Rws.width]

/-- The RWS bits of a value are those of its part within the register's width. -/
theorem Rws.mod_and_mask (r : Rws) (x : Nat) : x % 2 ^ (8 * r.width) &&& r.mask = x &&& r.mask := by
  rw [← Nat.mod_eq_of_lt (r.and_mask_lt x), Nat.and_mod_two_pow, Nat.mod_eq_of_lt r.mask_lt]

theorem DevCfg.set_mod (c : DevCfg) (r : Rws) (x : Nat) : c.set r (x % 2 ^ (8 * r.width)) = c.set r x := by
  simp only [DevCfg.set, Rws.mod_and_mask]

/-- A written register holds the RWS bits of the value (R6). -/
@[simp] theorem DevCfg.get_set_same (c : DevCfg) (r : Rws) (x : Nat) : (c.set r x).get r = x &&& r.mask := by
  have h := r.and_mask_lt x
  cases r <;> simp only [Rws.width] at h <;>
    simp only [DevCfg.get, DevCfg.set, DevCfg.part_setPart, Tab.look_put_same, if_true, BitVec.toNat_ofNat] <;>
    exact Nat.mod_eq_of_lt h

/-- A written register leaves every other: one of the device leaves the blocks of the partitions, and one of a block leaves the other
blocks and the other fields of its own. -/
theorem DevCfg.get_set_other (c : DevCfg) {r y : Rws} (x : Nat) (h : y ≠ r) : (c.set r x).get y = c.get y := by
  cases r with
  | bind | allow | racePan | raceCfg | pwrCfg | opCeil =>
    cases y <;> simp [DevCfg.get, DevCfg.set, DevCfg.part] at h ⊢ <;> simp [h]
  | pdef | pans | queues | race | vshare | lpr | det | pwr | kvCfg | kvExt =>
    cases y with
    | bind | allow | racePan | raceCfg | pwrCfg | opCeil => rfl
    | pdef | pans | queues | race | vshare | lpr | det | pwr | kvCfg | kvExt =>
      simp only [DevCfg.get, DevCfg.set, DevCfg.part_setPart]
      split <;> simp_all

end Sys2Proof.Machine

/-! SUPPORT. The words of a register write: their bytes, and where the staged words lie (R5, R247). -/
namespace Sys2Proof.Machine

-- ## Numbers and bytes

theorem leNat_leBytes (n x : Nat) : leNat (leBytes n x) = x % 2 ^ (8 * n) := by
  induction n generalizing x with
  | zero => simp [leBytes, leNat, Nat.mod_one]
  | succ n ih =>
    simp only [leBytes, leNat, ih, Nat.shiftLeft_eq, Nat.shiftRight_eq_div_pow, BitVec.toNat_ofNat]
    rw [show 2 ^ (8 * (n + 1)) = 2 ^ 8 * 2 ^ (8 * n) by rw [← Nat.pow_add]; congr 1; omega, Nat.mod_mul, Nat.mul_comm (2 ^ 8)]

theorem leNat_append (l m : List Byte) : leNat (l ++ m) = leNat l + leNat m * 2 ^ (8 * l.length) := by
  induction l with
  | nil => simp [leNat]
  | cons b l ih =>
    simp only [List.cons_append, leNat, ih, Nat.shiftLeft_eq, List.length_cons, Nat.mul_add, Nat.pow_add]
    ring

/-- Two words, the lower first, spell one number. -/
theorem leNat_words (x y : Nat) : leNat (leBytes 4 x ++ leBytes 4 y) = x % 2 ^ 32 + y % 2 ^ 32 * 2 ^ 32 := by
  rw [leNat_append, length_leBytes, leNat_leBytes, leNat_leBytes]

-- ## A staged register takes a word

/-- The low word of a register takes a word: its high word, where it has one, stands. -/
theorem DevCfg.merge_low (c : DevCfg) (r : Rws) (v : Nat) {be : Nat → Bool} (hb : ∀ k, k < 4 → be k = true) :
    c.merge r 0 v be = c.set r (c.get r / 2 ^ 32 * 2 ^ 32 + v % 2 ^ 32) := by
  have hlt := c.get_lt r
  unfold DevCfg.merge
  generalize c.get r = old at hlt ⊢
  rcases r.width_four_or_eight with h | h <;> rw [h] at hlt ⊢
  · rw [Nat.div_eq_of_lt hlt, Nat.zero_mul, Nat.zero_add, ← leNat_leBytes 4 v]
    simp [List.range_succ, hb, leBytes, ← Nat.shiftRight_add]
  · rw [← Nat.mod_eq_of_lt (a := old / 2 ^ 32) (b := 2 ^ 32) (by omega), ← Nat.shiftRight_eq_div_pow, Nat.add_comm (_ * _),
      ← leNat_words]
    simp [List.range_succ, hb, leBytes, ← Nat.shiftRight_add]

/-- The high word of a 64-bit register takes a word: its low word stands. -/
theorem DevCfg.merge_high (c : DevCfg) {r : Rws} (h : r.width = 8) (v : Nat) {be : Nat → Bool} (hb : ∀ k, k < 4 → be k = true) :
    c.merge r 4 v be = c.set r (c.get r % 2 ^ 32 + v % 2 ^ 32 * 2 ^ 32) := by
  unfold DevCfg.merge
  rw [h, ← leNat_words]
  simp [List.range_succ, hb, leBytes, ← Nat.shiftRight_add]

-- ## The words of a write

/-- The four bytes of a word at an offset, as a write carries them. -/
def wordBytes (w x : Nat) : List (Nat × Byte) := (List.range 4).map fun k => (w + k, BitVec.ofNat 8 (x >>> (8 * k)))

theorem slotBytes8_low {o : Nat} (h : o % 8 = 0) (value : DWord) : slotBytes8 o value 0x0F = wordBytes o value.toNat := by
  simp [slotBytes8, wordBytes, List.range_succ, show o / 8 * 8 = o by omega]
theorem slotBytes8_high {o : Nat} (h : o % 8 = 0) (value : DWord) :
    slotBytes8 o value 0xF0 = wordBytes (o + 4) (value.toNat >>> 32) := by
  simp [slotBytes8, wordBytes, List.range_succ, ← Nat.shiftRight_add, Nat.add_assoc, show o / 8 * 8 = o by omega]
theorem slotBytes8_whole {o : Nat} (h : o % 8 = 0) (value : DWord) :
    slotBytes8 o value 0xFF = wordBytes o value.toNat ++ wordBytes (o + 4) (value.toNat >>> 32) := by
  simp [slotBytes8, wordBytes, List.range_succ, ← Nat.shiftRight_add, Nat.add_assoc, show o / 8 * 8 = o by omega]

theorem find?_wordBytes (w x : Nat) {k : Nat} (hk : k < 4) :
    (wordBytes w x).find? (fun b => b.1 == w + k) = some (w + k, BitVec.ofNat 8 (x >>> (8 * k))) := by
  interval_cases k <;> simp [wordBytes, List.range_succ]

theorem find?_wordBytes_other (w x : Nat) {a : Nat} (ha : a < w ∨ w + 4 ≤ a) : (wordBytes w x).find? (fun b => b.1 == a) = none := by
  simp [wordBytes]; omega

/-- The bytes of a write give the word at an offset a value, whole. -/
def GivesWord (bs : List (Nat × Byte)) (w x : Nat) : Prop :=
  (wordAt bs w).1 = x % 2 ^ 32 ∧ ∀ k, k < 4 → (wordAt bs w).2 k = true

theorem givesWord_of_find {bs : List (Nat × Byte)} {w x : Nat}
    (h : ∀ k, k < 4 → bs.find? (fun b => b.1 == w + k) = some (w + k, BitVec.ofNat 8 (x >>> (8 * k)))) : GivesWord bs w x := by
  constructor
  · simp only [wordAt]
    rw [← leNat_leBytes 4 x]
    congr 1
    rw [List.map_congr_left (g := fun k => BitVec.ofNat 8 (x >>> (8 * k))) fun k hk => by rw [h k (List.mem_range.mp hk)]; rfl]
    simp [List.range_succ, leBytes, ← Nat.shiftRight_add]
  · intro k hk
    simp only [wordAt, h k hk, Option.map_some, Option.isSome_some]

theorem givesWord_wordBytes (w x : Nat) : GivesWord (wordBytes w x) w x := givesWord_of_find fun _ hk => find?_wordBytes w x hk
theorem givesWord_append_left (w x : Nat) (l : List (Nat × Byte)) : GivesWord (wordBytes w x ++ l) w x :=
  givesWord_of_find fun _ hk => by rw [List.find?_append, find?_wordBytes w x hk]; rfl
theorem givesWord_append_right (w x y : Nat) : GivesWord (wordBytes w x ++ wordBytes (w + 4) y) (w + 4) y :=
  givesWord_of_find fun k hk => by
    rw [List.find?_append, find?_wordBytes_other w x (by omega), Option.none_or, find?_wordBytes (w + 4) y hk]

/-- Each byte of a word lies in it. -/
theorem map_wordBytes {w : Nat} (h : w % 4 = 0) (x : Nat) : ((wordBytes w x).map fun b => b.1 / 4 * 4) = [w, w, w, w] := by
  simp [wordBytes, List.range_succ]; omega
theorem wordsOf_wordBytes {w : Nat} (h : w % 4 = 0) (x : Nat) : wordsOf (wordBytes w x) = [w] := by
  simp [wordsOf, map_wordBytes h, List.eraseDups_cons]
theorem wordsOf_two {w : Nat} (h : w % 4 = 0) (x y : Nat) : wordsOf (wordBytes w x ++ wordBytes (w + 4) y) = [w, w + 4] := by
  simp [wordsOf, map_wordBytes h, map_wordBytes (show (w + 4) % 4 = 0 by omega), List.eraseDups_cons]

-- ## Where staged words lie

/-- What a staged word of a partition's block is: a 32-bit register, or a word of PRT_PANS, PRT_LPRn or PRT_KV_EXTn. -/
theorem rwsOfPart_cases {p o k : Nat} {r : Rws} (h : rwsOfPart p o = some (r, k)) :
    (k = 0 ∧ r.width = 4) ∨ (o = 0x010 + k ∧ (k = 0 ∨ k = 4) ∧ r = .pans p)
      ∨ (∃ n, n < 4 ∧ o = 0x040 + 8 * n + k ∧ k < 8 ∧ r = .lpr p n)
      ∨ (∃ n, n < 16 ∧ o = 0x240 + 8 * n + k ∧ k < 8 ∧ r = .kvExt p n) := by
  simp only [rwsOfPart, ite_eq_iff, Option.some.injEq, Prod.mk.injEq, reduceCtorEq, and_false, or_false] at h
  obtain ⟨-, rfl, rfl⟩ | ⟨-, ⟨rfl, rfl, rfl⟩ | ⟨-, ⟨rfl, rfl, rfl⟩ | ⟨-, ⟨-, rfl, rfl⟩ | ⟨-, ⟨-, rfl, rfl⟩ | ⟨-, ⟨-, rfl, rfl⟩ |
    ⟨-, ⟨hl, rfl, rfl⟩ | ⟨-, ⟨-, rfl, rfl⟩ | ⟨-, ⟨-, rfl, rfl⟩ | ⟨-, ⟨-, rfl, rfl⟩ | ⟨-, hk, rfl, rfl⟩⟩⟩⟩⟩⟩⟩⟩⟩⟩ := h
  case inr.inl => exact .inr (.inl ⟨rfl, .inl rfl, rfl⟩)
  case inr.inr.inl => exact .inr (.inl ⟨rfl, .inr rfl, rfl⟩)
  case inr.inr.inr.inr.inr.inr.inl => exact .inr (.inr (.inl ⟨_, by omega, by omega, by omega, rfl⟩))
  case inr.inr.inr.inr.inr.inr.inr.inr.inr.inr => exact .inr (.inr (.inr ⟨_, by omega, by omega, by omega, rfl⟩))
  all_goals exact .inl ⟨rfl, rfl⟩

/-- What a staged word is, window by window: a word of a binding, of a race assignment, another 32-bit global register, RACE_CFG of a
slot, or a word of a partition's block. -/
theorem rwsAt_cases {a k : Nat} {r : Rws} (h4 : a % 4 = 0) (h : rwsAt a = some (r, k)) :
    (∃ i, i < 64 ∧ a = 0x400 + 8 * i + k ∧ k < 8 ∧ r = .bind i)
      ∨ (∃ i, i < 4 ∧ a = 0x600 + 16 * i + k ∧ (k = 0 ∨ k = 4) ∧ r = .allow i)
      ∨ (a < 0x10000 ∧ k = 0 ∧ r.width = 4)
      ∨ (∃ i, i < 4 ∧ a = 0x2181C + 0x2000 * i ∧ k = 0 ∧ r = .raceCfg i)
      ∨ 0x100000 ≤ a ∧ a < 0x110000 ∧ rwsOfPart ((a - 0x100000) / 0x1000) (a % 0x1000) = some (r, k) := by
  simp only [rwsAt, show a / 4 * 4 = a by omega, ite_eq_iff, Option.some.injEq, Prod.mk.injEq, reduceCtorEq, and_false, or_false] at h
  obtain ⟨hb, rfl, rfl⟩ | ⟨-, ⟨ha, h⟩ | ⟨-, ⟨rfl, rfl, rfl⟩ | ⟨-, ⟨rfl, rfl, rfl⟩ | ⟨-, ⟨hr, rfl, rfl⟩ | ⟨-, hp, h⟩⟩⟩⟩⟩ := h
  · exact .inl ⟨_, by omega, by omega, by omega, rfl⟩
  · split at h <;> simp only [Option.some.injEq, Prod.mk.injEq, reduceCtorEq] at h <;> obtain ⟨rfl, rfl⟩ := h
    · exact .inr (.inl ⟨_, by omega, by omega, .inl rfl, rfl⟩)
    · exact .inr (.inl ⟨_, by omega, by omega, .inr rfl, rfl⟩)
    · exact .inr (.inr (.inl ⟨by omega, rfl, rfl⟩))
  · exact .inr (.inr (.inl ⟨by omega, rfl, rfl⟩))
  · exact .inr (.inr (.inl ⟨by omega, rfl, rfl⟩))
  · exact .inr (.inr (.inr (.inl ⟨_, by omega, by omega, rfl, rfl⟩)))
  · exact .inr (.inr (.inr (.inr ⟨hp.1, hp.2, h⟩)))

/-- A staged word is the low word of its register, or the high word of a 64-bit one. -/
theorem rwsAt_sub {a k : Nat} {r : Rws} (h4 : a % 4 = 0) (h : rwsAt a = some (r, k)) : k = 0 ∨ k = 4 ∧ r.width = 8 := by
  obtain ⟨i, -, ha, hk, rfl⟩ | ⟨i, -, -, hk, rfl⟩ | ⟨-, hk, -⟩ | ⟨i, -, -, hk, rfl⟩ | ⟨-, -, h⟩ := rwsAt_cases h4 h
  · exact (show k = 0 ∨ k = 4 by omega).imp_right fun h => ⟨h, rfl⟩
  · exact hk.imp_right fun h => ⟨h, rfl⟩
  · exact .inl hk
  · exact .inl hk
  · obtain ⟨hk, -⟩ | ⟨-, hk, rfl⟩ | ⟨n, -, ho, hk, rfl⟩ | ⟨n, -, ho, hk, rfl⟩ := rwsOfPart_cases h
    · exact .inl hk
    · exact hk.imp_right fun h => ⟨h, rfl⟩
    all_goals exact (show k = 0 ∨ k = 4 by omega).imp_right fun h => ⟨h, rfl⟩

theorem rwsAt_bind_high {i : Nat} (hi : i < 64) : rwsAt (0x400 + 8 * i + 4) = some (.bind i, 4) := by
  rw [rwsAt, if_pos (by omega), show ((0x400 + 8 * i + 4) / 4 * 4 - 0x400) / 8 = i by omega,
    show ((0x400 + 8 * i + 4) / 4 * 4 - 0x400) % 8 = 4 by omega]
theorem rwsAt_allow_high {i : Nat} (hi : i < 4) : rwsAt (0x600 + 16 * i + 4) = some (.allow i, 4) := by
  interval_cases i <;> rfl
theorem rwsAt_part {a : Nat} (h4 : a % 4 = 0) (ha : 0x100000 ≤ a ∧ a < 0x110000) :
    rwsAt a = rwsOfPart ((a - 0x100000) / 0x1000) (a % 0x1000) := by
  rw [rwsAt, show a / 4 * 4 = a by omega, if_neg (by omega), if_neg (by omega), if_neg (by omega), if_neg (by omega),
    if_neg (by omega), if_pos ha]

theorem rwsOfPart_lpr_high (p : Nat) {n : Nat} (hn : n < 4) : rwsOfPart p (0x040 + 8 * n + 4) = some (.lpr p n, 4) := by
  interval_cases n <;> rfl
theorem rwsOfPart_kvExt_high (p : Nat) {n : Nat} (hn : n < 16) : rwsOfPart p (0x240 + 8 * n + 4) = some (.kvExt p n, 4) := by
  interval_cases n <;> rfl

/-- After the low word of a 64-bit register lies its high word, in the same window, which is no race window. -/
theorem rwsAt_next {a : Nat} {r : Rws} (h8 : a % 8 = 0) (h : rwsAt a = some (r, 0)) (hw : r.width = 8) :
    rwsAt (a + 4) = some (r, 4) ∧ (a + 4 < 0x10000 ∨ 0x100000 ≤ a ∧ a + 4 < 0x110000) := by
  obtain ⟨i, hi, rfl, -, rfl⟩ | ⟨i, hi, rfl, -, rfl⟩ | ⟨-, -, hr⟩ | ⟨i, -, -, -, rfl⟩ | ⟨ha, ha', h⟩ :=
    rwsAt_cases (by omega) h
  · exact ⟨rwsAt_bind_high hi, .inl (by omega)⟩
  · exact ⟨rwsAt_allow_high hi, .inl (by omega)⟩
  · omega
  · cases hw
  · refine ⟨?_, .inr ⟨ha, by omega⟩⟩
    rw [rwsAt_part (by omega) (by omega), show (a + 4 - 0x100000) / 0x1000 = (a - 0x100000) / 0x1000 by omega,
      show (a + 4) % 0x1000 = a % 0x1000 + 4 by omega]
    obtain ⟨-, hr⟩ | ⟨ho, -, rfl⟩ | ⟨n, hn, ho, -, rfl⟩ | ⟨n, hn, ho, -, rfl⟩ := rwsOfPart_cases h
    · omega
    · rw [ho]; rfl
    · rw [ho]; exact rwsOfPart_lpr_high _ hn
    · rw [ho]; exact rwsOfPart_kvExt_high _ hn

end Sys2Proof.Machine

/-! SUPPORT. Register writes: what a staged word takes, and what a write of the control region does (R5, R6, R247). -/
namespace Sys2Proof.Machine

theorem range_split {i n : Nat} (h : i < n) : List.range n = List.range i ++ i :: List.range' (i + 1) (n - i - 1) := by
  have happ := List.range'_append_1 (s := 0) (m := i) (n := n - i)
  rw [Nat.zero_add, Nat.add_sub_cancel' h.le] at happ
  rw [List.range_eq_range', List.range_eq_range', ← List.range'_succ, show n - i - 1 + 1 = n - i by omega, happ]

/-- A value of a register with the word at byte 0 or 4 replaced. -/
def withWord (old k v : Nat) : Nat := if k = 0 then old / 2 ^ 32 * 2 ^ 32 + v else old % 2 ^ 32 + v * 2 ^ 32

/-- A staged register's shadow takes a word, where the initiator may. -/
def State.stageWhole (s : State) (ini : Ini) (r : Rws) (k v : Nat) : BitVec 4 × State :=
  if s.mayStage ini r then (rOk, { s with shadow := s.shadow.set r (withWord (s.shadow.get r) k v) }) else (rDenied, s)

theorem stageWord_whole {r : Rws} {k : Nat} (hk : k = 0 ∨ k = 4 ∧ r.width = 8) (ini : Ini) (x : Nat) {be : Nat → Bool}
    (hb : ∀ i, i < 4 → be i = true) : stageWord r k ini (x % 2 ^ 32) be = fun s => s.stageWhole ini r k (x % 2 ^ 32) := by
  funext s
  unfold stageWord State.stageWhole
  rcases hk with rfl | ⟨rfl, hw⟩
  · rw [DevCfg.merge_low _ _ _ hb, Nat.mod_mod]; rfl
  · rw [DevCfg.merge_high _ hw _ hb, Nat.mod_mod]; rfl

/-- What a write of race windows does to one slot. -/
def raceSlotWrite (ini : Ini) (bs : List (Nat × Byte)) (x : BitVec 4 × State) (i : Nat) : BitVec 4 × State :=
  let mine := (bs.filter fun b => (b.1 - 0x20000) / 0x2000 = i).map fun b => (b.1 % 0x2000, b.2)
  let input := mine.filter fun b => b.1 < 0x1000
  let bell := mine.filter fun b => 0x1800 ≤ b.1 && b.1 < 0x1808
  let regs := mine.filter fun b => 0x1000 ≤ b.1 && !(0x1800 ≤ b.1 && b.1 < 0x1808)
  let x := if input.isEmpty then x else thenStatus x (raceIn i ini input)
  let x := if bell.isEmpty then x else thenStatus x (raceDoorbell i ini (BitVec.ofNat 64 (wordAt bell 0x1800).1))
  thenStatus x (eachWord regs fun o v be => raceRegWrite i o ini v be)

theorem raceWrite_eq (ini : Ini) (bs : List (Nat × Byte)) (s : State) :
    raceWrite ini bs s = (List.range 4).foldl (raceSlotWrite ini bs) (rOk, s) := rfl

theorem thenStatus_ok (f : State → BitVec 4 × State) (s : State) : thenStatus (rOk, s) f = f s := rfl
/-- A step that answers OK and changes nothing. -/
theorem thenStatus_nop (x : BitVec 4 × State) : thenStatus x (fun s => (rOk, s)) = x := by
  obtain ⟨st, s⟩ := x
  by_cases h : st = rOk <;> simp [thenStatus, h]

/-- A slot that the write does not reach. -/
theorem raceSlotWrite_none {ini : Ini} {bs : List (Nat × Byte)} {i : Nat} (h : ∀ b ∈ bs, (b.1 - 0x20000) / 0x2000 ≠ i)
    (x : BitVec 4 × State) : raceSlotWrite ini bs x i = x := by
  have hn : bs.filter (fun b => (b.1 - 0x20000) / 0x2000 = i) = [] := by simpa using h
  simp only [raceSlotWrite, hn]
  exact thenStatus_nop x

theorem raceSlotWrite_cfg (ini : Ini) (v i : Nat) (x : BitVec 4 × State) :
    raceSlotWrite ini (wordBytes (0x2181C + 0x2000 * i) v) x i
      = thenStatus x (eachWord (wordBytes 0x181C v) fun o v be => raceRegWrite i o ini v be) := by
  have hm : ((wordBytes (0x2181C + 0x2000 * i) v).filter fun b => (b.1 - 0x20000) / 0x2000 = i).map (fun b => (b.1 % 0x2000, b.2))
      = wordBytes 0x181C v := by
    rw [List.filter_eq_self.mpr (by simp [wordBytes]; omega)]
    simp [wordBytes, List.range_succ]; omega
  simp only [raceSlotWrite, hm]
  rfl

/-- A write of RACE_CFG's word of a slot does nothing else. -/
theorem raceWrite_cfg (ini : Ini) (v : Nat) {i : Nat} (hi : i < 4) (s : State) :
    raceWrite ini (wordBytes (0x2181C + 0x2000 * i) v) s
      = eachWord (wordBytes 0x181C v) (fun o v be => raceRegWrite i o ini v be) s := by
  have other (j : Nat) (hj : j ≠ i) (x : BitVec 4 × State) : raceSlotWrite ini (wordBytes (0x2181C + 0x2000 * i) v) x j = x :=
    raceSlotWrite_none (by simp [wordBytes]; omega) x
  have fold (l : List Nat) (hl : ∀ j ∈ l, j ≠ i) (x : BitVec 4 × State) :
      l.foldl (raceSlotWrite ini (wordBytes (0x2181C + 0x2000 * i) v)) x = x :=
    foldl_keeps (· = x) _ l (fun b j hj hb => by rw [other j (hl j hj), hb]) x rfl
  rw [raceWrite_eq, range_split hi, List.foldl_append, fold (List.range i) (by simp; omega), List.foldl_cons,
    fold (List.range' _ _) (by simp; omega),
    raceSlotWrite_cfg]
  rfl

theorem eachWord_wordBytes {w : Nat} (h : w % 4 = 0) (x : Nat) (f : Nat → Nat → (Nat → Bool) → State → BitVec 4 × State)
    (s : State) :
    ∃ be : Nat → Bool, (∀ k, k < 4 → be k = true) ∧ eachWord (wordBytes w x) f s = f w (x % 2 ^ 32) be s := by
  obtain ⟨hv, hb⟩ := givesWord_wordBytes w x
  exact ⟨_, hb, by simp only [eachWord, wordsOf_wordBytes h, List.foldl_cons, List.foldl_nil, hv]; rfl⟩

theorem glbWrite_staged {a k : Nat} {r : Rws} (h : rwsAt a = some (r, k)) (ini : Ini) (v : Nat) (be : Nat → Bool) :
    glbWrite a ini v be = stageWord r k ini v be := by funext s; simp only [glbWrite, h]
theorem prtWrite_staged {p o k : Nat} {r : Rws} (h : rwsOfPart p o = some (r, k)) (ini : Ini) (v : Nat) (be : Nat → Bool) :
    prtWrite p o ini v be = stageWord r k ini v be := by funext s; simp only [prtWrite, h]

theorem raceRegWrite_cfg (i : Nat) (ini : Ini) (v : Nat) (be : Nat → Bool) :
    raceRegWrite i 0x181C ini v be = stageWord (.raceCfg i) 0 ini v be := rfl

/-- A staged word lies in the global region, is RACE_CFG of a slot, or lies in a partition's block. -/
theorem rwsAt_window {a k : Nat} {r : Rws} (h4 : a % 4 = 0) (h : rwsAt a = some (r, k)) :
    a < 0x10000 ∨ (∃ i, i < 4 ∧ a = 0x2181C + 0x2000 * i ∧ k = 0 ∧ r = .raceCfg i)
      ∨ 0x100000 ≤ a ∧ a < 0x110000 ∧ rwsOfPart ((a - 0x100000) / 0x1000) (a % 0x1000) = some (r, k) := by
  obtain ⟨i, hi, ha, hk, -⟩ | ⟨i, hi, ha, hk, -⟩ | ⟨ha, -⟩ | h | h := rwsAt_cases h4 h
  · exact .inl (by omega)
  · exact .inl (by omega)
  · exact .inl ha
  · exact .inr (.inl h)
  · exact .inr (.inr h)

theorem ctlWrite_word {a k : Nat} {r : Rws} (h4 : a % 4 = 0) (h : rwsAt a = some (r, k)) (ini : Ini) (x : Nat) (bell : Bool) (s : State) :
    ctlWrite ini (a / 8 * 8) 8 (wordBytes a x) bell s = s.stageWhole ini r k (x % 2 ^ 32) := by
  have hk := rwsAt_sub h4 h
  obtain ha | ⟨i, hi, rfl, rfl, rfl⟩ | ⟨ha, ha', hp⟩ := rwsAt_window h4 h
  · rw [ctlWrite.eq_def, if_pos (by omega)]
    obtain ⟨be, hb, he⟩ := eachWord_wordBytes h4 x (fun o v be => glbWrite o ini v be) s
    rw [he, glbWrite_staged h, stageWord_whole hk ini x hb]
  · rw [ctlWrite.eq_def, if_neg (by omega), if_neg (by omega), if_pos (by omega), raceWrite_cfg ini x hi]
    obtain ⟨be, hb, he⟩ := eachWord_wordBytes (w := 0x181C) rfl x (fun o v be => raceRegWrite i o ini v be) s
    rw [he, raceRegWrite_cfg, stageWord_whole hk ini x hb]
  · rw [ctlWrite.eq_def, if_neg (by omega), if_neg (by omega), if_neg (by omega), if_neg (by omega), if_neg (by omega), if_pos (by omega)]
    obtain ⟨be, hb, he⟩ := eachWord_wordBytes h4 x (fun o v be => prtWrite ((o - 0x100000) / 0x1000) (o % 0x1000) ini v be) s
    rw [he, prtWrite_staged hp, stageWord_whole hk ini x hb]

theorem eachWord_two {w : Nat} (h : w % 4 = 0) (x y : Nat) (f : Nat → Nat → (Nat → Bool) → State → BitVec 4 × State)
    (s : State) :
    ∃ be be' : Nat → Bool, (∀ k, k < 4 → be k = true) ∧ (∀ k, k < 4 → be' k = true)
      ∧ eachWord (wordBytes w x ++ wordBytes (w + 4) y) f s
        = thenStatus (f w (x % 2 ^ 32) be s) (f (w + 4) (y % 2 ^ 32) be') := by
  obtain ⟨hv, hb⟩ := givesWord_append_left w x (wordBytes (w + 4) y)
  obtain ⟨hv', hb'⟩ := givesWord_append_right w x y
  exact ⟨_, _, hb, hb', by simp only [eachWord, wordsOf_two h, List.foldl_cons, List.foldl_nil, hv, hv']; rfl⟩

theorem ctlWrite_twoWords {a : Nat} {r : Rws} (h8 : a % 8 = 0) (h : rwsAt a = some (r, 0)) (hw : r.width = 8) (ini : Ini) (x y : Nat)
    (bell : Bool) (s : State) : ctlWrite ini a 8 (wordBytes a x ++ wordBytes (a + 4) y) bell s
      = thenStatus (s.stageWhole ini r 0 (x % 2 ^ 32)) (fun t => t.stageWhole ini r 4 (y % 2 ^ 32)) := by
  obtain ⟨hn, ha⟩ := rwsAt_next h8 h hw
  rcases ha with ha | ⟨ha, ha'⟩
  · rw [ctlWrite.eq_def, if_pos (by omega)]
    obtain ⟨be, be', hb, hb', he⟩ := eachWord_two (show a % 4 = 0 by omega) x y (fun o v be => glbWrite o ini v be) s
    rw [he, glbWrite_staged h, glbWrite_staged hn, stageWord_whole (.inl rfl) ini x hb, stageWord_whole (.inr ⟨rfl, hw⟩) ini y hb']
  · rw [rwsAt_part (by omega) (by omega)] at h hn
    rw [ctlWrite.eq_def, if_neg (by omega), if_neg (by omega), if_neg (by omega), if_neg (by omega), if_neg (by omega), if_pos (by omega)]
    obtain ⟨be, be', hb, hb', he⟩ := eachWord_two (show a % 4 = 0 by omega) x y
      (fun o v be => prtWrite ((o - 0x100000) / 0x1000) (o % 0x1000) ini v be) s
    rw [he, prtWrite_staged h, prtWrite_staged hn, stageWord_whole (.inl rfl) ini x hb, stageWord_whole (.inr ⟨rfl, hw⟩) ini y hb']

theorem testBit_words {lo : Nat} (h : lo < 2 ^ 32) (hi i : Nat) :
    (hi * 2 ^ 32 + lo).testBit i = if i < 32 then lo.testBit i else hi.testBit (i - 32) := by
  rw [Nat.mul_comm]; exact Nat.testBit_two_pow_mul_add hi h i

/-- Low word and high word in turn leave the RWS bits of the whole value. -/
theorem withWord_both (old x m : Nat) : withWord (withWord old 0 (x % 2 ^ 32) &&& m) 4 (x / 2 ^ 32) &&& m = x &&& m := by
  have hlow (y : Nat) : y % 2 ^ 32 < 2 ^ 32 := Nat.mod_lt _ (by decide)
  refine Nat.eq_of_testBit_eq fun i => ?_
  simp only [withWord, if_true, OfNat.ofNat_ne_zero, if_false]
  rw [Nat.testBit_and, Nat.testBit_and, Nat.add_comm (_ % _), testBit_words (hlow _)]
  split
  · next hi =>
    rw [Nat.testBit_mod_two_pow, Nat.testBit_and, testBit_words (hlow _), if_pos hi, Nat.testBit_mod_two_pow]
    simp [hi]
  · next hi => rw [Nat.testBit_div_two_pow, Nat.sub_add_cancel (by omega)]

theorem highWord_mod (value : DWord) : (value.toNat >>> 32) % 2 ^ 32 = value.toNat / 2 ^ 32 := by
  rw [Nat.shiftRight_eq_div_pow]; exact Nat.mod_eq_of_lt (by have := value.isLt; omega)

/-- The write of the low word of a slot. -/
theorem ctlWrite_low {o : Nat} (h8 : o % 8 = 0) {reg : Rws} {k : Nat} (ha : rwsAt o = some (reg, k)) (ini : Ini) (value : DWord)
    (bell : Bool) (s : State) :
    ctlWrite ini o 8 (slotBytes8 o value 0x0F) bell s = s.stageWhole ini reg k (value.toNat % 2 ^ 32) := by
  have hv := ctlWrite_word (by omega) ha ini value.toNat bell s
  rwa [show o / 8 * 8 = o by omega, ← slotBytes8_low h8] at hv
/-- The write of the high word of a slot. -/
theorem ctlWrite_high {o : Nat} (h8 : o % 8 = 0) {reg : Rws} {k : Nat} (ha : rwsAt (o + 4) = some (reg, k)) (ini : Ini) (value : DWord)
    (bell : Bool) (s : State) :
    ctlWrite ini o 8 (slotBytes8 o value 0xF0) bell s = s.stageWhole ini reg k (value.toNat / 2 ^ 32) := by
  have hv := ctlWrite_word (by omega) ha ini (value.toNat >>> 32) bell s
  rwa [show (o + 4) / 8 * 8 = o by omega, highWord_mod, ← slotBytes8_high h8] at hv

-- ## The path to a register

/-- Locks that race-class traffic ends change the command table and the refreshes owed alone. -/
theorem State.portPath_frame (s : State) (m : Bool) (a : Nat) : { s.portPath m a with cmds := s.cmds, memSys := s.memSys } = s := by
  unfold State.portPath
  split
  · exact State.lockWhere_frame _ _ _
  · rfl
@[simp] theorem State.portPath_edge (s : State) (m : Bool) (a : Nat) : (s.portPath m a).edge = s.edge :=
  (congrArg State.edge (State.portPath_frame s m a) :)
@[simp] theorem State.portPath_shadow (s : State) (m : Bool) (a : Nat) : (s.portPath m a).shadow = s.shadow :=
  (congrArg State.shadow (State.portPath_frame s m a) :)
@[simp] theorem State.portPath_mayStage (s : State) (m : Bool) (a : Nat) (ini : Ini) (r : Rws) :
    (s.portPath m a).mayStage ini r = s.mayStage ini r := (congrArg (fun t => State.mayStage t ini r) (State.portPath_frame s m a) :)
theorem inRaceWindow_global {o : Nat} (h : o < 0x10000) : inRaceWindow (controlBase + o) = false := by
  unfold inRaceWindow
  generalize controlBase = b
  simp only [Bool.and_eq_false_iff, decide_eq_false_iff_not]; omega
/-- The path to a global register ends no lock. -/
theorem State.portPath_global (s : State) (m : Bool) {o : Nat} (h : o < 0x10000) : s.portPath m (controlBase + o) = s := by
  rw [State.portPath, inRaceWindow_global h, Bool.and_false, if_neg Bool.false_ne_true]

/-- A register write that the port takes and that no lock holds reaches the control region. -/
theorem registerWrite_taken {s : State} {r : Req} (h : Taken s r) (off : BitVec 24) (value : DWord) (be : BitVec 8)
    (hh : s.portHeld r.module1 (controlBase + off.toNat / 8 * 8) = false) :
    exec (.registerWrite r off value be) s =
      (let y := ctlWrite r.ini (off.toNat / 8 * 8) 8 (slotBytes8 (off.toNat / 8 * 8) value be) (be == 0xFF)
          (s.portPath r.module1 (controlBase + off.toNat / 8 * 8))
       .next (y.2.respond r y.1 [])) := by
  obtain ⟨h1, h2, h3, h4⟩ := h
  simp [exec, execRegisterWrite, registerWrite, h1, h2, h4, hh, Nat.not_le.mpr h3]

theorem registerWrite_held {s : State} {r : Req} (h : Taken s r) (off : BitVec 24) (value : DWord) (be : BitVec 8)
    (hh : s.portHeld r.module1 (controlBase + off.toNat / 8 * 8) = true) : exec (.registerWrite r off value be) s = .next s := by
  obtain ⟨h1, h2, h3, h4⟩ := h
  simp [exec, execRegisterWrite, registerWrite, h1, h2, hh, Nat.not_le.mpr h3]

theorem State.stageWhole_allowed {s : State} {ini : Ini} {r : Rws} (h : s.mayStage ini r = true) (k v : Nat) :
    s.stageWhole ini r k v = (rOk, { s with shadow := s.shadow.set r (withWord (s.shadow.get r) k v) }) := if_pos h
theorem State.stageWhole_denied {s : State} {ini : Ini} {r : Rws} (h : s.mayStage ini r = false) (k v : Nat) :
    s.stageWhole ini r k v = (rDenied, s) := if_neg (by simp [h])

@[simp] theorem State.withShadow_mayStage (s : State) (d : DevCfg) (ini : Ini) (r : Rws) :
    ({ s with shadow := d } : State).mayStage ini r = s.mayStage ini r := rfl
/-- An answer after a shadow has changed differs from the answer without that in the shadows alone. -/
theorem State.respond_shadow_frame (s : State) (d : DevCfg) (r : Req) (st : BitVec 4) (l : List Byte) :
    { ({ s with shadow := d } : State).respond r st l with shadow := s.shadow } = s.respond r st l := rfl

/-- The write of one word of a staged register. -/
theorem registerWrite_word {s : State} {r : Req} (h : Taken s r) (off : BitVec 24) (value : DWord)
    (hh : s.portHeld r.module1 (controlBase + off.toNat / 8 * 8) = false) (high : Bool) {reg : Rws} {k : Nat}
    (ha : rwsAt (off.toNat / 8 * 8 + if high then 4 else 0) = some (reg, k)) :
    exec (.registerWrite r off value (if high then 0xF0 else 0x0F)) s =
      (let y := (s.portPath r.module1 (controlBase + off.toNat / 8 * 8)).stageWhole r.ini reg k
          (if high then value.toNat / 2 ^ 32 else value.toNat % 2 ^ 32)
       .next (y.2.respond r y.1 [])) := by
  rw [registerWrite_taken h off value _ hh]
  cases high with
  | false => simp only [Bool.false_eq_true, if_false, Nat.add_zero] at ha ⊢; rw [ctlWrite_low (by omega) ha]
  | true => simp only [if_true] at ha ⊢; rw [ctlWrite_high (by omega) ha]

/-- The write of both words of a 64-bit register by one who may. -/
theorem ctlWrite_whole {o : Nat} (h8 : o % 8 = 0) {reg : Rws} (ha : rwsAt o = some (reg, 0)) (hw : reg.width = 8) {ini : Ini}
    {s : State} (hm : s.mayStage ini reg = true) (value : DWord) (bell : Bool) :
    ∃ D : DevCfg, ctlWrite ini o 8 (slotBytes8 o value 0xFF) bell s = (rOk, { s with shadow := D })
      ∧ D.get reg = value.toNat &&& reg.mask ∧ ∀ y, y ≠ reg → D.get y = s.shadow.get y := by
  have hc := ctlWrite_twoWords h8 ha hw ini value.toNat (value.toNat >>> 32) bell s
  rw [highWord_mod, ← slotBytes8_whole h8, State.stageWhole_allowed hm, thenStatus_ok, State.stageWhole_allowed (by exact hm)] at hc
  refine ⟨_, hc, ?_, fun y hy => ?_⟩
  · rw [DevCfg.get_set_same, DevCfg.get_set_same, withWord_both]
  · rw [DevCfg.get_set_other _ _ hy, DevCfg.get_set_other _ _ hy]

/-- GLB_VERSION is read-only. -/
theorem ctlWrite_version (ini : Ini) (value : DWord) (bell : Bool) (s : State) :
    ctlWrite ini 0 8 (slotBytes8 0 value 0x0F) bell s = (rOk, s) := by
  obtain ⟨be, -, he⟩ := eachWord_wordBytes (w := 0) rfl value.toNat (fun o v be => glbWrite o ini v be) s
  rw [slotBytes8_low rfl, ctlWrite.eq_def, if_pos (by decide), he]
  rfl

/-- The write-one bits of GLB_EDGE_STATUS. -/
theorem ctlWrite_edgeStatus (ini : Ini) (value : DWord) (bell : Bool) (s : State) :
    ctlWrite ini 0x10 8 (slotBytes8 0x10 value 0xF0) bell s = (rOk, { s with edge := { s.edge with
      regAlertSeen := s.edge.regAlertSeen && !bitAt value.toNat 40
      thermTrip := s.edge.thermTrip && !bitAt value.toNat 41
      thermShutdown := s.edge.thermShutdown && !bitAt value.toNat 42 } }) := by
  obtain ⟨be, hb, he⟩ := eachWord_wordBytes (w := 0x14) rfl (value.toNat >>> 32) (fun o v be => glbWrite o ini v be) s
  have hbit (i : Nat) (hi : i < 32) : ones ((value.toNat >>> 32) % 2 ^ 32) be i = bitAt value.toNat (32 + i) := by
    rw [ones, bitAt, bitAt, Nat.testBit_mod_two_pow, Nat.testBit_shiftRight, hb (i / 8) (by omega)]
    simp [hi]
  rw [slotBytes8_high rfl, ctlWrite.eq_def, if_pos (by decide), he, ← hbit 8 (by decide), ← hbit 9 (by decide), ← hbit 10 (by decide)]
  rfl

/-- Settles O26: a held write is left, and one that comes through does to the control region what its words do: a staged word's shadow takes
it or refuses it, both words of a 64-bit register in turn, and GLB_VERSION and GLB_EDGE_STATUS as they are defined. -/
theorem registerWritesStageRefuseAndClear : Obligations.RegisterWritesStageRefuseAndClear := by
  unfold Obligations.RegisterWritesStageRefuseAndClear
  intro s r off value h o x w
  have hmay (reg : Rws) : w.mayStage r.ini reg = s.mayStage r.ini reg := State.portPath_mayStage ..
  have hsh : s.shadow = w.shadow := (State.portPath_shadow ..).symm
  have h8 : o % 8 = 0 := Nat.mul_mod_left _ _
  refine ⟨fun hh be => registerWrite_held h off value be hh, fun hh =>
    ⟨fun high reg k ha => ?_, fun reg ha hw hm => ?_, fun ho => ?_, fun ho => ?_⟩⟩
  · have he := registerWrite_word h off value hh high ha
    refine ⟨fun hm => ?_, fun hm => ?_⟩
    · rw [State.stageWhole_allowed ((hmay reg).trans hm)] at he
      refine ⟨_, he, ?_, ?_, fun y hy => ?_⟩
      · rw [hsh]; exact State.respond_shadow_frame ..
      · rw [hsh]; exact DevCfg.get_set_same ..
      · rw [hsh]; exact DevCfg.get_set_other _ _ hy
    · rwa [State.stageWhole_denied ((hmay reg).trans hm)] at he
  · obtain ⟨D, hD, hreg, hother⟩ := ctlWrite_whole h8 ha hw ((hmay reg).trans hm) value true
    have he := registerWrite_taken h off value 0xFF hh
    rw [show ((0xFF : BitVec 8) == 0xFF) = true from rfl, hD] at he
    refine ⟨_, he, ?_, hreg, fun y hy => ?_⟩
    · rw [hsh]; exact State.respond_shadow_frame ..
    · rw [hsh]; exact hother y hy
  · have he := registerWrite_taken h off value 0x0F hh
    rw [show off.toNat / 8 * 8 = 0 from ho, State.portPath_global s _ (by decide), ctlWrite_version] at he
    exact he
  · have he := registerWrite_taken h off value 0xF0 hh
    rw [show off.toNat / 8 * 8 = 0x10 from ho, State.portPath_global s _ (by decide), ctlWrite_edgeStatus] at he
    exact he

end Sys2Proof.Machine

/-! SUPPORT. STAGE and DISCARD (R217, R220, R247). -/
namespace Sys2Proof.Machine

-- ## Commands that start

/-- The command that a change of its record leaves. -/
theorem State.cmd?_modCmd (s : State) (seq : DWord) (f : Cmd → Cmd) (hf : ∀ d, (f d).seq = d.seq) :
    (s.modCmd seq f).cmd? seq = (s.cmd? seq).map f := by
  have hp : ((fun d : Cmd => decide (d.seq = seq)) ∘ fun d => if d.seq = seq then f d else d) = fun d => decide (d.seq = seq) := by
    funext d
    by_cases hd : d.seq = seq <;> simp [hd, hf]
  simp only [State.cmd?, State.modCmd, List.find?_map, hp]
  cases hd : s.cmds.find? fun d => d.seq = seq with
  | none => rfl
  | some d => simp [show d.seq = seq by simpa using List.find?_some hd]

/-- A started command, as the table of commands holds it. -/
theorem State.cmd?_beginCmd {s : State} {c : Cmd} (h : s.cmd? c.seq = some c) : (s.beginCmd c).cmd? c.seq = some c.begun := by
  unfold State.beginCmd
  rw [State.cmd?_modCmd]
  · rw [show (s.tallyMod c.seq _).cmd? c.seq = s.cmd? c.seq from rfl, h]; rfl
  · exact fun _ => rfl

/-- A command row acts on the started command. -/
theorem startRow_begun {s : State} {c : Cmd} {op : Nat} (h : Starts s c op) {sel : Nat → Bool} (hs : sel (c.f 8 1) = true)
    (act : Cmd → State → State) : startRow op sel act c.seq s = (act c.begun (s.beginCmd c)).settled := by
  rw [startRow_starts h hs, State.cmd?_beginCmd h.1]

/-- Checks none of which fails let the command act. -/
theorem checked_passes {l : List (Bool × Byte)} (h : ∀ x ∈ l, x.1 = false) (act : State → State) (c : Cmd) (s : State) :
    checked l act c s = act s := by
  have hn : l.find? (·.1) = none := List.find?_eq_none.mpr fun x hx => by simp [h x hx]
  simp [checked, firstFail, hn]

-- ## The entries of a STAGE (R220)

/-- The entry names a register, by the offset of its low word. -/
def EntryNames (e : List Byte) (r : Rws) : Prop := leAt e 0 1 = 0 ∧ leAt e 4 4 % 4 = 0 ∧ rwsAt (leAt e 4 4) = some (r, 0)
/-- The entry names a field of a queue's context. -/
def EntryField (e : List Byte) (q f : Nat) : Prop := leAt e 0 1 = 1 ∧ leAt e 2 2 = q ∧ leAt e 1 1 = f ∧ f ≤ 4
/-- The entry names something that the command has a right to stage. -/
def State.EntryAllowed (s : State) (c : Cmd) (e : List Byte) : Prop :=
  (∃ r, EntryNames e r ∧ (s.isOperator c.ini = true ∨ s.rwsPart r = some c.part))
    ∨ ∃ q f, EntryField e q f ∧ q < 4096 ∧ (s.isOperator c.ini = true ∨ s.queueOwner q = some c.part)
/-- The status that an entry fails with. -/
def entryStatus (e : List Byte) : Byte :=
  if leAt e 0 1 = 0 ∨ (leAt e 0 1 = 1 ∧ leAt e 1 1 ≤ 4) then stDenied else stBadHandle

/-- What an entry that names something leaves of the shadows. -/
def stageOne (d : DevCfg) (e : List Byte) : DevCfg :=
  if leAt e 0 1 = 0 then
    match rwsAt (leAt e 4 4) with
    | some (r, _) => d.set r (leAt e 8 8)
    | none => d
  else d.setCtx (leAt e 2 2) ((d.ctx (leAt e 2 2)).stage (leAt e 1 1) (leAt e 8 8))

theorem stageOne_names {e : List Byte} {r : Rws} (h : EntryNames e r) (d : DevCfg) : stageOne d e = d.set r (leAt e 8 8) := by
  obtain ⟨h0, -, hr⟩ := h
  simp only [stageOne, h0, if_true, hr]
theorem stageOne_field {e : List Byte} {q f : Nat} (h : EntryField e q f) (d : DevCfg) :
    stageOne d e = d.setCtx q ((d.ctx q).stage f (leAt e 8 8)) := by
  obtain ⟨h0, rfl, rfl, -⟩ := h
  simp only [stageOne, h0, one_ne_zero, if_false]

theorem DevCfg.set_low (d : DevCfg) (r : Rws) (v : Nat) : d.set r (if r.width = 4 then v % 2 ^ 32 else v) = d.set r v := by
  split
  · next hw => rw [← d.set_mod r v, hw]
  · rfl

/-- An entry that is allowed stages what it names. -/
theorem State.stageEntry_allowed {s : State} {c : Cmd} {e : List Byte} (h : s.EntryAllowed c e) :
    ∃ f, s.stageEntry c e = .ok f ∧ ∀ d, f d = stageOne d e := by
  obtain ⟨r, hn, hr⟩ | ⟨q, f, hf, hq, hr⟩ := h
  · refine ⟨_, ?_, fun d => ((d.set_low r _).trans (stageOne_names hn d).symm)⟩
    obtain ⟨h0, h4, ha⟩ := hn
    have hr' : (s.isOperator c.ini || s.rwsPart r == some c.part) = true := by simpa using hr
    simp only [State.stageEntry, h0, ha, h4, hr', decide_true, Bool.and_true, if_true]
  · refine ⟨_, ?_, fun d => (stageOne_field hf d).symm⟩
    obtain ⟨h0, rfl, rfl, h4⟩ := hf
    have hr' : (s.isOperator c.ini || s.queueOwner (leAt e 2 2) == some c.part) = true := by simpa using hr
    simp only [State.stageEntry, h0, hr', Nat.not_lt.mpr h4, Nat.not_le.mpr hq, decide_false, Bool.not_true, Bool.or_self,
      if_false, Bool.false_eq_true]

/-- An entry that is not allowed fails with its status. -/
theorem State.stageEntry_refused {s : State} {c : Cmd} {e : List Byte} (h : ¬ s.EntryAllowed c e) :
    s.stageEntry c e = .error (entryStatus e) := by
  unfold State.stageEntry
  split
  · next h0 =>
    have hst : entryStatus e = stDenied := if_pos (.inl h0)
    rw [hst]
    split
    · next r hr =>
      refine if_neg fun hc => h (.inl ⟨r, ?_⟩)
      simp only [Bool.and_eq_true, decide_eq_true_eq, Bool.or_eq_true, beq_iff_eq] at hc
      exact ⟨⟨h0, hc.1, hr⟩, hc.2⟩
    · rfl
  · next h1 =>
    by_cases hf : 4 < leAt e 1 1
    · have hst : entryStatus e = stBadHandle := if_neg (by omega)
      rw [hst]
      exact if_pos hf
    · have hst : entryStatus e = stDenied := if_pos (by omega)
      rw [hst]
      refine (if_neg hf).trans (if_pos (by_contra fun hc => h (.inr ⟨_, _, ⟨h1, rfl, rfl, Nat.not_lt.mp hf⟩, ?_⟩)))
      simpa only [Bool.or_eq_true, not_or, decide_eq_true_eq, Nat.not_le, Bool.not_eq_true', Bool.not_eq_false, beq_iff_eq] using hc
  · next h0 h1 =>
    have hst : entryStatus e = stBadHandle := if_neg fun h => h.elim h0 fun h => h1 h.1
    rw [hst]

-- ## The entries in order

/-- Entries that are all allowed stage what they name, one after another. -/
theorem State.stageAll_allowed {s : State} {c : Cmd} {l : List (List Byte)} (h : ∀ e ∈ l, s.EntryAllowed c e) (d : DevCfg) :
    s.stageAll c d l = .ok (l.foldl stageOne d) := by
  induction l generalizing d with
  | nil => rfl
  | cons e l ih =>
    obtain ⟨f, hf, hd⟩ := State.stageEntry_allowed (h e List.mem_cons_self)
    rw [State.stageAll, hf, List.foldl_cons, ← hd]
    exact ih (fun x hx => h x (List.mem_cons_of_mem _ hx)) _

/-- The first entry that is not allowed sets the status. -/
theorem State.stageAll_refused {s : State} {c : Cmd} {l m : List (List Byte)} {e : List Byte} (h : ∀ x ∈ l, s.EntryAllowed c x)
    (he : ¬ s.EntryAllowed c e) (d : DevCfg) : s.stageAll c d (l ++ e :: m) = .error (entryStatus e) := by
  induction l generalizing d with
  | nil => rw [List.nil_append, State.stageAll, State.stageEntry_refused he]
  | cons x l ih =>
    obtain ⟨f, hf, -⟩ := State.stageEntry_allowed (h x List.mem_cons_self)
    rw [List.cons_append, State.stageAll, hf]
    exact ih (fun y hy => h y (List.mem_cons_of_mem _ hy)) _

-- ## What an entry leaves

theorem CtxCfg.stage_same (c : CtxCfg) (f v : Nat) : (c.stage f v).stage f v = c.stage f v := by
  match f with
  | 0 | 1 | 2 | 3 | _ + 4 => rfl
theorem CtxCfg.stage_comm (c : CtxCfg) {f g : Nat} (hf : f ≤ 4) (hg : g ≤ 4) (h : f ≠ g) (v w : Nat) :
    (c.stage g w).stage f v = (c.stage f v).stage g w := by
  interval_cases f <;> interval_cases g <;> simp [CtxCfg.stage] at h ⊢

theorem stageOne_get {s : State} {c : Cmd} {e : List Byte} {r : Rws} (ha : s.EntryAllowed c e) (h : ¬ EntryNames e r) (d : DevCfg) :
    (stageOne d e).get r = d.get r := by
  obtain ⟨y, hn, -⟩ | ⟨q, f, hf, -⟩ := ha
  · rw [stageOne_names hn, DevCfg.get_set_other]
    rintro rfl; exact h hn
  · rw [stageOne_field hf, DevCfg.get_setCtx]

theorem stageOne_ctx {s : State} {c : Cmd} {e : List Byte} {q : Nat} (ha : s.EntryAllowed c e) (h : ∀ f, ¬ EntryField e q f) (d : DevCfg) :
    (stageOne d e).ctx q = d.ctx q := by
  obtain ⟨y, hn, -⟩ | ⟨j, f, hf, -⟩ := ha
  · rw [stageOne_names hn, DevCfg.ctx_set]
  · rw [stageOne_field hf, DevCfg.ctx_setCtx, if_neg]
    rintro rfl; exact h f hf

/-- A field that holds a value goes on holding it under an entry that names another field. -/
theorem stageOne_holds {s : State} {c : Cmd} {e : List Byte} {q f v : Nat} (ha : s.EntryAllowed c e) (h : ¬ EntryField e q f) (h4 : f ≤ 4)
    {d : DevCfg} (hd : (d.ctx q).stage f v = d.ctx q) : ((stageOne d e).ctx q).stage f v = (stageOne d e).ctx q := by
  obtain ⟨y, hn, -⟩ | ⟨j, g, hg, -⟩ := ha
  · rw [stageOne_names hn, DevCfg.ctx_set, hd]
  · rw [stageOne_field hg, DevCfg.ctx_setCtx]
    split
    · next hq =>
      subst hq
      have hfg : f ≠ g := by rintro rfl; exact h hg
      rw [CtxCfg.stage_comm _ h4 hg.2.2.2 hfg, hd]
    · exact hd

theorem stageAll_range_refused {s : State} {c : Cmd} {e : Nat → List Byte} {i k : Nat} (hi : i < k)
    (h : ∀ j, j < i → s.EntryAllowed c (e j)) (he : ¬ s.EntryAllowed c (e i)) (d : DevCfg) :
    s.stageAll c d ((List.range k).map e) = .error (entryStatus (e i)) := by
  rw [range_split hi, List.map_append, List.map_cons]
  exact State.stageAll_refused (by simpa using h) he d

section
variable {s : State} {c : Cmd} {e : Nat → List Byte} {k : Nat} (ha : ∀ i, i < k → s.EntryAllowed c (e i)) (d : DevCfg)
include ha

/-- What the entries behind one of them keep, the shadows keep from it on. -/
theorem staged_after {i : Nat} (hi : i < k) (P : DevCfg → Prop)
    (hP : ∀ j, i < j → j < k → s.EntryAllowed c (e j) → ∀ d, P d → P (stageOne d (e j)))
    (h0 : ∀ d, P (stageOne d (e i))) : P (((List.range k).map e).foldl stageOne d) := by
  rw [range_split hi, List.map_append, List.map_cons, List.foldl_append, List.foldl_cons]
  refine foldl_keeps P _ _ (fun b x hx hb => ?_) _ (h0 _)
  obtain ⟨j, hj, rfl⟩ := List.mem_map.mp hx
  rw [List.mem_range'_1] at hj
  exact hP j (by omega) (by omega) (ha j (by omega)) b hb

/-- What every entry keeps, the shadows keep. -/
theorem staged_all (P : DevCfg → Prop) (hP : ∀ j, j < k → s.EntryAllowed c (e j) → ∀ d, P d → P (stageOne d (e j))) (h0 : P d) :
    P (((List.range k).map e).foldl stageOne d) := by
  refine foldl_keeps P _ _ (fun b x hx hb => ?_) _ h0
  obtain ⟨j, hj, rfl⟩ := List.mem_map.mp hx
  exact hP j (List.mem_range.mp hj) (ha j (List.mem_range.mp hj)) b hb

/-- A register holds the value of the last entry that names it. -/
theorem staged_get_last {i : Nat} {r : Rws} (hi : i < k) (hn : EntryNames (e i) r) (hl : ∀ j, i < j → j < k → ¬ EntryNames (e j) r) :
    (((List.range k).map e).foldl stageOne d).get r = leAt (e i) 8 8 &&& r.mask :=
  staged_after ha d hi (fun d => d.get r = leAt (e i) 8 8 &&& r.mask)
    (fun j hij hjk hj b hb => (stageOne_get hj (hl j hij hjk) b).trans hb)
    (fun d => by rw [stageOne_names hn, DevCfg.get_set_same])

/-- A context field holds the value of the last entry that names it. -/
theorem staged_ctx_last {i q f : Nat} (hi : i < k) (hn : EntryField (e i) q f) (hl : ∀ j, i < j → j < k → ¬ EntryField (e j) q f) :
    ((((List.range k).map e).foldl stageOne d).ctx q).stage f (leAt (e i) 8 8) = (((List.range k).map e).foldl stageOne d).ctx q :=
  staged_after ha d hi (fun d => (d.ctx q).stage f (leAt (e i) 8 8) = d.ctx q)
    (fun j hij hjk hj _ hb => stageOne_holds hj (hl j hij hjk) hn.2.2.2 hb)
    (fun d => by rw [stageOne_field hn, DevCfg.ctx_setCtx, if_pos rfl, CtxCfg.stage_same])

theorem staged_get_unnamed {r : Rws} (h : ∀ i, i < k → ¬ EntryNames (e i) r) :
    (((List.range k).map e).foldl stageOne d).get r = d.get r :=
  staged_all ha d (fun b => b.get r = d.get r) (fun j hj ha b hb => (stageOne_get ha (h j hj) b).trans hb) rfl
theorem staged_ctx_unnamed {q : Nat} (h : ∀ i f, i < k → ¬ EntryField (e i) q f) :
    (((List.range k).map e).foldl stageOne d).ctx q = d.ctx q :=
  staged_all ha d (fun b => b.ctx q = d.ctx q) (fun j hj ha b hb => (stageOne_ctx ha (fun f => h j f hj) b).trans hb) rfl

/-- Entries that are all allowed leave shadows in which each register and field holds what was last staged, and nothing else changed. -/
theorem stageAll_stages : ∃ D : DevCfg, s.stageAll c d ((List.range k).map e) = .ok D
    ∧ (∀ i r, i < k → EntryNames (e i) r → (∀ j, i < j → j < k → ¬ EntryNames (e j) r) → D.get r = leAt (e i) 8 8 &&& r.mask)
    ∧ (∀ i q f, i < k → EntryField (e i) q f → (∀ j, i < j → j < k → ¬ EntryField (e j) q f) →
      (D.ctx q).stage f (leAt (e i) 8 8) = D.ctx q)
    ∧ (∀ r, (∀ i, i < k → ¬ EntryNames (e i) r) → D.get r = d.get r)
    ∧ ∀ q, (∀ i f, i < k → ¬ EntryField (e i) q f) → D.ctx q = d.ctx q :=
  ⟨_, State.stageAll_allowed (by simpa using ha) d, fun _ _ hi hn hl => staged_get_last ha d hi hn hl,
    fun _ _ _ hi hn hl => staged_ctx_last ha d hi hn hl, fun _ hr => staged_get_unnamed ha d hr, fun _ hq => staged_ctx_unnamed ha d hq⟩

end

-- ## STAGE (R217, R220)

/-- The number of entries that a STAGE reads. -/
def stageCount (c : Cmd) (s : State) : Nat := min 256 (s.readN (c.addr 16) 4)
/-- The state once the number of entries has been clamped. -/
def stageClamped (c : Cmd) (s : State) : State := s.clampCmd c.seq (if s.readN (c.addr 16) 4 = stageCount c s then 0 else cLength)
/-- The state once the entries have been read: a payload longer than them is counted. -/
def stageRead (c : Cmd) (s : State) : State :=
  if 16 + 16 * stageCount c s < c.f 24 8 then (stageClamped c s).countTrunc else stageClamped c s
theorem stageRead_shadow (c : Cmd) (s : State) : (stageRead c s).shadow = s.shadow := by unfold stageRead; split <;> rfl
/-- A shadow put back. -/
theorem State.withShadow_undo {s : State} {d₀ : DevCfg} (h : s.shadow = d₀) (d : DevCfg) :
    { ({ s with shadow := d } : State) with shadow := d₀ } = s := by subst h; rfl
/-- An entry of a STAGE. -/
def stageBytes (c : Cmd) (s : State) (i : Nat) : List Byte := s.read (c.addr 16 + 16 + 16 * i) 16

section
variable {s : State} {c : Cmd} (hr : s.noRead c.part (c.addr 16) (c.f 24 8) = false) (hf : s.fencedAt (c.addr 16) (c.f 24 8) = false)
include hr hf

/-- A payload without a header is short. -/
theorem stageAct_noHeader (h : c.f 24 8 < 16) : stageAct c s = s.countShort.complete c.seq stShort := by
  rw [stageAct, checked_passes (by simp [hr, hf]), if_pos h]

theorem stageAct_markedHeader (h : 16 ≤ c.f 24 8) (hm : s.marked (c.addr 16) 16 = true) :
    stageAct c s = s.countShort.complete c.seq stPoison := by
  rw [stageAct, checked_passes (by simp [hr, hf]), if_neg (Nat.not_lt.mpr h), if_pos hm]

variable (h : 16 ≤ c.f 24 8) (hm : s.marked (c.addr 16) 16 = false)
include h hm

/-- A payload shorter than its entries. -/
theorem stageAct_short (hn : c.f 24 8 < 16 + 16 * stageCount c s) :
    stageAct c s = (stageClamped c s).countShort.complete c.seq stShort := by
  rw [stageAct, checked_passes (by simp [hr, hf]), if_neg (Nat.not_lt.mpr h), if_neg (by simp [hm])]
  exact if_pos hn

variable (hn : 16 + 16 * stageCount c s ≤ c.f 24 8)
include hn

theorem stageAct_marked (hp : s.marked (c.addr 16) (16 + 16 * stageCount c s) = true) :
    stageAct c s = (stageClamped c s).countShort.complete c.seq stPoison := by
  rw [stageAct, checked_passes (by simp [hr, hf]), if_neg (Nat.not_lt.mpr h), if_neg (by simp [hm])]
  exact (if_neg (Nat.not_lt.mpr hn)).trans (if_pos hp)

variable (hp : s.marked (c.addr 16) (16 + 16 * stageCount c s) = false)
include hp

/-- An entry that fails ends the command with its status. -/
theorem stageAct_refused {st : Byte}
    (ha : (stageClamped c s).stageAll c s.shadow ((List.range (stageCount c s)).map (stageBytes c s)) = .error st) :
    stageAct c s = (stageClamped c s).complete c.seq st := by
  rw [stageAct, checked_passes (by simp [hr, hf]), if_neg (Nat.not_lt.mpr h), if_neg (by simp [hm])]
  refine (if_neg (Nat.not_lt.mpr hn)).trans ((if_neg (by exact Bool.eq_false_iff.mp hp)).trans ?_)
  split
  · next he => obtain rfl := Except.error.inj (he.symm.trans ha); rfl
  · next he => cases he.symm.trans ha

/-- Entries that all pass are staged together. -/
theorem stageAct_staged {D : DevCfg}
    (ha : (stageClamped c s).stageAll c s.shadow ((List.range (stageCount c s)).map (stageBytes c s)) = .ok D) :
    stageAct c s = ({ stageRead c s with shadow := D } : State).complete c.seq
      (if 16 + 16 * stageCount c s < c.f 24 8 then stTrunc else stOk) := by
  rw [stageAct, checked_passes (by simp [hr, hf]), if_neg (Nat.not_lt.mpr h), if_neg (by simp [hm])]
  refine (if_neg (Nat.not_lt.mpr hn)).trans ((if_neg (by exact Bool.eq_false_iff.mp hp)).trans ?_)
  split
  · next he => cases he.symm.trans ha
  · next he => obtain rfl := Except.ok.inj (he.symm.trans ha); rfl

end

/-- A STAGE that ends with a status. -/
theorem exec_stage {s X : State} {c : Cmd} {st : Byte} (h : Starts s c 12) (ha : stageAct c.begun (s.beginCmd c) = X.complete c.seq st) :
    exec (.stage c.seq) s = .next (X.ends c.seq st) := by
  show Host.Outcome.next _ = _
  rw [startRow_begun h rfl, ha]
  rfl

-- ## DISCARD (R247)

theorem exec_glbCommitDiscard {s : State} {r : Req} (h : Served s r) : exec (.glbCommitDiscard r) s =
    .next ((glbCommit r.ini false true s).2.respond r (glbCommit r.ini false true s).1 []) :=
  congrArg Host.Outcome.next (State.serve_served h _ _)
theorem exec_prtCommitDiscard {s : State} {r : Req} (h : Served s r) (p : BitVec 4) : exec (.prtCommitDiscard r p) s =
    .next ((prtCommit p.toNat r.ini false true s).2.respond r (prtCommit p.toNat r.ini false true s).1 []) :=
  congrArg Host.Outcome.next (State.serve_served h _ _)

/-- A fold that changes shadows alone, by committed values. -/
theorem foldl_shadow {α : Type} (g : DevCfg → DevCfg → α → DevCfg) (l : List α) (s : State) :
    l.foldl (fun s a => { s with shadow := g s.cfg s.shadow a }) s = { s with shadow := l.foldl (g s.cfg) s.shadow } := by
  induction l generalizing s with
  | nil => rfl
  | cons a l ih => rw [List.foldl_cons, ih]; rfl

/-- RACE_CFG's shadow of a slot, as committed. -/
def reloadSlot (c d : DevCfg) (i : Nat) : DevCfg := d.set (.raceCfg i) (c.get (.raceCfg i))
/-- A context's shadow, as committed. -/
def reloadCtx (c d : DevCfg) (q : Nat) : DevCfg := d.setCtx q (c.ctx q)
/-- The shadows of the partition-scope registers of a partition's block, as committed. -/
def reloadPart (c d : DevCfg) (p : Nat) : DevCfg :=
  d.setPart p { d.part p with kvCfg := (c.part p).kvCfg, kvExt := (c.part p).kvExt, pwr := (c.part p).pwr }

/-- A register of the block of a partition that is in the partition's scope. -/
def Rws.InBlock (y : Rws) (p : Nat) : Prop := y = .kvCfg p ∨ y = .pwr p ∨ ∃ n, y = .kvExt p n

/-- The scope of a partition: registers of its block, and RACE_CFG of the slots it claims (R247). -/
theorem State.rwsPart_eq_some {s : State} {y : Rws} {p : Nat} :
    s.rwsPart y = some p ↔ y.InBlock p ∨ ∃ i, y = .raceCfg i ∧ s.slotClaim i = some p := by
  cases y <;> simp [State.rwsPart, Rws.InBlock]

theorem get_reloadPart_own (c d : DevCfg) {p : Nat} {y : Rws} (h : y.InBlock p) : (reloadPart c d p).get y = c.get y := by
  obtain rfl | rfl | ⟨n, rfl⟩ := h <;> simp [reloadPart, DevCfg.get]
theorem get_reloadPart_other (c d : DevCfg) {p : Nat} {y : Rws} (h : ¬ y.InBlock p) : (reloadPart c d p).get y = d.get y := by
  cases y with
  | bind | allow | racePan | raceCfg | pwrCfg | opCeil => rfl
  | pdef | pans | queues | race | vshare | lpr | det | pwr | kvCfg | kvExt =>
    simp only [reloadPart, DevCfg.get, DevCfg.part_setPart]
    split <;> simp_all [Rws.InBlock]

theorem get_reloadSlots (c d : DevCfg) (l : List Nat) (i : Nat) : (l.foldl (reloadSlot c) d).get (.raceCfg i) =
    if i ∈ l then c.get (.raceCfg i) &&& (Rws.raceCfg i).mask else d.get (.raceCfg i) := by
  induction l generalizing d with
  | nil => rfl
  | cons j l ih =>
    rw [List.foldl_cons, ih, reloadSlot]
    by_cases hj : i = j
    · subst hj; simp
    · rw [DevCfg.get_set_other _ _ (by simp [hj])]; simp [hj]
theorem get_reloadSlots_other (c d : DevCfg) (l : List Nat) {y : Rws} (h : ∀ i, y ≠ .raceCfg i) :
    (l.foldl (reloadSlot c) d).get y = d.get y :=
  foldl_keeps (fun b => b.get y = d.get y) _ l (fun b i _ hb => (b.get_set_other _ (h i)).trans hb) d rfl
theorem ctx_reloadSlots (c d : DevCfg) (l : List Nat) (q : Nat) : (l.foldl (reloadSlot c) d).ctx q = d.ctx q :=
  foldl_keeps (fun b => b.ctx q = d.ctx q) _ l (fun b _ _ hb => (b.ctx_set _ _ q).trans hb) d rfl

theorem get_reloadCtxs (c d : DevCfg) (l : List Nat) (y : Rws) : (l.foldl (reloadCtx c) d).get y = d.get y :=
  foldl_keeps (fun b => b.get y = d.get y) _ l (fun b q _ hb => (b.get_setCtx q _ y).trans hb) d rfl
theorem ctx_reloadCtxs (c d : DevCfg) (l : List Nat) (q : Nat) : (l.foldl (reloadCtx c) d).ctx q = if q ∈ l then c.ctx q else d.ctx q := by
  induction l generalizing d with
  | nil => rfl
  | cons j l ih =>
    rw [List.foldl_cons, ih, reloadCtx, DevCfg.ctx_setCtx]
    by_cases hj : q = j
    · subst hj; simp
    · simp [hj]

/-- The queues of a partition that any record names, as `mapQueues` visits them. -/
def State.namedQueues (s : State) (p : Nat) : List Nat :=
  (((s.ctxs.map (·.1)) ++ (s.cfg.ctxs.map (·.1)) ++ (s.shadow.ctxs.map (·.1))).eraseDups.filter fun q =>
    (s.cfg.part p).qbase ≤ q && q < (s.cfg.part p).qbase + (s.cfg.part p).qcount)

theorem State.mapQueues_eq (s : State) (p : Nat) (f : State → Nat → State) : s.mapQueues p f = (s.namedQueues p).foldl f s := rfl

theorem State.queue_of_named {s : State} {p q : Nat} (h : q ∈ s.namedQueues p) :
    (s.cfg.part p).qbase ≤ q ∧ q < (s.cfg.part p).qbase + (s.cfg.part p).qcount := by
  simpa using (List.mem_filter.mp h).2

/-- A context that no record names is a reset one, in force and as a shadow. -/
theorem State.ctx_of_not_named {s : State} {p q : Nat}
    (hq : (s.cfg.part p).qbase ≤ q ∧ q < (s.cfg.part p).qbase + (s.cfg.part p).qcount)
    (h : q ∉ s.namedQueues p) : s.shadow.ctx q = s.cfg.ctx q := by
  simp only [State.namedQueues, List.mem_filter, List.mem_eraseDups, List.mem_append, List.mem_map, hq, decide_true, Bool.and_true,
    and_true, not_or] at h
  obtain ⟨⟨-, hc⟩, hs⟩ := h
  rw [DevCfg.ctx, DevCfg.ctx, Tab.look_absent _ _ _ fun kv hk he => hc ⟨kv, hk, he⟩,
    Tab.look_absent _ _ _ fun kv hk he => hs ⟨kv, hk, he⟩]

/-- The state with the registers of a partition's scope as committed. -/
def State.scopeReloaded (s : State) (p : Nat) : State :=
  { s with shadow := (s.slotsOf p).foldl (reloadSlot s.cfg) (reloadPart s.cfg s.shadow p) }

/-- The shadows after a DISCARD of a partition: the registers of its scope, and then the contexts of its queues, as committed. -/
def State.discarded (s : State) (p : Nat) : DevCfg :=
  ((s.scopeReloaded p).namedQueues p).foldl (reloadCtx s.cfg) (s.scopeReloaded p).shadow

theorem prtCommit_discard {s : State} {ini : Ini} {p : Nat} (h : s.mayRead ini p = true) (go : Bool) :
    prtCommit p ini go true s = (rOk, { s with shadow := s.discarded p }) := by
  rw [prtCommit, h, if_neg (by simp), if_pos rfl]
  have hs : (s.slotsOf p).foldl (fun t i => { t with shadow := reloadSlot t.cfg t.shadow i })
      { s with shadow := reloadPart s.cfg s.shadow p } = s.scopeReloaded p := foldl_shadow reloadSlot _ _
  have hq := foldl_shadow reloadCtx ((s.scopeReloaded p).namedQueues p) (s.scopeReloaded p)
  rw [← State.mapQueues_eq] at hq
  exact congrArg (Prod.mk rOk)
    ((congrArg (fun t => t.mapQueues p fun t q => { t with shadow := t.shadow.setCtx q (t.cfg.ctx q) }) hs).trans hq)

theorem mem_slotsOf {s : State} {p i : Nat} : i ∈ s.slotsOf p ↔ i < 4 ∧ s.slotClaim i = some p := by simp [State.slotsOf]

/-- A register of the scope holds its committed value. -/
theorem State.discarded_get_own {s : State} {p : Nat} {y : Rws} (h : s.rwsPart y = some p) (hi : ∀ i, y = .raceCfg i → i < 4) :
    (s.discarded p).get y &&& y.mask = s.cfg.get y &&& y.mask := by
  rw [State.discarded, get_reloadCtxs, State.scopeReloaded]
  obtain hb | ⟨i, rfl, hc⟩ := State.rwsPart_eq_some.mp h
  · rw [get_reloadSlots_other _ _ _ (by rintro i rfl; simp [Rws.InBlock] at hb), get_reloadPart_own _ _ hb]
  · rw [get_reloadSlots, if_pos (mem_slotsOf.mpr ⟨hi i rfl, hc⟩), Nat.and_assoc, Nat.and_self]

/-- A register of another scope keeps its shadow. -/
theorem State.discarded_get_other {s : State} {p : Nat} {y : Rws} (h : s.rwsPart y ≠ some p) :
    (s.discarded p).get y = s.shadow.get y := by
  rw [Ne, State.rwsPart_eq_some, not_or] at h
  obtain ⟨hb, hc⟩ := h
  rw [State.discarded, get_reloadCtxs, State.scopeReloaded, ← get_reloadPart_other s.cfg s.shadow hb]
  cases y with
  | raceCfg i => rw [get_reloadSlots, if_neg fun hm => hc ⟨i, rfl, (mem_slotsOf.mp hm).2⟩]
  | _ => exact get_reloadSlots_other _ _ _ (by simp)

/-- The contexts of the partition's queues are as committed, whether a record names them or not; the others keep their shadows. -/
theorem State.discarded_ctx (s : State) (p q : Nat) : (s.discarded p).ctx q =
    if (s.cfg.part p).qbase ≤ q ∧ q < (s.cfg.part p).qbase + (s.cfg.part p).qcount then s.cfg.ctx q else s.shadow.ctx q := by
  rw [State.discarded, ctx_reloadCtxs]
  split
  · next hn => exact (if_pos (State.queue_of_named (s := s.scopeReloaded p) hn)).symm
  · next hn =>
    split
    · next hq => exact State.ctx_of_not_named (s := s.scopeReloaded p) hq hn
    · exact ctx_reloadSlots ..

/-- Settles O37: a STAGE is its checks and a fold over its entries, of which the last that names a register or a field decides; a DISCARD
is a fold over the registers and contexts of its scope. -/
theorem stageAndDiscardWriteShadowsOnly : Obligations.StageAndDiscardWriteShadowsOnly := by
  unfold Obligations.StageAndDiscardWriteShadowsOnly
  refine ⟨fun s c h => ?_, fun s r h => ⟨fun ho => ?_, fun ho => ?_, fun p => ⟨fun hm => ?_, fun hm => ?_⟩⟩⟩
  · intro b a n k w e op named field allowed status runs hr hf
    refine ⟨fun h0 => exec_stage h (stageAct_noHeader hr hf h0), fun h0 hm => exec_stage h (stageAct_markedHeader hr hf h0 hm),
      fun h0 hm => ⟨fun hn => exec_stage h (stageAct_short hr hf h0 hm hn),
        fun hn hp => exec_stage h (stageAct_marked hr hf h0 hm hn hp), fun hn hp => ⟨fun i hi hj hni => ?_, fun ha => ?_⟩⟩⟩
    · exact exec_stage h (stageAct_refused (c := c.begun) hr hf h0 hm hn hp
        (stageAll_range_refused (s := w) (c := c.begun) (e := e) hi hj hni s.shadow))
    · obtain ⟨D, hD, hget, hctx, hget', hctx'⟩ := stageAll_stages (s := w) (c := c.begun) (e := e) ha s.shadow
      exact ⟨_, exec_stage h (stageAct_staged (c := c.begun) hr hf h0 hm hn hp hD),
        State.withShadow_undo (stageRead_shadow c.begun b) D, hget, hctx, hget', hctx'⟩
  · rw [exec_glbCommitDiscard h, glbCommit, ho]; rfl
  · rw [exec_glbCommitDiscard h, glbCommit, ho]; rfl
  · rw [exec_prtCommitDiscard h, prtCommit, hm]; rfl
  · have he := exec_prtCommitDiscard h p
    rw [prtCommit_discard hm] at he
    exact ⟨_, he, State.respond_shadow_frame .., fun y hy hi => State.discarded_get_own hy hi,
      fun y hy => State.discarded_get_other hy, fun q => State.discarded_ctx s p.toNat q⟩

end Sys2Proof.Machine

/-! SUPPORT. Every arm of `exec` answers, what reset leaves (R301, R466), and a dispatcher round on a stopped device (R18, R221, R229). -/
namespace Sys2Proof.Machine

-- ## Every command answers

/-- A read by debug answers whether or not a busy slot holds it. -/
theorem exec_read8B_answers (a : Addr) (s : State) : ∃ t, exec (.read8B a) s = .next t := by
  show ∃ t, execRead8B a s = .next t
  unfold execRead8B
  split
  · exact ⟨s, rfl⟩
  · exact ⟨_, rfl⟩

/-- The meaning of every command is a next state. -/
theorem exec_answers (i : Instr) (s : State) : ∃ t, exec i s = .next t := by
  cases i with
  | read8B a => exact exec_read8B_answers a s
  | _ => exact ⟨_, rfl⟩

/-- Settles O57: every arm of `exec` answers a next state, and a step is such an arm or idles. -/
theorem noCommandStopsTheBlock : Obligations.NoCommandStopsTheBlock := by
  unfold Obligations.NoCommandStopsTheBlock
  refine ⟨exec_answers, fun s => ?_⟩
  cases hq : s.pending with
  | nil => exact ⟨s, step_idle hq⟩
  | cons c rest => rw [step_front hq]; exact exec_answers c _

-- ## Reset

/-- Every word of the global region but those of GLB_VERSION, GLB_PWR_CFG, GLB_OP_CEIL, GLB_LC_STATE, GLB_BOOT_STATUS and GLB_BOOT_SLOTS
reads 0 at reset (R299, R466). -/
theorem reset_glbWord_zero : ∀ k, k < 1024 → k ∉ [0, 0x200, 0x201, 0x280, 0x300, 0x301] → State.reset.glbWord (4 * k) = 0 := by
  decide +kernel
theorem reset_glbWord_version : State.reset.glbWord 0x000 = 0x00020001 := by decide +kernel
theorem reset_glbWord_pwrCfg : State.reset.glbWord 0x800 = 0x8F0 := by decide +kernel
theorem reset_glbWord_opCeil : State.reset.glbWord 0x804 = 0x77777777 := by decide +kernel

/-- A partition without a record has the reset block and is out of service. -/
theorem reset_part (p : Nat) : State.reset.cfg.part p = {} := rfl
theorem reset_inService (p : Nat) : State.reset.inService p = false := by
  rw [State.inService, reset_part]; rfl

/-- Settles O58: the words of the global region are computed, and a table without a record answers its reset value. -/
theorem resetLeavesTheSpecsValues : Obligations.ResetLeavesTheSpecsValues := by
  unfold Obligations.ResetLeavesTheSpecsValues
  refine ⟨rfl, rfl, rfl, rfl, rfl, reset_glbWord_version, reset_glbWord_pwrCfg, reset_glbWord_opCeil, reset_glbWord_zero,
    fun p _ => ⟨reset_part p, ?_, reset_inService p⟩, rfl, rfl, rfl, rfl, rfl, rfl, rfl,
    fun p => ⟨rfl, rfl, rfl, rfl⟩, fun n => rfl, rfl, Memory.wf_reset, fun a => rfl⟩
  rw [reset_part]

-- ## A COMMIT on a stopped device

/-- A device that runs, with a COMMIT of partition 0 that has changed WEIGHT of queue 0 from 1 to 2: nothing of it is left but the round
of the dispatcher that brings the new WEIGHT into force (R209, R221). -/
def commitBeforeRound : State :=
  { State.reset with
    edge := { State.reset.edge with porst := true, ready := true, refclkOk := true, ucie0 := .up32 }
    cfg := { State.reset.cfg with ctxs := [(0, { weight := 2 })] }
    ctxs := [(0, { live := { weight := 1 } })]
    commits := [{ device := false, part := 0, ini := 0, seq := some 5, started := true }]
    cmds := [{ seq := 5, queue := 0, part := 0, ini := 0, idx := 0, bytes := 13 :: List.replicate 63 0, started := true, working := true }] }

/-- The same device once a core rail has failed. -/
def commitStopped : State := commitBeforeRound.fatal 1 10 0x52

theorem exec_railFault_commitBeforeRound (r : Rail) : exec (.railFault r) commitBeforeRound = .next commitStopped := rfl

/-- The dispatcher's round on the stopped device completes the COMMIT. -/
theorem acceptNext_commitStopped_cmds : (acceptNext commitStopped).cmds.length = 0 := by decide +kernel

/-- Refutes O60: a stopped device accepts nothing, but COMMAND_ACCEPT still begins a round of the dispatcher, and the round completes a
COMMIT that waited for it. -/
theorem not_aStoppedDeviceStaysStopped : ¬ Obligations.AStoppedDeviceStaysStopped := by
  unfold Obligations.AStoppedDeviceStaysStopped
  intro h
  obtain ⟨-, still⟩ := h .commandAccept commitStopped (acceptNext commitStopped) rfl (by simp) (by simp) rfl
  obtain ⟨-, -, -, -, -, hcmds⟩ := still (by simp) (by simp)
  have hlen := congrArg List.length hcmds
  rw [List.length_map, List.length_map, acceptNext_commitStopped_cmds] at hlen
  exact absurd hlen (by decide)

end Sys2Proof.Machine

/-! SUPPORT. Supplies, PORST_N, straps and modules: what each event resets and keeps (R7, R10, R18, R25, R432). -/
namespace Sys2Proof.Machine

-- ## Fuses

/-- A pulse only ever turns a 0 to a 1 (R338). -/
theorem Otp.pulse_keeps_programmed (o : Otp) (w b : Nat) (left : FuseOutcome) {x i : Nat} (h : (o.fuses.look 0 x).getLsbD i = true) :
    ((o.pulse w b left).fuses.look 0 x).getLsbD i = true := by
  have hput : ((o.fuses.put 0 w (o.fuses.look 0 w ||| wordBit b)).look 0 x).getLsbD i = true := by
    rw [Tab.look_put]
    split
    · next hx => subst hx; rw [BitVec.getLsbD_or, h, Bool.true_or]
    · exact h
  cases left with
  | unprogrammed => exact h
  | weak =>
    simp only [Otp.pulse]
    split
    · exact h
    · exact hput
  | programmed => exact hput

/-- A reset that cuts a pulse short loses no programmed fuse. -/
theorem State.cutPulse_keeps_programmed (s : State) (left : FuseOutcome) {x i : Nat} (h : (s.otp.fuses.look 0 x).getLsbD i = true) :
    ((s.cutPulse left).fuses.look 0 x).getLsbD i = true := by
  unfold State.cutPulse
  split
  · split
    · exact Otp.pulse_keeps_programmed _ _ _ _ h
    · exact h
  · exact h
theorem State.porReset_keeps_programmed (s : State) (left : FuseOutcome) {x i : Nat} (h : (s.otp.fuses.look 0 x).getLsbD i = true) :
    ((s.porReset left).otp.fuses.look 0 x).getLsbD i = true := State.cutPulse_keeps_programmed s left h

-- ## VDD_AON and PORST_N (R18, R432, R446)

theorem exec_vddAonLoss {s : State} (h : s.edge.aonUp = true) : ∃ t : State, exec .vddAonLoss s = .next t ∧ t.edge.aonUp = false
    ∧ t.edge.porst = false ∧ t.edge.ready = false ∧ t.edge.stopped = false ∧ t.cmds = [] ∧ t.pans = [] ∧ t.errs = {} ∧ t.saltern = {}
    ∧ t.i3c = {} ∧ ∀ w b, (s.otp.fuses.look 0 w).getLsbD b = true → (t.otp.fuses.look 0 w).getLsbD b = true := by
  refine ⟨vddAonLoss s, rfl, ?_⟩
  unfold vddAonLoss
  rw [h, if_neg (by simp)]
  exact ⟨rfl, rfl, rfl, rfl, rfl, rfl, rfl, rfl, rfl, fun w b hb => State.porReset_keeps_programmed s.draw.2 _ hb⟩

theorem exec_porstNFall {s : State} (left : FuseOutcome) (h : s.edge.porst = true) : exec (.porstNFall left) s = .next (s.porReset left) :=
  congrArg Host.Outcome.next (if_pos h)

theorem exec_porstNRise {s : State} (env : BootEnv) (ha : s.edge.aonUp = true) (hp : s.edge.porst = false) :
    ∃ t : State, exec (.porstNRise env) s = .next t
      ∧ t.edge = { s.edge with porst := true, refclkOk := true, panSupplyGood := true, ucie0 := .training, ucie1 := .training
                               strapWindow := !s.dbg.tap.controls }
      ∧ t.boot.stage = .straps ∧ (env.flashImage = none → t.flash = s.flash) ∧ t.mem = s.mem := by
  refine ⟨porstRise env s, rfl, ?_⟩
  unfold porstRise
  rw [ha, hp, if_neg (by simp)]
  exact ⟨rfl, rfl, fun hf => by simp only [hf], rfl⟩

-- ## Straps and ADDR_SEL (R10, R13, R421)

theorem exec_strapWindowStart {s : State} (hb : s.boot.stage = .straps) (hw : s.edge.strapWindow = false) (hs : s.edge.stopped = false) :
    exec .strapWindowStart s = .next (if s.dbg.tap.controls then s else { s with edge := { s.edge with strapWindow := true } }) := by
  refine congrArg Host.Outcome.next ?_
  rw [hb, hw, hs]
  cases s.dbg.tap.controls <;> rfl

theorem exec_strapSample {s : State} (a b c : StrapPins) (hb : s.boot.stage = .straps) (hw : s.edge.strapWindow = true)
    (hl : s.edge.strapsLatched = false) (hs : s.edge.stopped = false) :
    exec (.strapSample a b c) s = .next (if (a = b ∧ b = c) ∨ s.edge.strapGroups = 16 then
        ({ s with
          edge := { s.edge with strapsLatched := true, strapGroups := s.edge.strapGroups + 1, bootsel := c.bootsel
                                addrSel := c.addrSel, golden := !c.goldenN, unstable := !(a == b && b == c) }
          boot := { s.boot with stage := .rom } } : State).boots
      else { s with edge := { s.edge with strapGroups := s.edge.strapGroups + 1 } }) := by
  refine congrArg Host.Outcome.next ?_
  unfold strapSample
  simp only [hb, hw, hl, hs]
  simp

/-- A group of three samples of ADDR_SEL. -/
theorem exec_i3cAddrSample {s : State} (a b c : BitVec 3) (ha : s.edge.aonUp = true) (hs : s.i3c.sampled = false) :
    ∃ t : State, exec (.i3cAddrSample a b c) s = .next t
      ∧ { t with i3c := s.i3c } = s ∧ t.i3c.groups = s.i3c.groups + 1
      ∧ (t.i3c.sampled = true ↔ (a = b ∧ b = c) ∨ s.i3c.groups = 16) ∧ (t.i3c.sampled = true → t.i3c.addrSel = c) := by
  refine ⟨i3cSample a b c s, rfl, ?_⟩
  unfold i3cSample
  rw [if_neg (by simp [ha, hs])]
  split
  · next h => exact ⟨rfl, rfl, by simpa using h, fun _ => rfl⟩
  · next h => exact ⟨rfl, rfl, by simpa [hs] using h, by simp [hs]⟩

-- ## The modules (R25)

/-- A module takes a state; FAULT_N falls where both are then down. -/
theorem State.setLink_false (s : State) (l : Link) : s.setLink false l =
    { s with edge := { s.edge with ucie0 := l, faultLow := (l == .down && s.edge.ucie1 == .down) || s.edge.faultLow } } := by
  simp only [State.setLink]
  cases h : (l == .down && s.edge.ucie1 == .down) <;> simp [h]
theorem State.setLink_true (s : State) (l : Link) : s.setLink true l =
    { s with edge := { s.edge with ucie1 := l, faultLow := (s.edge.ucie0 == .down && l == .down) || s.edge.faultLow } } := by
  simp only [State.setLink]
  cases h : (s.edge.ucie0 == .down && l == .down) <;> simp [h]

@[simp] theorem State.setLink_link (s : State) (m : Bool) (l : Link) : (s.setLink m l).link m = l := by
  cases m
  · rw [State.setLink_false]; rfl
  · rw [State.setLink_true]; rfl
@[simp] theorem State.setLink_link_other (s : State) (m : Bool) (l : Link) : (s.setLink m l).link (!m) = s.link (!m) := by
  cases m
  · rw [State.setLink_false]; rfl
  · rw [State.setLink_true]; rfl
/-- Both modules are down. -/
theorem State.setLink_faultLow {s : State} {m : Bool} (h : s.link (!m) = .down) : (s.setLink m .down).edge.faultLow = true := by
  cases m
  · rw [State.setLink_false, show s.edge.ucie1 = .down from h]; rfl
  · rw [State.setLink_true, show s.edge.ucie0 = .down from h]; rfl
theorem State.setLink_frame (s : State) (m : Bool) (l : Link) : { s.setLink m l with edge := s.edge } = s := by
  cases m
  · rw [State.setLink_false]
  · rw [State.setLink_true]

@[simp] theorem State.setLink_mem (s : State) (m : Bool) (l : Link) : (s.setLink m l).mem = s.mem :=
  (congrArg State.mem (State.setLink_frame s m l) :)
@[simp] theorem State.setLink_cmds (s : State) (m : Bool) (l : Link) : (s.setLink m l).cmds = s.cmds :=
  (congrArg State.cmds (State.setLink_frame s m l) :)
@[simp] theorem State.setLink_errs (s : State) (m : Bool) (l : Link) : (s.setLink m l).errs = s.errs :=
  (congrArg State.errs (State.setLink_frame s m l) :)

/-- A record leaves the modules as they are. -/
@[simp] theorem State.record_link (s : State) (cls src unit addr : Nat) (met : Met) (m : Bool) :
    (s.record cls src unit addr met).link m = s.link m := by rw [State.link, State.record_edge]; rfl

theorem exec_ucieModuleDrop {s : State} {m : Bool} (hs : s.edge.stopped = false) (h : (s.link m).isUp = true) :
    exec (.ucieModuleDrop m) s = .next (s.setLink m .retraining) :=
  congrArg Host.Outcome.next (if_neg (by simp [hs, h]))

/-- The state a module has after its training. -/
def trainedLink : Training → Link
  | .at32 => .up32
  | .at16 => .up16
  | .failed => .down

/-- The end of a training, beside the record of a retraining that failed. -/
theorem exec_ucieTrainingDone {s : State} {m : Bool} (res : Training) (hs : s.edge.stopped = false)
    (h : s.link m = .training ∨ s.link m = .retraining) :
    ∃ u : State, exec (.ucieTrainingDone m res) s = .next (u.setLink m (trainedLink res)) ∧ (∀ j, u.link j = s.link j)
      ∧ (res ≠ .failed → u = s) := by
  have hl : ¬ (s.edge.stopped || (s.link m != .training && s.link m != .retraining)) = true := by
    rcases h with h | h <;> simp [hs, h]
  have he : exec (.ucieTrainingDone m res) s = .next (match res with
    | .at32 => s.setLink m .up32
    | .at16 => s.setLink m .up16
    | .failed => (if s.link m == .retraining then s.record eLink 14 (0x4E + b2n m) 0 {} else s).setLink m .down) :=
    congrArg Host.Outcome.next (if_neg hl)
  rw [he]
  cases res with
  | at32 => exact ⟨s, rfl, fun _ => rfl, fun _ => rfl⟩
  | at16 => exact ⟨s, rfl, fun _ => rfl, fun _ => rfl⟩
  | failed =>
    refine ⟨_, rfl, fun j => ?_, fun hne => absurd rfl hne⟩
    split
    · rw [State.record_link]
    · rfl

/-- Settles O32, supply by supply and pin by pin. -/
theorem suppliesStrapsAndLinksComeAndGo : Obligations.SuppliesStrapsAndLinksComeAndGo := by
  unfold Obligations.SuppliesStrapsAndLinksComeAndGo
  intro s
  refine ⟨fun ha => ?_, exec_vddAonLoss, fun left hp => ?_, fun env => exec_porstNRise env, exec_strapWindowStart, exec_strapSample,
    exec_i3cAddrSample, fun m hs hu => ?_, fun m res hs hl => ?_⟩
  · exact ⟨_, congrArg Host.Outcome.next (if_neg (by simp [ha])), rfl, rfl, rfl, rfl, rfl⟩
  · exact ⟨_, exec_porstNFall left hp, rfl, rfl, rfl, rfl, rfl, rfl, rfl, rfl, rfl, rfl, rfl, rfl,
      fun w b hb => State.porReset_keeps_programmed s left hb⟩
  · exact ⟨_, exec_ucieModuleDrop hs hu, State.setLink_link .., State.setLink_link_other .., State.setLink_mem .., State.setLink_cmds ..⟩
  · obtain ⟨u, he, hu, hsame⟩ := exec_ucieTrainingDone res hs hl
    refine ⟨_, he, (State.setLink_link_other ..).trans (hu _), ?_, fun hr hd => ?_, fun hr => ?_⟩
    · rw [State.setLink_link]; cases res <;> rfl
    · subst hr; exact State.setLink_faultLow ((hu _).trans hd)
    · rw [hsame hr, State.setLink_errs]

end Sys2Proof.Machine

/-! SUPPORT. What the end of commands leaves alone, pans that are bunded, and FATAL errors (R18, R30, R434, R439). -/
namespace Sys2Proof.Machine

-- ## What completions leave alone

/-- The state without what the end of a command changes: what is left is the same before and after it. -/
def State.besideCmds (s : State) : State :=
  { s with drawn := 0, mem := [], poison := [], memSys := {}, parts := [], ctxs := [], cmds := [], pans := [], tally := {} }

theorem State.besideCmds_edge {s t : State} (h : t.besideCmds = s.besideCmds) : t.edge = s.edge := (congrArg State.edge h :)

@[simp] theorem State.settleStream_besideCmds (s : State) (u : KvUse) (good : Bool) :
    (s.settleStream u good).besideCmds = s.besideCmds := by
  unfold State.settleStream
  dsimp only
  split
  · rfl
  · split <;> rfl
@[simp] theorem State.leavePans_besideCmds (s : State) (seq : DWord) : (s.leavePans seq).besideCmds = s.besideCmds := by
  have h := State.leavePans_frame s seq
  generalize s.leavePans seq = u at h ⊢
  exact (congrArg State.besideCmds h :)
@[simp] theorem State.creditSteps_besideCmds (s : State) (c : Cmd) (good : Bool) : (s.creditSteps c good).besideCmds = s.besideCmds :=
  (congrArg State.besideCmds (State.creditSteps_frame s c good) :)
@[simp] theorem State.countFull_besideCmds (s : State) (c : Cmd) (st : Byte) : (s.countFull c st).besideCmds = s.besideCmds :=
  (congrArg State.besideCmds (State.countFull_frame s c st) :)
@[simp] theorem State.noteLock_besideCmds (s : State) (c : Cmd) (good : Bool) : (s.noteLock c good).besideCmds = s.besideCmds :=
  (congrArg State.besideCmds (State.noteLock_frame s c good) :)
@[simp] theorem State.tallyDone_besideCmds (s : State) (c : Cmd) (st : Byte) : (s.tallyDone c st).besideCmds = s.besideCmds := rfl
@[simp] theorem State.putEntry_besideCmds (s : State) (c : Cmd) (st : Byte) : (s.putEntry c st).besideCmds = s.besideCmds := by
  unfold State.putEntry
  dsimp only
  split <;> rfl
@[simp] theorem State.dropCmd_besideCmds (s : State) (c : Cmd) : (s.dropCmd c).besideCmds = s.besideCmds := rfl
@[simp] theorem State.settleCtx_besideCmds (s : State) (q : Nat) : (s.settleCtx q).besideCmds = s.besideCmds :=
  (congrArg State.besideCmds (State.settleCtx_frame s q) :)
@[simp] theorem State.beginCmd_besideCmds (s : State) (c : Cmd) : (s.beginCmd c).besideCmds = s.besideCmds := rfl

@[simp] theorem State.completeOne_besideCmds (s : State) (c : Cmd) (st : Byte) : (s.completeOne c st).besideCmds = s.besideCmds := by
  simp only [State.completeOne, State.settleCtx_besideCmds, State.dropCmd_besideCmds, State.putEntry_besideCmds,
    State.tallyDone_besideCmds, State.noteLock_besideCmds, State.countFull_besideCmds, State.creditSteps_besideCmds,
    State.leavePans_besideCmds]
  exact foldl_keeps (fun t : State => t.besideCmds = s.besideCmds) _ _ (fun t u _ h => (State.settleStream_besideCmds t u _).trans h) s rfl
@[simp] theorem State.finishNoRow_besideCmds (s : State) (c : Cmd) (st : Byte) : (s.finishNoRow c st).besideCmds = s.besideCmds := by
  unfold State.finishNoRow
  dsimp only
  split
  · rfl
  · rw [State.completeOne_besideCmds, State.beginCmd_besideCmds]
@[simp] theorem State.complete_besideCmds (s : State) (seq : DWord) (st : Byte) : (s.complete seq st).besideCmds = s.besideCmds :=
  State.complete_keeps (fun t => t.besideCmds = s.besideCmds) (fun _ _ _ h => (State.completeOne_besideCmds ..).trans h)
    (fun _ _ _ h => (State.finishNoRow_besideCmds ..).trans h) s seq st rfl

-- ## The pans where commands end

/-- A pan as it was, or as it has left what it ran. -/
def Pan.MayLeave (v w : Pan) : Prop := w = v ∨ w = v.leave

theorem Pan.leave_leave (v : Pan) : v.leave.leave = v.leave := by
  unfold Pan.leave
  split <;> simp_all
theorem Pan.MayLeave.trans {u v w : Pan} (h : u.MayLeave v) (h' : v.MayLeave w) : u.MayLeave w := by
  rcases h with rfl | rfl
  · exact h'
  · rcases h' with rfl | rfl
    · exact .inr rfl
    · exact .inr (Pan.leave_leave _)
theorem Pan.MayLeave.bunded {v w : Pan} (h : v.MayLeave w) : w.bunded = v.bunded := by rcases h with rfl | rfl <;> rfl
theorem Pan.MayLeave.run_none {v w : Pan} (h : v.MayLeave w) (hv : v.run = none) : w.run = none := by
  rcases h with rfl | rfl
  · exact hv
  · rfl

theorem State.pan_of_pans {s t : State} (h : t.pans = s.pans) (p : Nat) : t.pan p = s.pan p := by rw [State.pan, h]; rfl

/-- Every pan stands as it was, or has left what it ran. -/
def State.PansMayLeave (s t : State) : Prop := ∀ p, (s.pan p).MayLeave (t.pan p)

theorem State.PansMayLeave.of_pans {s t : State} (h : t.pans = s.pans) : s.PansMayLeave t :=
  fun p => .inl (State.pan_of_pans h p)
theorem State.PansMayLeave.trans {s t u : State} (h : s.PansMayLeave t) (h' : t.PansMayLeave u) : s.PansMayLeave u :=
  fun p => (h p).trans (h' p)

theorem State.leavePans_pans (s : State) (seq : DWord) : s.PansMayLeave (s.leavePans seq) := by
  refine foldl_keeps (fun t : State => s.PansMayLeave t) _ _ (fun t q _ ht => ?_) s (.of_pans rfl)
  have hleave : s.PansMayLeave (t.modPan q Pan.leave) := ht.trans fun p => by
    rw [State.modPan_eq, State.setPan_pan]
    split
    · next hp => subst hp; exact .inr rfl
    · exact .inl rfl
  split
  · split
    · exact hleave
    · exact ht
  · exact ht


@[simp] theorem State.settleStream_pans (s : State) (u : KvUse) (good : Bool) : (s.settleStream u good).pans = s.pans := by
  unfold State.settleStream
  dsimp only
  split
  · rfl
  · split <;> rfl
@[simp] theorem State.creditSteps_pans (s : State) (c : Cmd) (good : Bool) : (s.creditSteps c good).pans = s.pans :=
  (congrArg State.pans (State.creditSteps_frame s c good) :)
@[simp] theorem State.countFull_pans (s : State) (c : Cmd) (st : Byte) : (s.countFull c st).pans = s.pans :=
  (congrArg State.pans (State.countFull_frame s c st) :)
@[simp] theorem State.noteLock_pans (s : State) (c : Cmd) (good : Bool) : (s.noteLock c good).pans = s.pans :=
  (congrArg State.pans (State.noteLock_frame s c good) :)
@[simp] theorem State.tallyDone_pans (s : State) (c : Cmd) (st : Byte) : (s.tallyDone c st).pans = s.pans := rfl
@[simp] theorem State.putEntry_pans (s : State) (c : Cmd) (st : Byte) : (s.putEntry c st).pans = s.pans := by
  unfold State.putEntry
  dsimp only
  split <;> rfl
@[simp] theorem State.dropCmd_pans (s : State) (c : Cmd) : (s.dropCmd c).pans = s.pans := rfl
@[simp] theorem State.settleCtx_pans (s : State) (q : Nat) : (s.settleCtx q).pans = s.pans :=
  (congrArg State.pans (State.settleCtx_frame s q) :)

theorem State.completeOne_pans (s : State) (c : Cmd) (st : Byte) : s.PansMayLeave (s.completeOne c st) := by
  have hkv (good : Bool) : (c.kv.foldl (fun s u => s.settleStream u good) s).pans = s.pans :=
    foldl_keeps (fun t : State => t.pans = s.pans) _ _ (fun t u _ h => (State.settleStream_pans t u _).trans h) s rfl
  refine ((State.PansMayLeave.of_pans (hkv (st == stOk || st == stTrunc))).trans (State.leavePans_pans _ c.seq)).trans (.of_pans ?_)
  simp only [State.completeOne, State.settleCtx_pans, State.dropCmd_pans, State.putEntry_pans, State.tallyDone_pans,
    State.noteLock_pans, State.countFull_pans, State.creditSteps_pans]
theorem State.finishNoRow_pans (s : State) (c : Cmd) (st : Byte) : s.PansMayLeave (s.finishNoRow c st) := by
  unfold State.finishNoRow
  dsimp only
  split
  · exact .of_pans rfl
  · exact .trans (.of_pans rfl) (State.completeOne_pans (s.beginCmd c) _ st)
theorem State.complete_pans (s : State) (seq : DWord) (st : Byte) : s.PansMayLeave (s.complete seq st) :=
  State.complete_keeps (fun t => s.PansMayLeave t) (fun _ _ _ h => h.trans (State.completeOne_pans _ _ _))
    (fun _ _ _ h => h.trans (State.finishNoRow_pans _ _ _)) s seq st (.of_pans rfl)

-- ## A pan that is bunded (R439)

@[simp] theorem State.lockWhere_edge (s : State) (f : Cmd → Bool) (cause : BitVec 4) : (s.lockWhere f cause).edge = s.edge :=
  (congrArg State.edge (State.lockWhere_frame s f cause) :)
@[simp] theorem State.lockWhere_pans (s : State) (f : Cmd → Bool) (cause : BitVec 4) : (s.lockWhere f cause).pans = s.pans :=
  (congrArg State.pans (State.lockWhere_frame s f cause) :)

/-- Slots that lose their pan change neither the edge nor the pans. -/
theorem State.raceFails_edge (s : State) (f : State → Nat → Bool) (l : List Nat) :
    (l.foldl (fun s i => if f s i then s.raceFail i else s) s).edge = s.edge := by
  refine foldl_keeps (fun t : State => t.edge = s.edge) _ _ (fun t i _ ht => ?_) s rfl
  split
  · exact (congrArg State.edge (State.raceFail_frame t i) :).trans ht
  · exact ht
theorem State.raceFails_pans (s : State) (f : State → Nat → Bool) (l : List Nat) :
    (l.foldl (fun s i => if f s i then s.raceFail i else s) s).pans = s.pans := by
  refine foldl_keeps (fun t : State => t.pans = s.pans) _ _ (fun t i _ ht => ?_) s rfl
  split
  · exact (congrArg State.pans (State.raceFail_frame t i) :).trans ht
  · exact ht

/-- A pan that is bunded, before its command is stopped. -/
def State.bundAlone (s : State) (p src : Nat) (met : Met) : State :=
  let t := (s.record eBund src p 0 met).modPan p fun v => { v.leave with bunded := true, st := .idle, holds := [], gated := true }
  let t := (t.event 0x80 evBunded (match s.panPart p with | some q => BitVec.ofNat 8 q | none => 0xFF) (BitVec.ofNat 8 p)).lockPan p 8
  (List.range 4).foldl (fun s i =>
    if s.reqPan i == p && ((s.slot i).st = .busy || s.slotOf p == some i) then s.raceFail i else s) t

/-- A pan is bunded, and the command that it ran is stopped. -/
theorem State.bundPan_cases (s : State) (p src : Nat) (met : Met) : (s.pan p).bunded = true ∧ s.bundPan p src met = s
    ∨ (s.pan p).bunded = false ∧ (s.bundPan p src met = s.bundAlone p src met
      ∨ ∃ seq, s.bundPan p src met = (s.bundAlone p src met).complete seq stPoison) := by
  unfold State.bundPan
  split
  · next h => exact .inl ⟨h, rfl⟩
  · next h =>
    refine .inr ⟨by simpa using h, ?_⟩
    dsimp only
    split
    · split
      · exact .inl rfl
      · exact .inr ⟨_, rfl⟩
    · exact .inl rfl

theorem State.bundAlone_edge (s : State) (p src : Nat) (met : Met) : (s.bundAlone p src met).edge = s.edge := by
  unfold State.bundAlone
  rw [State.raceFails_edge, State.lockPan, State.lockWhere_edge, State.event_edge, State.modPan_eq, State.setPan_edge, State.record_edge]
theorem State.bundAlone_pan (s : State) (p src : Nat) (met : Met) (q : Nat) : (s.bundAlone p src met).pan q =
    if q = p then { (s.pan p).leave with bunded := true, st := .idle, holds := [], gated := true } else s.pan q := by
  have hrec (j : Nat) : (s.record eBund src p 0 met).pan j = s.pan j := State.pan_of_pans (State.record_pans ..) j
  have h : (s.bundAlone p src met).pans = ((s.record eBund src p 0 met).setPan p
      { ((s.record eBund src p 0 met).pan p).leave with bunded := true, st := .idle, holds := [], gated := true }).pans := by
    unfold State.bundAlone
    rw [State.raceFails_pans, State.lockPan, State.lockWhere_pans, State.event_pans, State.modPan_eq]
  rw [State.pan_of_pans h, State.setPan_pan, hrec, hrec]

/-- What the bunding of a pan leaves of a pan: it is bunded and has left what it ran; any other pan may have left its command. -/
theorem State.bundPan_pans (s : State) (p src : Nat) (met : Met) :
    (s.bundPan p src met).edge = s.edge ∧ (∀ q, ((s.bundPan p src met).pan q).bunded = ((s.pan q).bunded || q == p))
      ∧ (∀ q, (s.pan q).run = none → ((s.bundPan p src met).pan q).run = none)
      ∧ ((s.pan p).bunded = false → ((s.bundPan p src met).pan p).run = none) := by
  have key : (s.pan p).bunded = false → ∀ t : State, t.edge = (s.bundAlone p src met).edge → (s.bundAlone p src met).PansMayLeave t →
      t.edge = s.edge ∧ (∀ q, (t.pan q).bunded = ((s.pan q).bunded || q == p)) ∧ (∀ q, (s.pan q).run = none → (t.pan q).run = none)
        ∧ (t.pan p).run = none := by
    intro hb t he ht
    refine ⟨he.trans (State.bundAlone_edge ..), fun q => ?_, fun q hq => (ht q).run_none ?_, (ht p).run_none ?_⟩
    · rw [(ht q).bunded, State.bundAlone_pan]
      by_cases hq : q = p
      · simp [hq]
      · simp [hq]
    · rw [State.bundAlone_pan]
      split
      · rfl
      · exact hq
    · rw [State.bundAlone_pan, if_pos rfl]; rfl
  rcases State.bundPan_cases s p src met with ⟨hb, h⟩ | ⟨hb, h | ⟨seq, h⟩⟩
  · rw [h]
    refine ⟨rfl, fun q => ?_, fun q hq => hq, fun hf => by rw [hb] at hf; cases hf⟩
    by_cases hq : q = p
    · simp [hq, hb]
    · simp [hq]
  · obtain ⟨h1, h2, h3, h4⟩ := key hb _ (congrArg State.edge h) (.of_pans (congrArg State.pans h))
    exact ⟨h1, h2, h3, fun _ => h4⟩
  · obtain ⟨h1, h2, h3, h4⟩ := key hb (s.bundPan p src met)
      (by rw [h]; exact State.besideCmds_edge (State.complete_besideCmds ..)) (by rw [h]; exact State.complete_pans _ _ _)
    exact ⟨h1, h2, h3, fun _ => h4⟩

/-- Pans bunded in turn. -/
theorem State.bundPans (src : Nat) (met : Met) (l : List Nat) (s : State) :
    let t := l.foldl (fun s p => s.bundPan p src met) s
    t.edge = s.edge ∧ (∀ q, (t.pan q).bunded = ((s.pan q).bunded || l.contains q))
      ∧ (∀ q, (s.pan q).run = none → (t.pan q).run = none)
      ∧ ∀ q, q ∈ l → (s.pan q).bunded = false → (t.pan q).run = none := by
  induction l generalizing s with
  | nil => exact ⟨rfl, fun q => by simp, fun q hq => hq, fun q hq => by cases hq⟩
  | cons p l ih =>
    obtain ⟨e1, b1, r1, p1⟩ := State.bundPan_pans s p src met
    obtain ⟨e2, b2, r2, p2⟩ := ih (s.bundPan p src met)
    refine ⟨e2.trans e1, fun q => ?_, fun q hq => r2 q (r1 q hq), fun q hq hb => ?_⟩
    · rw [List.foldl_cons, b2, b1, List.contains_cons, Bool.or_assoc]
    · by_cases hqp : q = p
      · subst hqp; exact r2 q (p1 hb)
      · exact p2 q ((List.mem_cons.mp hq).resolve_left hqp) (by rw [b1, hb]; simpa using hqp)

-- ## FATAL errors and supplies (R18, R20, R30, R434, R440, R445)

/-- What a stop by a FATAL error leaves in the error records: the cause, and a record unless a FATAL one was made before. -/
theorem State.fatal_errs (s : State) (cause src unit : Nat) : (s.fatal cause src unit).errs.fatal = true
    ∧ (s.fatal cause src unit).errs.fatalCause = BitVec.ofNat 4 cause
    ∧ (s.errs.fatalNow = false → (s.fatal cause src unit).errs.records = s.errs.records + 1) := by
  refine ⟨rfl, rfl, fun h => ?_⟩
  unfold State.fatal State.record
  rw [if_neg (by simp [h])]

/-- A FATAL error stops the device and makes its record, and nothing else. -/
theorem State.fatal_withErrs (s : State) (cause src unit : Nat) : { s.fatal cause src unit with errs := s.errs } =
    { s with edge := { s.edge with ready := false, faultLow := true, stopped := true } } := by
  unfold State.fatal State.record
  split <;> rfl

section
variable {s : State} (hp : s.edge.porst = true)
include hp

theorem exec_railFault (r : Rail) (hs : s.edge.stopped = false) : exec (.railFault r) s = .next (s.fatal 1 10 0x52) :=
  congrArg Host.Outcome.next (if_pos (by simp [hp, hs]))

theorem exec_refclkLoss_stopped (hs : s.edge.stopped = true) : exec .refclkLoss s =
    .next { s with edge := { s.edge with refclkOk := false }, i3c := { s.i3c with onRefclk := false } } := by
  refine congrArg Host.Outcome.next ((if_pos hp).trans ?_)
  dsimp only
  rw [if_pos hs]
theorem exec_refclkLoss (hs : s.edge.stopped = false) : exec .refclkLoss s = .next { s.fatal 2 11 0x53 with
    edge := { (s.fatal 2 11 0x53).edge with refclkOk := false }, i3c := { (s.fatal 2 11 0x53).i3c with onRefclk := false } } := by
  refine congrArg Host.Outcome.next ((if_pos hp).trans ?_)
  dsimp only
  rw [if_neg (by simp [hs])]

theorem exec_thermShutdown_stopped (hs : s.edge.stopped = true) : exec .thermShutdown s =
    .next { s.goDark with edge := { s.goDark.edge with thermShutdown := true } } := by
  refine congrArg Host.Outcome.next ((if_pos hp).trans ?_)
  dsimp only
  rw [if_pos hs]
theorem exec_thermShutdown (hs : s.edge.stopped = false) : exec .thermShutdown s =
    .next { (s.fatal 3 12 0x54).goDark with edge := { (s.fatal 3 12 0x54).goDark.edge with thermShutdown := true } } := by
  refine congrArg Host.Outcome.next ((if_pos hp).trans ?_)
  dsimp only
  rw [if_neg (by simp [hs])]

theorem exec_panSupplyFault (g : BitVec 3) (hs : s.edge.stopped = false) : exec (.panSupplyFault g) s =
    .next (((List.range 8).map (8 * g.toNat + ·)).foldl (fun s p => s.bundPan p 10 {})
      { s with edge := { s.edge with panSupplyGood := false } }) := by
  rw [List.foldl_map]
  exact congrArg Host.Outcome.next ((if_neg (by simp [hp])).trans (if_neg (by simp [hs])))

end

/-- The gating of every domain but the always-on one loses all memory but the DRAM. -/
theorem State.goDark_byte (s : State) (a : Nat) : s.goDark.byte a = if a < 0x3000000000 then s.byte a else 0 := by
  have h := Tab.look_filter s.mem 0 (fun k => decide (k < 0x3000000000)) a
  simpa [State.byte, State.goDark] using h

/-- The pans of a group. -/
theorem mem_groupPans {g p : Nat} : p ∈ (List.range 8).map (8 * g + ·) ↔ p / 8 = g := by
  simp only [List.mem_map, List.mem_range]
  exact ⟨by rintro ⟨i, hi, rfl⟩; omega, fun h => ⟨p % 8, by omega, by omega⟩⟩

/-- Settles O33: a FATAL error stops the device at once; a VDD_PAN fault bunds its group's pans in turn. -/
theorem supplyAndClockFaultsStopTheDeviceOrOneGroup : Obligations.SupplyAndClockFaultsStopTheDeviceOrOneGroup := by
  unfold Obligations.SupplyAndClockFaultsStopTheDeviceOrOneGroup
  intro s hp down stops offRef
  refine ⟨fun hs => ⟨exec_refclkLoss_stopped hp hs, _, exec_thermShutdown_stopped hp hs, rfl, rfl⟩, fun hs => ⟨fun r => ?_, ?_, ?_, fun g => ?_⟩⟩
  · exact ⟨_, exec_railFault hp r hs, State.fatal_withErrs .., State.fatal_errs ..⟩
  · refine ⟨_, exec_refclkLoss hp hs, State.fatal_errs .., ?_⟩
    exact congrArg (fun t : State => { t with edge := { t.edge with refclkOk := false }, i3c := { t.i3c with onRefclk := false } })
      (State.fatal_withErrs s 2 11 0x53)
  · refine ⟨_, exec_thermShutdown hp hs, State.fatal_errs .., ?_, fun a => ?_⟩
    · exact congrArg (fun t : State => { t with mem := s.mem, poison := s.poison, edge := { t.edge with thermShutdown := true, dark := true } })
        (State.fatal_withErrs s 3 12 0x54)
    · have hmem : (s.fatal 3 12 0x54).mem = s.mem := (congrArg State.mem (State.fatal_withErrs s 3 12 0x54) :)
      have hb := State.goDark_byte (s.fatal 3 12 0x54) a
      rw [show (s.fatal 3 12 0x54).byte a = s.byte a by rw [State.byte, hmem]; rfl] at hb
      exact hb
  · obtain ⟨he, hb, -, hr⟩ := State.bundPans 10 {} ((List.range 8).map (8 * g.toNat + ·))
      { s with edge := { s.edge with panSupplyGood := false } }
    refine ⟨_, exec_panSupplyFault hp g hs, he, fun p hg => ⟨?_, hr p (mem_groupPans.mpr hg)⟩, fun p hg => ?_⟩
    · rw [hb, List.contains_iff_mem.mpr (mem_groupPans.mpr hg), Bool.or_true]
    · rw [hb, Bool.eq_false_iff.mpr (fun h => hg (mem_groupPans.mp (List.contains_iff_mem.mp h))), Bool.or_false]
      rfl

end Sys2Proof.Machine

/-! SUPPORT. The spillway: how it engages, releases and climbs (R22, R287 to R289). -/
namespace Sys2Proof.Machine

-- ## Groups

/-- The state without the pan groups, the commands' locks with the refreshes that they owe, and the race slots: what is left is the same
before and after a change of the groups' points. -/
def State.besideGroups (s : State) : State := { s with groups := [], cmds := [], memSys := {}, slots := [] }

theorem State.edge_of_besideGroups {s t : State} (h : t.besideGroups = s.besideGroups) : t.edge = s.edge := (congrArg State.edge h :)
theorem State.power_of_besideGroups {s t : State} (h : t.besideGroups = s.besideGroups) : t.power = s.power := (congrArg State.power h :)

@[simp] theorem State.modGroup_besideGroups (s : State) (g : Nat) (f : Group → Group) : (s.modGroup g f).besideGroups = s.besideGroups := rfl
@[simp] theorem State.setPoint_besideGroups (s : State) (g k : Nat) : (s.setPoint g k).besideGroups = s.besideGroups := rfl
@[simp] theorem State.lockGroup_besideGroups (s : State) (g : Nat) (cause : BitVec 4) :
    (s.lockGroup g cause).besideGroups = s.besideGroups :=
  (congrArg State.besideGroups (State.lockWhere_frame s _ cause) :)
@[simp] theorem State.lockGroup_group (s : State) (g : Nat) (cause : BitVec 4) (j : Nat) : (s.lockGroup g cause).group j = s.group j := by
  have h : (s.lockGroup g cause).groups = s.groups := (congrArg State.groups (State.lockWhere_frame s _ cause) :)
  rw [State.group, h]; rfl
@[simp] theorem State.setPoint_group (s : State) (g k j : Nat) : (s.setPoint g k).group j =
    if j = g then { s.group g with op := BitVec.ofNat 4 k, volt := BitVec.ofNat 10 (s.pointVolt g k), rising := none, riseWait := false }
    else s.group j := State.modGroup_group ..

/-- Causes that fall on requests change the slots alone. -/
theorem State.meetRace_slots (s : State) : { s.meetRace with slots := [] } = { s with slots := [] } := by
  refine foldl_keeps (fun t : State => { t with slots := [] } = { s with slots := [] }) _ _ (fun t i _ h => ?_) s rfl
  split
  · exact h
  · exact h
@[simp] theorem State.meetRace_besideGroups (s : State) : s.meetRace.besideGroups = s.besideGroups := by
  have h := State.meetRace_slots s
  generalize s.meetRace = t at h ⊢
  exact (congrArg State.besideGroups h :)
@[simp] theorem State.meetRace_group (s : State) (j : Nat) : s.meetRace.group j = s.group j := by
  have h := State.meetRace_slots s
  generalize s.meetRace = t at h ⊢
  exact (congrArg (fun u : State => u.group j) h :)

/-- A group's record is changed in turn, by what changes nothing the second time. -/
theorem State.foldl_modGroup_group {f : Group → Group} (hf : ∀ v, f (f v) = f v) (l : List Nat) (s : State) (j : Nat) :
    (l.foldl (fun s g => s.modGroup g f) s).group j = if j ∈ l then f (s.group j) else s.group j := by
  induction l generalizing s with
  | nil => rfl
  | cons g l ih =>
    rw [List.foldl_cons, ih, State.modGroup_group]
    by_cases hj : j = g
    · subst hj; simp [hf]
    · simp [hj]
theorem State.foldl_modGroup_besideGroups (f : Group → Group) (l : List Nat) (s : State) :
    (l.foldl (fun s g => s.modGroup g f) s).besideGroups = s.besideGroups :=
  foldl_keeps (fun t : State => t.besideGroups = s.besideGroups) (fun s g => s.modGroup g f) l (fun _ _ _ h => h) s rfl

-- ## The spillway engages (R22, R287)

/-- A group that the spillway holds: at OP0, with no increase under way. -/
def Group.Spilled (v : Group) : Prop := v.op = 0 ∧ v.rising = none ∧ v.spill = true

/-- The request of the spillway reaches a group. -/
def State.spillGroup (s : State) (g : Nat) : State :=
  ((s.modGroup g fun v => { v with spill := true, climbDue := false }).setPoint g 0).lockGroup g 2

theorem State.spillGroup_besideGroups (s : State) (g : Nat) : (s.spillGroup g).besideGroups = s.besideGroups := by
  rw [State.spillGroup, State.lockGroup_besideGroups, State.setPoint_besideGroups, State.modGroup_besideGroups]
theorem State.spillGroup_spilled (s : State) (g : Nat) : ((s.spillGroup g).group g).Spilled := by
  simp [State.spillGroup, Group.Spilled]
theorem State.spillGroup_keeps (s : State) (g : Nat) {j : Nat} (h : (s.group j).Spilled) : ((s.spillGroup g).group j).Spilled := by
  by_cases hj : j = g
  · subst hj; exact State.spillGroup_spilled s j
  · simpa [State.spillGroup, hj] using h

/-- Groups that the request reaches in turn are all held. -/
theorem State.spillGroups_spilled (l : List Nat) (s : State) {j : Nat} (hj : j ∈ l ∨ (s.group j).Spilled) :
    ((l.foldl State.spillGroup s).group j).Spilled := by
  induction l generalizing s with
  | nil => exact hj.resolve_left (by simp)
  | cons g l ih =>
    refine ih _ ?_
    rcases hj with hj | hj
    · rcases List.mem_cons.mp hj with rfl | hj
      · exact .inr (State.spillGroup_spilled s j)
      · exact .inl hj
    · exact .inr (State.spillGroup_keeps s g hj)

theorem State.engage_of_off {s : State} (h : s.power.spillway = false) : s.engage =
    ((List.range 8).foldl State.spillGroup { s with power := { s.power with spillway := true } }).meetRace := by
  unfold State.engage
  rw [if_neg (by simp [h])]
  rfl

/-- The spillway engages. -/
theorem State.engage_besideGroups (s : State) :
    s.engage.besideGroups = { s with power := { s.power with spillway := true } }.besideGroups := by
  cases h : s.power.spillway with
  | true => rw [State.engage, if_pos h, ← h]
  | false =>
    rw [State.engage_of_off h, State.meetRace_besideGroups]
    exact foldl_keeps (fun t : State => t.besideGroups = _) _ _ (fun t g _ ht => (State.spillGroup_besideGroups t g).trans ht) _ rfl
@[simp] theorem State.engage_edge (s : State) : s.engage.edge = s.edge := (congrArg State.edge (State.engage_besideGroups s) :)
@[simp] theorem State.engage_mem (s : State) : s.engage.mem = s.mem := (congrArg State.mem (State.engage_besideGroups s) :)
@[simp] theorem State.engage_power (s : State) : s.engage.power = { s.power with spillway := true } :=
  State.power_of_besideGroups (State.engage_besideGroups s)
theorem State.engage_spilled {s : State} (h : s.power.spillway = false) {g : Nat} (hg : g < 8) : (s.engage.group g).Spilled := by
  rw [State.engage_of_off h, State.meetRace_group]
  exact State.spillGroups_spilled _ _ (.inl (List.mem_range.mpr hg))

@[simp] theorem State.alertEngage_edge (s : State) : s.alertEngage.edge = { s.edge with regAlertSeen := true } := State.engage_edge _

/-- What an engaged spillway shows, whatever the event changed of the edge before. -/
theorem State.engage_engaged {s : State} (e : Edge) (u : State) (hu : u = { s with edge := e }.engage) :
    u.power.spillway = true ∧ u.mem = s.mem ∧ (s.power.spillway = false → ∀ g, g < 8 →
      (u.group g).op = 0 ∧ (u.group g).rising = none ∧ (u.group g).spill = true) := by
  subst hu
  exact ⟨by rw [State.engage_power], State.engage_mem _, fun h _ hg => State.engage_spilled (s := { s with edge := e }) h hg⟩

-- ## The release and the climbs (R288, R289)

/-- A group that the spillway has released, with its climb to come where the pan groups have their clocks. -/
def Group.released (on : Bool) (v : Group) : Group := { v with spill := false, climbDue := on }

/-- The target of a group does not see a climb that is due. -/
theorem State.target_climb (s : State) (g : Nat) (b stay : Bool) :
    (s.modGroup g fun v => { v with climbDue := b }).target g stay = s.target g stay := by
  have hb : (s.modGroup g fun v => { v with climbDue := b }).boostOk g stay = s.boostOk g stay := by
    simp only [State.boostOk, State.modGroup_group, if_true]
    rfl
  unfold State.target
  rw [hb]
  rfl

/-- A group follows its target: the group alone changes. -/
theorem State.retarget_group_other (s : State) {g j : Nat} (stay : Bool) (h : j ≠ g) : (s.retarget g stay).group j = s.group j := by
  unfold State.retarget
  dsimp only
  split
  · rfl
  · split
    · simp [h]
    · split
      · simp [h]
      · split
        · rfl
        · simp [h]
theorem State.retarget_climbDue (s : State) (g : Nat) (stay : Bool) : ((s.retarget g stay).group g).climbDue = (s.group g).climbDue := by
  unfold State.retarget
  dsimp only
  split
  · rfl
  · split
    · simp
    · split
      · simp
      · split
        · rfl
        · simp

/-- A group below its target begins an increase, unless the same one is under way. -/
theorem State.retarget_rises {s : State} {g : Nat} {stay : Bool} (ho : s.groupsOn = true) (hc : (s.group g).climbDue = false)
    (h : (s.group g).op.toNat < s.target g stay) : (s.retarget g stay).group g = { s.group g with
      rising := some (BitVec.ofNat 4 (s.target g stay))
      riseWait := if (s.group g).rising = some (BitVec.ofNat 4 (s.target g stay)) then (s.group g).riseWait else false } := by
  unfold State.retarget
  dsimp only
  rw [if_neg (by simp [ho, hc]), if_neg (by omega), if_neg (by omega)]
  split
  · next hr => rw [← hr]
  · simp

section
variable {s : State} (hp : s.edge.porst = true) (hs : s.edge.stopped = false)
include hp hs

theorem State.live_of : s.live = true := by simp [State.live, hp, hs]

theorem exec_regAlertAssert_over (hi : s.edge.ignoreOver = true) : exec .regAlertAssert s =
    .next { s with edge := { s.edge with regAlertLow := true } }.alertEngage :=
  congrArg Host.Outcome.next ((if_neg (by simp [State.live_of hp hs])).trans (if_pos hi))
theorem exec_regAlertAssert_early (hi : s.edge.ignoreOver = false) : exec .regAlertAssert s =
    .next { s with edge := { s.edge with regAlertLow := true } } :=
  congrArg Host.Outcome.next ((if_neg (by simp [State.live_of hp hs])).trans (if_neg (by simp [hi])))

theorem exec_ignorePeriodEnd_low (hi : s.edge.ignoreOver = false) : exec (.ignorePeriodEnd true) s =
    .next { s with edge := { s.edge with ignoreOver := true, panSupplyGood := true, regAlertLow := true } }.alertEngage :=
  congrArg Host.Outcome.next ((if_neg (by simp [State.live_of hp hs, hi])).trans (if_pos rfl))
theorem exec_ignorePeriodEnd_high (hi : s.edge.ignoreOver = false) : exec (.ignorePeriodEnd false) s =
    .next { s with edge := { s.edge with ignoreOver := true, panSupplyGood := true, regAlertLow := false } } :=
  congrArg Host.Outcome.next ((if_neg (by simp [State.live_of hp hs, hi])).trans (if_neg (by simp)))

theorem exec_thermTrip : exec .thermTrip s = .next { s with edge := { s.edge with thermTrip := true, thermHot := true } }.engage :=
  congrArg Host.Outcome.next (if_neg (by simp [State.live_of hp hs]))

theorem exec_spillwayRelease (h : s.power.spillway = true) : exec .spillwayRelease s =
    .next ((List.range 8).foldl (fun t g => t.modGroup g (Group.released s.groupsOn))
      { s with edge := { s.edge with regAlertLow := false, thermHot := false }, power := { s.power with spillway := false } }) :=
  congrArg Host.Outcome.next ((if_neg (by simp [State.live_of hp hs])).trans (if_neg (by simp [h])))

theorem exec_spillwayClimb {g : BitVec 3} (h : s.power.spillway = false) (hc : (s.group g.toNat).climbDue = true) :
    exec (.spillwayClimb g) s = .next ((s.modGroup g.toNat fun v => { v with climbDue := false }).retarget g.toNat) :=
  congrArg Host.Outcome.next (if_neg (by simp [State.live_of hp hs, h, hc]))

end

/-- Settles O34: an event of the pin or of a sensor changes the edge and then engages the spillway or not; a release and a climb change the
groups' records in turn. -/
theorem spillwayEngagesReleasesAndClimbs : Obligations.SpillwayEngagesReleasesAndClimbs := by
  unfold Obligations.SpillwayEngagesReleasesAndClimbs
  intro s hp hs engaged
  refine ⟨fun hi => ?_, exec_regAlertAssert_early hp hs, fun hi => ⟨?_, exec_ignorePeriodEnd_high hp hs hi⟩, ?_, fun h => ?_,
    fun g h hc ho => ?_⟩
  · exact ⟨_, exec_regAlertAssert_over hp hs hi, State.engage_engaged _ _ rfl, State.alertEngage_edge _⟩
  · refine ⟨_, exec_ignorePeriodEnd_low hp hs hi, State.engage_engaged _ _ rfl, ?_, ?_⟩
    · rw [State.alertEngage_edge]
    · rw [State.alertEngage_edge]
  · exact ⟨_, exec_thermTrip hp hs, State.engage_engaged _ _ rfl, State.engage_edge _⟩
  · have hf := State.foldl_modGroup_besideGroups (Group.released s.groupsOn) (List.range 8)
      { s with edge := { s.edge with regAlertLow := false, thermHot := false }, power := { s.power with spillway := false } }
    refine ⟨_, exec_spillwayRelease hp hs h, State.power_of_besideGroups hf, State.edge_of_besideGroups hf, fun g hg => ?_⟩
    rw [State.foldl_modGroup_group (f := Group.released s.groupsOn) fun _ => rfl, if_pos (List.mem_range.mpr hg)]
    rfl
  · refine ⟨_, exec_spillwayClimb hp hs h hc, fun j hj => ?_, ?_, fun hlt => ?_⟩
    · rw [State.retarget_group_other _ _ hj, State.modGroup_group, if_neg hj]
    · rw [State.retarget_climbDue, State.modGroup_group, if_pos rfl]
    · have hr := State.retarget_rises (s := s.modGroup g.toNat fun v => { v with climbDue := false }) (g := g.toNat) (stay := true) ho
        (by simp) (by rw [State.target_climb]; simpa using hlt)
      rw [hr, State.target_climb, State.modGroup_group, if_pos rfl]

end Sys2Proof.Machine

/-! SUPPORT. What the entry to a sleep state and its wake leave alone (R278 to R280). -/
namespace Sys2Proof.Machine

-- ## What a power state's entry and its wake do besides

/-- The chip's pins with the power block. -/
def State.edgePower (s : State) : Edge × Power := (s.edge, s.power)

theorem State.edge_of_edgePower {s t : State} (h : t.edgePower = s.edgePower) : t.edge = s.edge := congrArg Prod.fst h
theorem State.power_of_edgePower {s t : State} (h : t.edgePower = s.edgePower) : t.power = s.power := congrArg Prod.snd h

/-- A view of the state that each step of a fold keeps is kept by the fold. -/
theorem foldl_same {α β γ : Type} (view : β → γ) (f : β → α → β) (h : ∀ b a, view (f b a) = view b) (l : List α) (b : β) :
    view (l.foldl f b) = view b :=
  foldl_keeps (fun t => view t = view b) f l (fun t a _ ht => (h t a).trans ht) b rfl

@[simp] theorem State.write_edgePower (s : State) (a : Nat) (bs : List Byte) : (s.write a bs).edgePower = s.edgePower := rfl
@[simp] theorem State.forget_edgePower (s : State) (a n : Nat) : (s.forget a n).edgePower = s.edgePower := rfl
@[simp] theorem State.modChan_edgePower (s : State) (c : Nat) (f : Chan → Chan) : (s.modChan c f).edgePower = s.edgePower := rfl
@[simp] theorem State.flashErase_edgePower (s : State) (a n : Nat) : (s.flashErase a n).edgePower = s.edgePower := rfl
@[simp] theorem State.flashProg_edgePower (s : State) (a : Nat) (bs : List Byte) : (s.flashProg a bs).edgePower = s.edgePower := rfl
@[simp] theorem State.event_edgePower (s : State) (ini : Ini) (code part pan st : Byte) (cl : BitVec 16) :
    (s.event ini code part pan st cl).edgePower = s.edgePower :=
  (congrArg State.edgePower (State.event_frame s ini code part pan st cl) :)
@[simp] theorem State.spillEntry_edgePower (s : State) (e : TEntry) : (s.spillEntry e).edgePower = s.edgePower :=
  (congrArg State.edgePower (State.spillEntry_frame s e) :)

@[simp] theorem State.wipePan_edgePower (s : State) (p : Nat) : (s.wipePan p).edgePower = s.edgePower := by
  unfold State.wipePan
  split <;> rfl
@[simp] theorem State.zeroPans_edgePower (s : State) : s.zeroPans.edgePower = s.edgePower := by
  unfold State.zeroPans
  exact foldl_same State.edgePower _ State.wipePan_edgePower _ s
@[simp] theorem State.gatePans_edgePower (s : State) (on : Bool) : (s.gatePans on).edgePower = s.edgePower := by
  unfold State.gatePans
  refine foldl_same State.edgePower _ (fun t p => ?_) _ s
  rfl

-- ## The tally at SLACK (R279)

theorem State.withTally_edgePower (s : State) (t : Tally) : { s with tally := t }.edgePower = s.edgePower := rfl
@[simp] theorem State.spillAll_edgePower (s : State) : s.spillAll.edgePower = s.edgePower := by
  unfold State.spillAll
  rw [State.withTally_edgePower]
  exact foldl_same State.edgePower _ State.spillEntry_edgePower _ s
@[simp] theorem State.ckptWrite_edgePower (s : State) : s.ckptWrite.edgePower = s.edgePower := by
  unfold State.ckptWrite
  dsimp only
  split
  · rfl
  · split
    · rfl
    · rw [State.event_edgePower]
      split <;> rfl

/-- The state at SLACK's entry before READY falls: the tally is spilled and in the checkpoint, the mailboxes are empty and what the pans, the
tally's SRAM and the saved state hold is lost (R237, R279, R324). -/
def State.slackDrained (s : State) : State :=
  (((((List.range 32).foldl (fun s c => s.modChan c fun v => { v with aToB := [], bToA := [], discard := 0 })
    s.spillAll.ckptWrite.spillAll).gatePans true).zeroPans).forget sramTally 0x50000).forget savedState 0xFE000
@[simp] theorem State.slackDrained_edgePower (s : State) : s.slackDrained.edgePower = s.edgePower := by
  unfold State.slackDrained
  rw [State.forget_edgePower, State.forget_edgePower, State.zeroPans_edgePower, State.gatePans_edgePower,
    foldl_same State.edgePower _ fun _ _ => State.modChan_edgePower .., State.spillAll_edgePower, State.ckptWrite_edgePower,
    State.spillAll_edgePower]

-- ## The Saltern's part in a wake (R278, R314, R362)

@[simp] theorem State.writeKnown_edgePower (s : State) (a : Nat) (bs : List Byte) : (s.writeKnown a bs).edgePower = s.edgePower := rfl
@[simp] theorem State.refuseRequest_edgePower (s : State) : s.refuseRequest.edgePower = s.edgePower := by
  unfold State.refuseRequest
  split <;> rfl
@[simp] theorem State.healthCheck_edgePower (s : State) (raw : List Byte) : (s.healthCheck raw).edgePower = s.edgePower := by
  unfold State.healthCheck
  dsimp only
  split <;> rfl
@[simp] theorem State.drbgReseed_edgePower (s : State) (raw : List Byte) : (s.drbgReseed raw).edgePower = s.edgePower := by
  unfold State.drbgReseed
  dsimp only
  split <;> exact State.healthCheck_edgePower s raw
@[simp] theorem State.drbgInstantiate_edgePower (s : State) (raw : List Byte) : (s.drbgInstantiate raw).edgePower = s.edgePower := by
  unfold State.drbgInstantiate
  dsimp only
  split <;> exact State.healthCheck_edgePower s raw
@[simp] theorem State.wakeSeed_edgePower (s : State) (raw : List Byte) : (s.wakeSeed raw).edgePower = s.edgePower := by
  unfold State.wakeSeed
  split
  · exact State.drbgReseed_edgePower s raw
  · exact State.drbgInstantiate_edgePower s raw
  · rfl

@[simp] theorem State.logAdd_edgePower (s : State) (e : LogEntry) : (s.logAdd e).edgePower = s.edgePower := by
  unfold State.logAdd
  dsimp only
  split
  · rfl
  · split <;> rfl
@[simp] theorem State.extendDebug_edgePower (s : State) (x : Session) : (s.extendDebug x).edgePower = s.edgePower :=
  State.logAdd_edgePower _ _
@[simp] theorem State.debugEvent_edgePower (s : State) : s.debugEvent.edgePower = s.edgePower := State.event_edgePower ..
@[simp] theorem State.settleDebug_edgePower (s : State) : s.settleDebug.edgePower = s.edgePower := by
  have hx := foldl_same State.edgePower (fun t x => t.extendDebug x) State.extendDebug_edgePower s.dbg.toExtend s
  unfold State.settleDebug
  generalize s.dbg.toExtend.foldl (fun t x => t.extendDebug x) s = u at hx ⊢
  dsimp only
  split
  · rfl
  · split
    · exact hx
    · rw [foldl_same State.edgePower _ fun t _ => State.debugEvent_edgePower t]
      exact hx

/-- A group comes up at its target, or at OP0 under the spillway (R278, R289). -/
def State.bringGroup (s : State) (g : Nat) : State :=
  let u := s.modGroup g fun v => { v with spill := s.power.spillway, climbDue := false, stretching := false, tripped := false }
  u.setPoint g (u.target g false)
@[simp] theorem State.bringGroup_edge (s : State) (g : Nat) : (s.bringGroup g).edge = s.edge :=
  State.edge_of_besideGroups ((State.setPoint_besideGroups ..).trans (State.modGroup_besideGroups ..))
@[simp] theorem State.takePower_edge (s : State) : s.takePower.edge = s.edge := rfl
theorem State.bringUp_eq (s : State) : s.bringUp = (List.range 8).foldl State.bringGroup (s.gatePans false).takePower := rfl
/-- The groups' points at a wake change no pin. -/
@[simp] theorem State.bringUp_edge (s : State) : s.bringUp.edge = s.edge := by
  rw [State.bringUp_eq, foldl_same State.edge State.bringGroup State.bringGroup_edge, State.takePower_edge,
    State.edge_of_edgePower (State.gatePans_edgePower s false)]

-- ## Wake events (R280)

theorem State.wakeEvent_doze {s : State} (h : s.power.sleep = .doze) : s.wakeEvent = { s with power := { s.power with sleep := .waking } } := by
  simp only [State.wakeEvent, h]
theorem State.wakeEvent_enteringDoze {s : State} (h : s.power.sleep = .enteringDoze) :
    s.wakeEvent = { s with power := { s.power with wakeHeld := true } } := by
  simp only [State.wakeEvent, h]
theorem State.wakeEvent_awake {s : State} (h : s.power.sleep = .awake) : s.wakeEvent = s := by
  simp only [State.wakeEvent, h]

section
variable {s : State} (hl : s.live = true)
include hl

theorem exec_slackWake_slack (h : s.power.sleep = .slack) : exec .slackWake s = .next { s with
    power := { s.power with sleep := .waking }, edge := { s.edge with ucie0 := .training, ucie1 := .training } } :=
  congrArg Host.Outcome.next ((if_neg (by simp [hl])).trans (by simp only [h]))
theorem exec_slackWake_enteringSlack (h : s.power.sleep = .enteringSlack) :
    exec .slackWake s = .next { s with power := { s.power with wakeHeld := true } } :=
  congrArg Host.Outcome.next ((if_neg (by simp [hl])).trans (by simp only [h]))
theorem exec_slackWake_other (h : s.power.sleep ≠ .slack) (h' : s.power.sleep ≠ .enteringSlack) :
    exec .slackWake s = .next s.wakeEvent :=
  congrArg Host.Outcome.next ((if_neg (by simp [hl])).trans (by split <;> simp_all))

end

/-- DOZE is left with the pins as they were. -/
theorem exec_dozeWake_edge {s t : State} (h : exec .dozeWake s = .next t) : t.edge = s.edge := by
  cases h
  unfold dozeWake
  split
  · rfl
  · dsimp only
    rw [State.bringUp_edge, State.edge_of_edgePower (State.zeroPans_edgePower s)]

/-- The state as the fast path to READY has restored it, before the spillway is looked at: the committed values and shadows `c` are back. -/
def State.wakeRestored (s : State) (raw : List Byte) (c : DevCfg × DevCfg) : State :=
  let u := (s.refuseRequest.writeKnown sramFirmware (s.boot.sfw.getD [])).wakeSeed raw
  { u with
    cfg := c.1
    shadow := c.2
    parts := u.parts.map fun (p : Nat × Part) => (p.1, p.2.retain)
    attest := { u.attest with wakes := satAdd u.attest.wakes 1 }
    boot := { u.boot with wake := true, saved := none }
    edge := { u.edge with ready := true }
    power := { u.power with sleep := .awake } }

theorem State.wakeRestored_ignoreOver (s : State) (raw : List Byte) (c : DevCfg × DevCfg) :
    (s.wakeRestored raw c).edge.ignoreOver = s.edge.ignoreOver := by
  have h : ((s.refuseRequest.writeKnown sramFirmware (s.boot.sfw.getD [])).wakeSeed raw).edgePower = s.edgePower := by
    rw [State.wakeSeed_edgePower, State.writeKnown_edgePower, State.refuseRequest_edgePower]
  unfold State.wakeRestored
  generalize (s.refuseRequest.writeKnown sramFirmware (s.boot.sfw.getD [])).wakeSeed raw = u at h ⊢
  exact (congrArg (fun x : Edge × Power => x.1.ignoreOver) h :)

/-- The regulator's alert engages the spillway where the ignore period is over. -/
def State.alertsAgain (s : State) : State := if s.edge.regAlertLow && s.edge.ignoreOver then s.alertEngage else s
theorem State.alertsAgain_ignoreOver (s : State) : s.alertsAgain.edge.ignoreOver = s.edge.ignoreOver := by
  unfold State.alertsAgain
  split
  · rw [State.alertEngage_edge]
  · rfl

/-- The fast path to READY with both copies good leaves the ignore period as it was. -/
theorem exec_fastWake_ignoreOver {s t : State} {raw : List Byte} {env : BootEnv} (hp : s.copyHolds reserveBase s.boot.pfw = true)
    (hs : s.copyHolds (reserveBase + 0x900000) s.boot.sfw = true) (h : exec (.fastWake raw env) s = .next t) :
    t.edge.ignoreOver = s.edge.ignoreOver := by
  have hwake : fastWake raw env s = s ∨
      fastWake raw env s = (s.wakeRestored raw (s.boot.saved.getD (s.cfg, s.shadow))).alertsAgain.bringUp.settleDebug := by
    unfold fastWake
    split
    · exact .inl rfl
    · rw [if_neg (by simp [hp, hs])]
      right
      cases s.boot.saved with
      | none => rfl
      | some c => rfl
  cases h
  rcases hwake with h | h
  · rw [h]
  · rw [h, State.edge_of_edgePower (State.settleDebug_edgePower _), State.bringUp_edge, State.alertsAgain_ignoreOver,
      State.wakeRestored_ignoreOver]

theorem exec_dozeEntry_power {s : State} (h : s.power.sleep = .enteringDoze) (hd : s.drainOver = true) : ∃ t, exec .dozeEntry s = .next t
    ∧ t.power = { s.power with sleep := if s.power.wakeHeld then .waking else .doze, wakeHeld := false } := by
  have hk : ((s.gatePans true).zeroPans).power = s.power :=
    State.power_of_edgePower ((State.zeroPans_edgePower _).trans (State.gatePans_edgePower s true))
  refine ⟨_, congrArg Host.Outcome.next (if_neg (by simp [h, hd])), ?_⟩
  dsimp only
  rw [hk]
theorem exec_slackEntry_power {s : State} (h : s.power.sleep = .enteringSlack) (hd : s.drainOver = true) : ∃ t, exec .slackEntry s = .next t
    ∧ t.power = { s.power with sleep := if s.power.wakeHeld then .waking else .slack, wakeHeld := false } := by
  have hk : s.slackDrained.power = s.power := State.power_of_edgePower s.slackDrained_edgePower
  refine ⟨_, congrArg Host.Outcome.next (if_neg (by simp [h, hd])), ?_⟩
  unfold State.slackDrained at hk
  dsimp only
  rw [hk]

/-- Settles O35: SLACK_WAKE is answered by the power state in which it comes, and no step of an entry or a wake but the last touches the
power block or the ignore period. -/
theorem wakeEventsActOrAreHeld : Obligations.WakeEventsActOrAreHeld := by
  intro s hp hs
  dsimp only
  have hl := State.live_of hp hs
  refine ⟨?_, fun h => ?_, ?_, State.wakeEvent_enteringDoze, exec_dozeEntry_power, fun h hd => ?_, fun t h => ?_,
    fun _ _ _ hpfw hsfw h => exec_fastWake_ignoreOver hpfw hsfw h⟩
  · rintro (h | h)
    · exact ⟨_, exec_slackWake_other hl (by simp [h]) (by simp [h]), by rw [State.wakeEvent_doze h]⟩
    · exact ⟨_, exec_slackWake_slack hl h, rfl⟩
  · rw [exec_slackWake_other hl (by simp [h]) (by simp [h]), State.wakeEvent_awake h]
  · rintro (h | h)
    · rw [exec_slackWake_other hl (by simp [h]) (by simp [h]), State.wakeEvent_enteringDoze h]
    · exact exec_slackWake_enteringSlack hl h
  · obtain ⟨t, ht, hpow⟩ := exec_slackEntry_power h hd
    exact ⟨t, ht, congrArg Power.sleep hpow, congrArg Power.wakeHeld hpow⟩
  · rw [exec_dozeWake_edge h]

end Sys2Proof.Machine

/-! SUPPORT. What descriptors, programs and refused requests leave alone, and what a tamper event leaves (R318, R320, R338, R364). -/
namespace Sys2Proof.Machine

-- ## What descriptors and programs leave alone

/-- What no digest descriptor and no PKE program changes: the Saltern with its keys, the fuses' requests, the boot, and the state of the
DRBG with its buffer. -/
def State.besideEngines (s : State) : Saltern × Otp × Boot × DrbgState × List Byte :=
  (s.saltern, s.otp, s.boot, s.eng.drbg, s.eng.entropy)

theorem State.keeps_of_besideEngines {s t : State} (h : t.besideEngines = s.besideEngines) : t.saltern = s.saltern ∧ t.otp = s.otp
    ∧ t.boot = s.boot ∧ t.eng.drbg = s.eng.drbg ∧ t.eng.entropy = s.eng.entropy := by
  simpa only [State.besideEngines, Prod.mk.injEq] using h

@[simp] theorem State.writeKnown_besideEngines (s : State) (a : Nat) (bs : List Byte) :
    (s.writeKnown a bs).besideEngines = s.besideEngines := rfl
@[simp] theorem State.engineWrite_besideEngines (s : State) (a : Nat) (bs : List Byte) :
    (s.engineWrite a bs).besideEngines = s.besideEngines := by
  unfold State.engineWrite
  dsimp only
  split <;> rfl
@[simp] theorem State.coreWrite_besideEngines (s : State) (a : Nat) (bs : List Byte) :
    (s.coreWrite a bs).besideEngines = s.besideEngines := by
  unfold State.coreWrite
  dsimp only
  split
  · rfl
  · split
    · exact State.engineWrite_besideEngines s _ bs
    · rfl
@[simp] theorem State.logAdd_besideEngines (s : State) (e : LogEntry) : (s.logAdd e).besideEngines = s.besideEngines := by
  unfold State.logAdd
  dsimp only
  split
  · rfl
  · split <;> rfl
@[simp] theorem State.descExtend_besideEngines (s : State) (mr : Nat) (v : Option (List Byte)) :
    (s.descExtend mr v).besideEngines = s.besideEngines :=
  State.logAdd_besideEngines _ _
@[simp] theorem State.descStatus_besideEngines (s : State) (a code : Nat) (trunc : Bool) (ctx : Nat) :
    (s.descStatus a code trunc ctx).besideEngines = s.besideEngines :=
  State.coreWrite_besideEngines s _ _
@[simp] theorem State.setDctx_besideEngines (s : State) (i : Nat) (c : DigestCtx) : (s.setDctx i c).besideEngines = s.besideEngines := rfl
@[simp] theorem State.sayAborted_besideEngines (s : State) (op slot : Nat) : (s.sayAborted op slot).besideEngines = s.besideEngines := rfl
@[simp] theorem State.countTrunc_besideEngines (s : State) : s.countTrunc.besideEngines = s.besideEngines := rfl
@[simp] theorem State.countShort_besideEngines (s : State) : s.countShort.besideEngines = s.besideEngines := rfl
@[simp] theorem State.looseBytes_besideEngines (s : State) (a n : Nat) : (s.looseBytes a n).2.besideEngines = s.besideEngines := rfl
@[simp] theorem State.coreRead_besideEngines (s : State) (a n : Nat) : (s.coreRead a n).2.besideEngines = s.besideEngines := by
  unfold State.coreRead
  split
  · rfl
  · split
    · rfl
    · split <;> rfl
@[simp] theorem State.descInput_besideEngines (s : State) (desc stream : List Byte) (n : Nat) :
    (s.descInput desc stream n).2.besideEngines = s.besideEngines := by
  unfold State.descInput
  split
  · rfl
  · exact State.coreRead_besideEngines s _ n
@[simp] theorem State.descShort_besideEngines (s : State) (a i : Nat) (ext : Option Nat) :
    (s.descShort a i ext).besideEngines = s.besideEngines := by
  unfold State.descShort
  rw [State.descStatus_besideEngines]
  cases ext with
  | none => rfl
  | some mr => exact State.descExtend_besideEngines _ mr none

theorem State.descRun_besideEngines {s t : State} {a : Nat} {stream : List Byte} (h : s.descRun a stream = some t) :
    t.besideEngines = s.besideEngines := by
  unfold State.descRun at h
  dsimp only at h
  split at h
  · cases h
  · cases h
    simp
  · next i c _ =>
    cases h
    generalize hb : (if bitAt _ 0 then s.sayAborted _ _ else s) = b
    have hbs : b.besideEngines = s.besideEngines := by
      rw [← hb]
      split <;> rfl
    generalize hx : b.descInput _ stream _ = x
    have hxs : x.2.besideEngines = s.besideEngines := by rw [← hx, State.descInput_besideEngines, hbs]
    obtain ⟨input, u⟩ := x
    cases input with
    | none => rw [State.descShort_besideEngines]; exact hxs
    | some input =>
      simp only [apply_ite State.besideEngines, State.descShort_besideEngines, State.descStatus_besideEngines,
        State.setDctx_besideEngines, State.descExtend_besideEngines, State.coreWrite_besideEngines, State.countTrunc_besideEngines,
        ite_self]
      exact hxs

theorem State.descTry_besideEngines (s : State) (w : Nat × List Byte) : (s.descTry w).besideEngines = s.besideEngines := by
  unfold State.descTry
  split
  · next t h => exact State.descRun_besideEngines h
  · rfl
@[simp] theorem State.settleDigests_besideEngines (s : State) : s.settleDigests.besideEngines = s.besideEngines := by
  unfold State.settleDigests
  rw [foldl_same State.besideEngines _ State.descTry_besideEngines]
  rfl
/-- Where no descriptor waits, none goes on. -/
theorem State.settleDigests_nil {s : State} (h : s.eng.waiting = []) : s.settleDigests = s := by
  unfold State.settleDigests
  rw [h]
  show { s with eng := { s.eng with waiting := [] } } = s
  rw [← h]

-- ## Programs

@[simp] theorem State.pkeEnd_besideEngines (s : State) (code : Nat) (clamp : Bool) (outs : List (List DWord)) :
    (s.pkeEnd code clamp outs).besideEngines = s.besideEngines := rfl
@[simp] theorem State.pkeBegin_besideEngines (s : State) (r : PkeReq) : (s.pkeBegin r).besideEngines = s.besideEngines := rfl
@[simp] theorem State.withPke_besideEngines (s : State) (l : List PkeReq) : (s.withPke l).besideEngines = s.besideEngines := rfl

theorem State.withDrbg_besideEngines (s : State) (k v : List Byte) (n : Nat) :
    { s with eng := { s.eng with drbgK := k, drbgV := v, drbgCount := n } }.besideEngines = s.besideEngines := rfl
theorem State.drbgTake_besideEngines {s t : State} {n : Nat} {bs : List Byte} (h : s.drbgTake n = some (bs, t)) :
    t.besideEngines = s.besideEngines := by
  unfold State.drbgTake at h
  split at h
  · cases h
  · cases h
    exact State.withDrbg_besideEngines ..
theorem ecdsaSign_besideEngines {c : Curve} {d e : Nat} {x : Nat × Nat} {t : State} (fuel : Nat) :
    ∀ s : State, ecdsaSign c fuel d e s = some (x, t) → t.besideEngines = s.besideEngines := by
  induction fuel with
  | zero => exact fun s h => nomatch h
  | succ fuel ih =>
    intro s h
    unfold ecdsaSign at h
    split at h
    · cases h
    · next bs u hu =>
      have hus := State.drbgTake_besideEngines hu
      split at h
      · cases h
        exact hus
      · exact (ih u h).trans hus
theorem State.ecSign_besideEngines {s t : State} {c : Curve} {w : Nat} (h : s.ecSign c w = some t) :
    t.besideEngines = s.besideEngines := by
  obtain ⟨⟨x, u⟩, hx, rfl⟩ := Option.map_eq_some_iff.mp h
  exact (State.pkeEnd_besideEngines u _ _ _).trans (ecdsaSign_besideEngines 64 s hx)
theorem State.mlSignRun_besideEngines {s t : State} {msg : List Byte} (h : s.mlSignRun msg = some t) :
    t.besideEngines = s.besideEngines := by
  unfold State.mlSignRun at h
  split at h
  · cases h
  · next rnd u hu =>
    obtain ⟨g, -, rfl⟩ := Option.map_eq_some_iff.mp h
    exact (State.pkeEnd_besideEngines u _ _ _).trans (State.drbgTake_besideEngines hu)
theorem State.ecdhRun_besideEngines (s : State) : s.ecdhRun.besideEngines = s.besideEngines := by
  unfold State.ecdhRun
  split <;> rfl
theorem State.rsaRun_besideEngines (s : State) (bits : Nat) : (s.rsaRun bits).besideEngines = s.besideEngines := by
  unfold State.rsaRun
  dsimp only
  split <;> rfl
theorem State.pkeProgram_besideEngines {s t : State} {r : PkeReq} (h : s.pkeProgram r = some t) : t.besideEngines = s.besideEngines := by
  unfold State.pkeProgram at h
  split at h
  · exact State.ecSign_besideEngines h
  · cases h; rfl
  · cases h; rfl
  · exact State.ecSign_besideEngines h
  · cases h; rfl
  · cases h; rfl
  · cases h; exact State.ecdhRun_besideEngines s
  · cases h; rfl
  · exact State.mlSignRun_besideEngines h
  · cases h; rfl
  · cases h; exact State.rsaRun_besideEngines s 3072
  · cases h; exact State.rsaRun_besideEngines s 4096
theorem State.pkeRun_besideEngines {s t : State} {r : PkeReq} (h : s.pkeRun r = some t) : t.besideEngines = s.besideEngines := by
  unfold State.pkeRun at h
  split at h
  · cases h; rfl
  · split at h
    · cases h; rfl
    · split at h
      · cases h; rfl
      · split at h
        · cases h
        · exact (State.pkeProgram_besideEngines h).trans (State.pkeBegin_besideEngines s r)
theorem State.settlePke_besideEngines (fuel : Nat) : ∀ s : State, (s.settlePke fuel).besideEngines = s.besideEngines := by
  induction fuel with
  | zero => exact fun s => rfl
  | succ fuel ih =>
    intro s
    cases hq : s.eng.pke with
    | nil => rw [State.settlePke_nil _ hq]
    | cons r rest =>
      rw [State.settlePke_cons fuel hq]
      cases hr : s.pkeRun r with
      | none => rfl
      | some t => exact ((ih _).trans (State.withPke_besideEngines t rest)).trans (State.pkeRun_besideEngines hr)

@[simp] theorem State.settleEngines_besideEngines (s : State) : s.settleEngines.besideEngines = s.besideEngines :=
  (State.settleDigests_besideEngines _).trans (State.settlePke_besideEngines _ s)
/-- Where no program and no descriptor is left, nothing goes on. -/
theorem State.settleEngines_idle {s : State} (hp : s.eng.pke = []) (hw : s.eng.waiting = []) : s.settleEngines = s := by
  unfold State.settleEngines
  rw [State.settlePke_nil _ hp, State.settleDigests_nil hw]

-- ## What a tamper event leaves (R318, R320)

/-- The end of a programming request changes the requests and the channels alone. -/
theorem State.endJob_frame (s : State) (j : OtpJob) (status : Nat) :
    { s.endJob j status with otp := s.otp, chans := s.chans } = s := by
  unfold State.endJob
  dsimp only
  split <;> rfl
theorem State.endJob_otp (s : State) (j : OtpJob) (status : Nat) : (s.endJob j status).otp = { s.otp with job := none } := by
  unfold State.endJob
  dsimp only
  split <;> rfl

/-- The request in progress has stopped, its bit left as said. -/
def State.stopJob (s : State) (left : FuseOutcome) (status : Nat) : State :=
  match s.otp.job with
  | some j => match j.bits with
    | (w, b) :: _ => ({ s with otp := s.otp.pulse w b left }).endJob j status
    | [] => s.endJob j status
  | none => s
theorem State.stopJob_frame (s : State) (left : FuseOutcome) (status : Nat) :
    { s.stopJob left status with otp := s.otp, chans := s.chans } = s := by
  unfold State.stopJob
  split
  · split
    · next w b _ _ => exact (congrArg (fun t : State => { t with otp := s.otp })
        (State.endJob_frame { s with otp := s.otp.pulse w b left } _ status) :)
    · exact State.endJob_frame s _ status
  · rfl
theorem State.stopJob_job (s : State) (left : FuseOutcome) (status : Nat) : (s.stopJob left status).otp.job = none := by
  unfold State.stopJob
  split
  · split <;> rw [State.endJob_otp]
  · next h => exact h
theorem State.stopJobs_eq (s : State) (left : FuseOutcome) (status : Nat) : s.stopJobs left status =
    (s.stopJob left status).otp.waiting.foldl (fun s j => s.endJob j status)
      { s.stopJob left status with otp := { (s.stopJob left status).otp with waiting := [] } } := rfl
/-- Programming stops: no request is left, and the fuses and the channels alone have changed (R318, R338). -/
theorem State.stopJobs_frame (s : State) (left : FuseOutcome) (status : Nat) :
    { s.stopJobs left status with otp := s.otp, chans := s.chans } = s := by
  have h := State.stopJob_frame s left status
  rw [State.stopJobs_eq]
  generalize s.stopJob left status = u at h ⊢
  refine foldl_keeps (fun t : State => { t with otp := s.otp, chans := s.chans } = s) _ _ (fun t j _ ht => ?_) _ h
  exact ((congrArg (fun t : State => { t with otp := s.otp, chans := s.chans }) (State.endJob_frame t j status) :).trans ht)
theorem State.stopJobs_idle (s : State) (left : FuseOutcome) (status : Nat) :
    (s.stopJobs left status).otp.job = none ∧ (s.stopJobs left status).otp.waiting = [] := by
  have h := State.stopJob_job s left status
  rw [State.stopJobs_eq]
  generalize s.stopJob left status = u at h ⊢
  refine foldl_keeps (fun t : State => t.otp.job = none ∧ t.otp.waiting = []) _ _ (fun t j _ ht => ?_) _ ⟨h, rfl⟩
  rw [State.endJob_otp]
  exact ⟨rfl, ht.2⟩

/-- The Saltern after a tamper event: no key is left, and the event is latched, counted and noted. -/
def Saltern.tamper (t : Saltern) (src : TamperSource) (asleep : Bool) : Saltern :=
  { t with
    slots := [], tamperCount := satAdd t.tamperCount 1, tampered := true, inSlack := asleep
    clockGlitch := t.clockGlitch || src == .clockGlitch
    voltGlitch := t.voltGlitch || (src == .aonGlitch || src == .coreGlitch)
    pinSeen := t.pinSeen || src == .pin }
/-- The lower of a count's next value and its limit. -/
theorem toNat_satAdd_one (x : BitVec 16) : (satAdd x 1).toNat = min (x.toNat + 1) 0xFFFF := by
  simp only [satAdd, BitVec.toNat_ofNat]
  omega
/-- A Saltern that differs from the one after a tamper event in the turn alone holds no key and has the event on record. -/
theorem Saltern.tamper_record {t u : Saltern} {src : TamperSource} {asleep : Bool}
    (h : { u with turn := 0 } = { t.tamper src asleep with turn := 0 }) :
    u.slots = [] ∧ u.tampered = true ∧ u.tamperCount.toNat = min (t.tamperCount.toNat + 1) 0xFFFF ∧ u.inSlack = asleep
      ∧ (u.pinSeen = true ↔ t.pinSeen = true ∨ src = .pin) ∧ (u.clockGlitch = true ↔ t.clockGlitch = true ∨ src = .clockGlitch)
      ∧ (u.voltGlitch = true ↔ t.voltGlitch = true ∨ src = .aonGlitch ∨ src = .coreGlitch) := by
  have hpin : u.pinSeen = (t.pinSeen || src == .pin) := (congrArg Saltern.pinSeen h :)
  have hclk : u.clockGlitch = (t.clockGlitch || src == .clockGlitch) := (congrArg Saltern.clockGlitch h :)
  have hvolt : u.voltGlitch = (t.voltGlitch || (src == .aonGlitch || src == .coreGlitch)) := (congrArg Saltern.voltGlitch h :)
  have hcount : u.tamperCount = satAdd t.tamperCount 1 := (congrArg Saltern.tamperCount h :)
  refine ⟨(congrArg Saltern.slots h :), (congrArg Saltern.tampered h :), ?_, (congrArg Saltern.inSlack h :), ?_, ?_, ?_⟩
  · rw [hcount, toNat_satAdd_one]
  · simp [hpin]
  · simp [hclk]
  · simp [hvolt]
/-- The engines after a tamper event, before what waits goes on. -/
def Engines.tamper (e : Engines) : Engines :=
  { ((e.abortCtxs fun _ => true).abortPke).wipePke with
    ctxs := [], drbg := if e.drbg == .error then .error else .uninstantiated, drbgK := [], drbgV := [], drbgCount := 0, entropy := [] }

theorem Engines.abortPke_keeps (e : Engines) : e.abortPke.waiting = e.waiting ∧ e.abortPke.aborted = e.aborted
    ∧ e.abortPke.pke = e.pke.drop 1 := by
  unfold Engines.abortPke
  split
  · next h =>
    rw [List.isEmpty_iff] at h
    simp [h]
  · exact ⟨rfl, rfl, rfl⟩
theorem Engines.tamper_waiting (e : Engines) : e.tamper.waiting = e.waiting := (Engines.abortPke_keeps _).1
theorem Engines.tamper_pke (e : Engines) : e.tamper.pke = e.pke.drop 1 := (Engines.abortPke_keeps _).2.2
theorem Engines.mem_tamper_aborted {e : Engines} {c : Nat × DigestCtx} (hc : c ∈ e.ctxs) (hb : c.2.busy = true) :
    (c.2.op.toNat, c.2.slot) ∈ e.tamper.aborted := by
  have h : e.tamper.aborted = (e.abortCtxs fun _ => true).aborted := (Engines.abortPke_keeps _).2.1
  rw [h, Engines.abortCtxs, List.mem_append, List.mem_map]
  exact .inr ⟨c, List.mem_filter.mpr ⟨hc, by simp [hb]⟩, rfl⟩
theorem Engines.tamper_drbg (e : Engines) : e.tamper.drbg ≠ .ready := by
  unfold Engines.tamper
  dsimp only
  split <;> simp

/-- A device after a tamper event, before its engines, its boot and its mailboxes go on. -/
def State.tampered (s : State) (src : TamperSource) (left : FuseOutcome) : State :=
  let u := s.stopJobs left svAborted
  { u with saltern := u.saltern.tamper src (u.power.sleep == .slack), eng := u.eng.tamper }
theorem State.tampered_frame (s : State) (src : TamperSource) (left : FuseOutcome) :
    { s.tampered src left with saltern := s.saltern, eng := s.eng, otp := s.otp, chans := s.chans } = s := by
  have h := State.stopJobs_frame s left svAborted
  unfold State.tampered
  generalize s.stopJobs left svAborted = u at h ⊢
  exact (congrArg (fun t : State => { t with saltern := s.saltern, eng := s.eng }) h :)
theorem State.tampered_saltern (s : State) (src : TamperSource) (left : FuseOutcome) :
    (s.tampered src left).saltern = s.saltern.tamper src (s.power.sleep == .slack) := by
  have h := State.stopJobs_frame s left svAborted
  unfold State.tampered
  generalize s.stopJobs left svAborted = u at h ⊢
  exact (congrArg (fun t : State => t.saltern.tamper src (t.power.sleep == .slack)) h :)
theorem State.tampered_eng (s : State) (src : TamperSource) (left : FuseOutcome) : (s.tampered src left).eng = s.eng.tamper := by
  have h := State.stopJobs_frame s left svAborted
  unfold State.tampered
  generalize s.stopJobs left svAborted = u at h ⊢
  exact (congrArg (fun t : State => t.eng.tamper) h :)

/-- What goes on once a tamper event has wiped the device: the engines, where they run, and then the boot. -/
def State.goesOn (s : State) : State := (if s.enginesRun then s.settleEngines else s).boots
theorem State.goesOn_besideEngines {s : State} (h : s.boot.stage = .done) : s.goesOn.besideEngines = s.besideEngines := by
  have he : (if s.enginesRun then s.settleEngines else s).besideEngines = s.besideEngines := by
    split
    · exact State.settleEngines_besideEngines s
    · rfl
  unfold State.goesOn
  generalize (if s.enginesRun then s.settleEngines else s) = u at he ⊢
  have hb : u.boot = s.boot := (State.keeps_of_besideEngines he).2.2.1
  rwa [State.boots_done (by rw [hb]; exact h)]
/-- Where no program and no descriptor is left and the boot is over, nothing goes on. -/
theorem State.goesOn_idle {s : State} (h : s.boot.stage = .done) (hp : s.eng.pke = []) (hw : s.eng.waiting = []) : s.goesOn = s := by
  unfold State.goesOn
  rw [State.settleEngines_idle hp hw, ite_self, State.boots_done h]

/-- The state without the mailboxes and the Saltern's turn among them. -/
def State.besideMbx (s : State) : State := { s with chans := [], saltern := { s.saltern with turn := 0 } }
theorem State.refused_besideMbx (s : State) (c : Nat) (r : SvcReq) :
    ((s.takeRequest c r).reply c r.tag svBadService false []).besideMbx = s.besideMbx := rfl
/-- Requests that are refused by themselves change the channels and the Saltern's turn alone (R325, R327). -/
theorem State.settleMbx_besideMbx (s : State) : s.settleMbx.besideMbx = s.besideMbx :=
  State.settleMbx_keeps (fun t => t.besideMbx = s.besideMbx) (fun t c r h => (State.refused_besideMbx t c r).trans h) s rfl

theorem exec_tamperEvent {s : State} {src : TamperSource} (left : FuseOutcome) (h : s.sensorOn src = true) (hd : s.boot.stage = .done) :
    exec (.tamperEvent src left) s = .next (s.tampered src left).goesOn.settleMbx := by
  have hn : ¬ (!s.sensorOn src) = true := by simp [h]
  refine congrArg Host.Outcome.next ((if_neg hn).trans ?_)
  rw [hd]
  rfl

/-- Settles O36: the event wipes and latches at once, and what goes on after it - engines, boot and mailboxes - touches neither the keys nor
the record of the event, and nothing at all where nothing waits. -/
theorem tamperEventsWipeKeysAndLetComputeRun : Obligations.TamperEventsWipeKeysAndLetComputeRun := by
  intro s src left
  refine ⟨fun h => congrArg Host.Outcome.next (if_pos (by simp [h])), fun h hd => ⟨_, exec_tamperEvent left h hd, ?_⟩⟩
  have hu := s.tampered_frame src left
  have hsal := s.tampered_saltern src left
  have heng := s.tampered_eng src left
  have hotp : (s.tampered src left).otp.job = none ∧ (s.tampered src left).otp.waiting = [] := s.stopJobs_idle left svAborted
  generalize s.tampered src left = u at hu hsal heng hotp ⊢
  have hdone : u.boot.stage = .done := (congrArg (fun t : State => t.boot.stage) hu :).trans hd
  have hgo := State.goesOn_besideEngines hdone
  have hidle := @State.goesOn_idle u hdone
  generalize u.goesOn = v at hgo hidle ⊢
  have hmbx := v.settleMbx_besideMbx
  generalize v.settleMbx = t at hmbx ⊢
  obtain ⟨hvsal, hvotp, -, hvdrbg, hventropy⟩ := State.keeps_of_besideEngines hgo
  have hteng : t.eng = v.eng := (congrArg State.eng hmbx :)
  have htotp : t.otp = u.otp := (congrArg State.otp hmbx :).trans hvotp
  have htsal : { t.saltern with turn := 0 } = { s.saltern.tamper src (s.power.sleep == .slack) with turn := 0 } := by
    rw [← hsal, ← hvsal]
    exact (congrArg State.saltern hmbx :)
  obtain ⟨hslots, htampered, hcount, hslack, hsources⟩ := Saltern.tamper_record htsal
  refine ⟨fun hw hp => ?_, fun n => ?_, ?_, ?_, ?_, ?_, htampered, hcount, hslack, hsources⟩
  · have hvu : v = u := hidle (by rw [heng, Engines.tamper_pke, List.drop_eq_nil_iff]; exact hp)
      (by rw [heng, Engines.tamper_waiting]; exact hw)
    have ht : t.eng = s.eng.tamper := by rw [hteng, hvu, heng]
    refine ⟨?_, by rw [ht]; rfl, by rw [ht]; rfl, by rw [ht]; rfl, by rw [ht]; rfl, ?_, fun c hc hb => ?_⟩
    · rw [hvu] at hmbx
      exact (congrArg (fun x : State => { x with saltern := s.saltern, eng := s.eng, otp := s.otp, chans := s.chans }) hmbx :).trans hu
    · rw [ht, Engines.tamper_pke, List.drop_eq_nil_iff]
      exact hp
    · rw [ht]
      exact Engines.mem_tamper_aborted hc hb
  · rw [State.key, hslots]
    rfl
  · rw [hteng, hventropy, heng]
    rfl
  · rw [hteng, hvdrbg, heng]
    exact s.eng.tamper_drbg
  · rw [htotp]
    exact hotp.1
  · rw [htotp]
    exact hotp.2

end Sys2Proof.Machine

/-! SUPPORT. Operands of the vector unit: how long they are, packed and unpacked, and what VEC and REDUCE leave (R45, R46, R95, R96). -/
namespace Sys2Proof.Machine

-- ## Packed elements

theorem Fmt.bits_le (f : Fmt) : f.bits ≤ 32 := by cases f <;> decide

/-- A packed element of a format of whole bytes takes its bytes. -/
theorem length_pack_bytes {f : Fmt} (h : f.bits ≠ 4) (cs : List Nat) : (pack f cs).length = cs.length * (f.bits / 8) := by
  simp [pack, h]

@[simp] theorem length_pack_fp32 (cs : List Nat) : (pack .fp32 cs).length = 4 * cs.length := by
  rw [length_pack_bytes (by decide), Nat.mul_comm]
  rfl

@[simp] theorem State.length_slotElems (s : State) (p : Nat) (sl : Slot22) (k : Nat) (f : Fmt) (n : Nat) :
    (s.slotElems p sl k f n).length = n := by simp [State.slotElems, unpack]

@[simp] theorem length_vecSource (s : State) (p : Nat) (sl : Slot22) (one : Bool) (n : Nat) : (vecSource s p sl one n).length = n := by
  unfold vecSource
  split <;> simp

/-- No packed operand takes more than four bytes an element, the half byte kept beyond an odd count included. -/
theorem length_pack_halfKept (s : State) (p : Nat) (sl : Slot22) (f : Fmt) (cs : List Nat) :
    (pack f (cs ++ halfKept s p sl f cs.length)).length ≤ 4 * cs.length := by
  by_cases hf : f.bits = 4
  · by_cases ho : cs.length % 2 = 1
    · simp [pack, halfKept, hf, ho, cdiv]
      omega
    · simp [pack, halfKept, hf, ho, cdiv]
      omega
  · have hb := f.bits_le
    have hk : halfKept s p sl f cs.length = [] := by simp [halfKept, hf]
    rw [hk, List.append_nil, length_pack_bytes hf, Nat.mul_comm]
    exact Nat.mul_le_mul_right _ (by omega)

@[simp] theorem halfKept_fp32 (s : State) (p : Nat) (sl : Slot22) (n : Nat) : halfKept s p sl .fp32 n = [] := rfl

/-- Elements are written as one run of bytes, the half byte beyond them among it. -/
theorem State.putElems_eq_slotWrite (s : State) (p : Nat) (sl : Slot22) (f : Fmt) (cs : List Nat) :
    s.putElems p sl 0 f cs = s.slotWrite p sl 0 (pack f (cs ++ halfKept s p sl f cs.length)) := by
  unfold State.putElems halfKept
  rw [Nat.zero_add]
  dsimp only
  split
  · rfl
  · rw [List.append_nil]

/-- FP32 elements leave no half byte. -/
theorem State.putElems_fp32 (s : State) (p : Nat) (sl : Slot22) (k : Nat) (cs : List Nat) :
    s.putElems p sl k .fp32 cs = s.slotWrite p sl k (pack .fp32 cs) := rfl

theorem Slot22.le_size (sl : Slot22) : 0x40000 ≤ sl.size := by
  unfold Slot22.size
  split <;> decide

theorem vecLen_le (w : Nat) : vecLen w ≤ 0x10000 := by
  unfold vecLen fld
  omega

/-- A computation that raises nothing on any element. -/
theorem Arith.go_mapM_pure {α : Type} (g : α → Nat) (l : List α) :
    Arith.go (l.mapM fun x => (pure (g x) : Arith Nat)) = (l.map g, 0) := by
  rw [List.mapM_pure]
  rfl

-- ## VEC (R45, R95)

section
variable {s : State} {p : BitVec 6} {e : PEnv} {f : Nat} {int : Bool} {i : Instr}

/-- A VEC row that puts as many results as the word's vector has elements completes with them. -/
theorem panWrites_of_vecPut {act : PEnv → State → Done} {dst : Fmt} {r : List Nat × AFlags} (h : Runs s p e kVec f)
    (hint : bitAt e.w 118 = int) (hx : exec i s = .next (panRow kVec (vecIs f int) act p [] s)) (ha : act e s = vecPut e s dst r)
    (hn : r.1.length = vecLen e.w) :
    PanWrites i p.toNat (slotAt e.w 4) (pack dst (r.1 ++ halfKept s p.toNat (slotAt e.w 4) dst (vecLen e.w))) r.2 s s (s.pan p.toNat) := by
  obtain ⟨hfetch, hclass, hfunc⟩ := h
  obtain ⟨hp, -, -⟩ := State.fetch_some hfetch
  refine panWrites_of_plain (c := vecCost e.w) ⟨hfetch, hclass, hfunc⟩ (by simp [vecIs, hfunc, hint]) hx ?_ ?_
  · rw [ha, vecPut, State.putElems_eq_slotWrite, hp, hn]
  · have hle := length_pack_halfKept s p.toNat (slotAt e.w 4) dst r.1
    have hlen := vecLen_le e.w
    have hsize := (slotAt e.w 4).le_size
    rw [hn] at hle
    omega

/-- A VEC row of FP32 or INT32 results. -/
theorem panWrites_of_vecPut_fp32 {act : PEnv → State → Done} {r : List Nat × AFlags} (h : Runs s p e kVec f)
    (hint : bitAt e.w 118 = int) (hx : exec i s = .next (panRow kVec (vecIs f int) act p [] s)) (ha : act e s = vecPut e s .fp32 r)
    (hn : r.1.length = vecLen e.w) :
    PanWrites i p.toNat (slotAt e.w 4) (pack .fp32 r.1) r.2 s s (s.pan p.toNat) := by
  have hput := panWrites_of_vecPut h hint hx ha hn
  rwa [halfKept_fp32, List.append_nil] at hput

/-- A function of one operand. -/
theorem panWrites_vecUn {act : PEnv → State → Done} {op : Nat → Arith Nat} (h : Runs s p e kVec f) (hint : bitAt e.w 118 = int)
    (hx : exec i s = .next (panRow kVec (vecIs f int) act p [] s)) (ha : act e s = vecUn op e s) :
    let r := Arith.go ((vecSource s p.toNat (slotAt e.w 70) false (vecLen e.w)).mapM op)
    PanWrites i p.toNat (slotAt e.w 4) (pack .fp32 r.1) r.2 s s (s.pan p.toNat) := by
  obtain ⟨hp, -, -⟩ := State.fetch_some h.1
  exact panWrites_of_vecPut_fp32 h hint hx (by rw [ha, ← hp]; rfl) (by rw [Arith.length_go_mapM, length_vecSource])

/-- A function of two operands, the second one element for all where BB is set. -/
theorem panWrites_vecBin {op : Nat → Nat → Arith Nat} (h : Runs s p e kVec f) (hint : bitAt e.w 118 = int)
    (hx : exec i s = .next (panRow kVec (vecIs f int) (vecBin op) p [] s)) :
    let a := vecSource s p.toNat (slotAt e.w 70) false (vecLen e.w)
    let b := vecSource s p.toNat (slotAt e.w 48) (bitAt e.w 117) (vecLen e.w)
    let r := Arith.go ((a.zip b).mapM fun x => op x.1 x.2)
    PanWrites i p.toNat (slotAt e.w 4) (pack .fp32 r.1) r.2 s s (s.pan p.toNat) := by
  obtain ⟨hp, -, -⟩ := State.fetch_some h.1
  exact panWrites_of_vecPut_fp32 h hint hx (by rw [← hp]; rfl) (by simp [Arith.length_go_mapM])

/-- FMA, of three operands. -/
theorem panWrites_vecFma (h : Runs s p e kVec 3) (hint : bitAt e.w 118 = false) :
    let a := vecSource s p.toNat (slotAt e.w 70) false (vecLen e.w)
    let b := vecSource s p.toNat (slotAt e.w 48) (bitAt e.w 117) (vecLen e.w)
    let c := vecSource s p.toNat (slotAt e.w 26) (bitAt e.w 116) (vecLen e.w)
    let r := Arith.go ((a.zip (b.zip c)).mapM fun x => fma32 x.1 x.2.1 x.2.2)
    PanWrites (.fma p []) p.toNat (slotAt e.w 4) (pack .fp32 r.1) r.2 s s (s.pan p.toNat) := by
  obtain ⟨hp, -, -⟩ := State.fetch_some h.1
  exact panWrites_of_vecPut_fp32 (act := vecFma) h hint rfl (by rw [← hp]; rfl) (by simp [Arith.length_go_mapM])

/-- SHR, which raises no flag. -/
theorem panWrites_vecShr (h : Runs s p e kVec 9) (hint : bitAt e.w 118 = false) :
    PanWrites (.shr p []) p.toNat (slotAt e.w 4)
      (pack .fp32 ((vecSource s p.toNat (slotAt e.w 70) false (vecLen e.w)).map fun x => shr32 x (fld e.w 26 5))) 0 s s
      (s.pan p.toNat) := by
  have hun := panWrites_vecUn (i := .shr p []) (act := vecShr) (op := fun x => pure (shr32 x (fld e.w 26 5))) h hint rfl rfl
  rwa [Arith.go_mapM_pure] at hun

/-- CONVERT between two formats. -/
theorem panWrites_vecConvert {src dst : Fmt} (h : Runs s p e kVec 8) (hint : bitAt e.w 118 = false)
    (hsrc : fmt4 (fld e.w 112 4) = some src) (hdst : fmt4 (fld e.w 108 4) = some dst) :
    let r := Arith.go ((s.slotElems p.toNat (slotAt e.w 70) 0 src (vecLen e.w)).mapM (convert src dst))
    PanWrites (.convert p []) p.toNat (slotAt e.w 4) (pack dst (r.1 ++ halfKept s p.toNat (slotAt e.w 4) dst (vecLen e.w))) r.2 s s
      (s.pan p.toNat) := by
  obtain ⟨hp, -, -⟩ := State.fetch_some h.1
  refine panWrites_of_vecPut (act := vecConvert) h hint rfl ?_ (by simp [Arith.length_go_mapM])
  rw [vecConvert, hsrc, hdst, ← hp]
  rfl

/-- REDUCE puts one result for each row (R46, R96). -/
theorem panWrites_of_reduceAct {act : PEnv → State → Done} {first : Nat → Arith Nat} {op : Nat → Nat → Arith Nat}
    (h : Runs s p e kReduce f) (hx : exec i s = .next (panRow kReduce (funcIs f) act p [] s)) (ha : act e s = reduceAct first op e s) :
    let row (r : Nat) := s.slotElems p.toNat (slotAt e.w 70) (r * (cdiv (vecLen e.w) 64 * 256)) .fp32 (vecLen e.w)
    let r := Arith.go ((List.range (fld e.w 108 10 + 1)).mapM fun r => reduceVec first op (row r))
    PanWrites i p.toNat (slotAt e.w 4) (pack .fp32 r.1) r.2 s s (s.pan p.toNat) := by
  obtain ⟨hfetch, hclass, hfunc⟩ := h
  obtain ⟨hp, -, -⟩ := State.fetch_some hfetch
  refine panWrites_of_plain ⟨hfetch, hclass, hfunc⟩ (by simp [funcIs, hfunc]) hx (by rw [ha, ← hp]; rfl) ?_
  have hsize := (slotAt e.w 4).le_size
  have hrows : fld e.w 108 10 < 0x400 := Nat.mod_lt _ (by decide)
  rw [length_pack_fp32, Arith.length_go_mapM, List.length_range]
  omega

end

/-- Settles O1: each function is a VEC row of one, two or three operands that puts its results. -/
theorem vecFloatFunctionsGiveResults : Obligations.VecFloatFunctionsGiveResults := by
  unfold Obligations.VecFloatFunctionsGiveResults
  refine ⟨fun s p e f h hint => ?_, fun s p e f h hint => ?_⟩
  · refine ⟨?_, ?_, ?_, ?_, ?_, ?_⟩ <;> rintro rfl
    · exact panWrites_vecBin h hint rfl
    · exact panWrites_vecBin h hint rfl
    · exact panWrites_vecBin h hint rfl
    · exact panWrites_vecFma h hint
    · exact panWrites_vecBin h hint rfl
    · exact panWrites_vecBin h hint rfl
  · refine ⟨?_, ?_, ?_, ?_, ?_, ?_, ?_⟩ <;> rintro rfl <;> exact panWrites_vecUn h hint rfl rfl

/-- Settles O2: the integer functions are VEC rows of two operands, SHR one of one, and CONVERT packs in its destination's format. -/
theorem vecIntegerAndConvertResults : Obligations.VecIntegerAndConvertResults := by
  unfold Obligations.VecIntegerAndConvertResults
  refine fun s p e f h => ⟨fun hint => ⟨?_, ?_, ?_⟩, fun hint => ⟨?_, ?_⟩⟩ <;> rintro rfl
  · exact panWrites_vecBin h hint rfl
  · exact panWrites_vecBin h hint rfl
  · exact panWrites_vecBin h hint rfl
  · exact panWrites_vecShr h hint
  · exact fun src dst => panWrites_vecConvert h hint

/-- Settles O3: both functions are `reduceAct`, ADD with the lanes' operation that INT names. -/
theorem reduceGivesOneResultARow : Obligations.ReduceGivesOneResultARow := by
  unfold Obligations.ReduceGivesOneResultARow
  refine fun s p e f h => ⟨?_, ?_, ?_⟩ <;> rintro rfl
  · exact fun hint => panWrites_of_reduceAct (act := reduceAddAct) h rfl (if_pos hint)
  · exact fun hint => panWrites_of_reduceAct (act := reduceAddAct) h rfl (if_neg (by simp [hint]))
  · exact panWrites_of_reduceAct h rfl rfl

end Sys2Proof.Machine

/-! SUPPORT. What a pan's instruction keeps of everything beside its destination, one write at a time. -/
namespace Sys2Proof.Machine

section
variable {p : Nat} {hit : Nat → Prop} {s u : State} {v : Pan}

theorem PanFrame.refl (p : Nat) (hit : Nat → Prop) (s : State) : PanFrame p hit s (s.pan p) s :=
  ⟨rfl, fun _ _ => rfl, rfl, fun _ _ => rfl⟩

/-- A write to bytes of the destination keeps the rest. -/
theorem PanFrame.slotWrite (h : PanFrame p hit s v u) {sl : Slot22} {k : Nat} {bs : List Byte} (hl : bs.length ≤ sl.size)
    (hh : ∀ i, i < bs.length → hit (slotAddr p sl (k + i))) : PanFrame p hit s v (u.slotWrite p sl k bs) := by
  obtain ⟨hstate, hothers, hpan, hbytes⟩ := h
  refine ⟨hstate, hothers, hpan, fun a ha => ?_⟩
  rw [State.byte_slotWrite_out u p sl k bs a hl fun i hi hia => ha (hia ▸ hh i hi)]
  exact hbytes a ha

/-- An update of the pan that keeps it but for its flags and counters. -/
theorem PanFrame.setPan (h : PanFrame p hit s v u) {x : Pan}
    (hx : { x with
        arith := v.arith, cycles := v.cycles, profIssue := v.profIssue, profCell := v.profCell, profVec := v.profVec
        profMove := v.profMove, profGated := v.profGated } = v) : PanFrame p hit s v (u.setPan p x) := by
  obtain ⟨hstate, hothers, -, hbytes⟩ := h
  refine ⟨hstate, fun q hq => ?_, by simpa using hx, hbytes⟩
  rw [State.setPan_pan, if_neg hq]
  exact hothers q hq

/-- Flags may join. -/
theorem PanFrame.addFlags (h : PanFrame p hit s v u) (fl : AFlags) : PanFrame p hit s v (u.addFlags p fl) := by
  have ⟨_, _, hpan, _⟩ := h
  exact h.setPan hpan

/-- Counters may count. -/
theorem PanFrame.charge (h : PanFrame p hit s v u) (c : Cost) : PanFrame p hit s v (u.charge p c) := by
  obtain ⟨x, hu, hx⟩ := State.charge_frame u p c
  obtain ⟨hstate, hothers, hpan, hbytes⟩ := h
  have hxv : { x with
      arith := v.arith, cycles := v.cycles, profIssue := v.profIssue, profCell := v.profCell, profVec := v.profVec
      profMove := v.profMove, profGated := v.profGated } = v := by
    rw [← hx] at hpan
    exact hpan
  have hd : PanFrame p hit s v { u with drawn := u.drawn + 1 } := ⟨hstate, hothers, hpan, hbytes⟩
  rw [hu]
  exact hd.setPan hxv

/-- The pan may be handed an append. -/
theorem PanFrame.handAppend (h : PanFrame p hit s v u) (job : Option AppendJob) :
    PanFrame p hit s { v with append := job } (u.modPan p fun x => { x with append := job }) := by
  obtain ⟨hstate, hothers, hpan, hbytes⟩ := h
  refine ⟨hstate, fun q hq => ?_, ?_, hbytes⟩
  · rw [State.modPan_eq, State.setPan_pan, if_neg hq]
    exact hothers q hq
  · rw [State.modPan_eq, State.setPan_pan, if_pos rfl]
    exact congrArg (fun y : Pan => { y with append := job }) hpan

end

-- ## Reads and writes that do not meet

/-- A read of an operand that a write to another does not meet. -/
theorem State.slotRead_slotWrite_apart {s : State} {p : Nat} {sl sr : Slot22} {k j n : Nat} {bs : List Byte} (hl : bs.length ≤ sl.size)
    (h : ∀ i, i < bs.length → ∀ x, x < n → slotAddr p sl (k + i) ≠ slotAddr p sr (j + x)) :
    (s.slotWrite p sl k bs).slotRead p sr j n = s.slotRead p sr j n := by
  refine List.map_congr_left fun x hx => ?_
  exact State.byte_slotWrite_out s p sl k bs _ hl fun i hi => h i hi x (List.mem_range.mp hx)

/-- The accumulators lie apart from the pan stores. -/
theorem slotAddr_acc_ne_store {p : Nat} (hp : p < 64) {sl sr : Slot22} (hl : sl.acc = true) (hr : sr.acc = false) (k j : Nat) :
    slotAddr p sl k ≠ slotAddr p sr j := by
  simp only [slotAddr, hl, hr, accBase, storeBase, if_true, Bool.false_eq_true, if_false]
  omega

/-- A write to an accumulator leaves the pan store. -/
theorem State.storeRead_slotWrite_acc {s : State} {p : Nat} (hp : p < 64) {sl : Slot22} (ha : sl.acc = true) {k : Nat} {bs : List Byte}
    (hl : bs.length ≤ sl.size) (a n : Nat) : (s.slotWrite p sl k bs).storeRead p a n = s.storeRead p a n :=
  State.slotRead_slotWrite_apart hl fun _ _ _ _ => slotAddr_acc_ne_store hp ha rfl _ _

@[simp] theorem State.addFlags_storeRead (s : State) (p : Nat) (f : AFlags) (q a n : Nat) :
    (s.addFlags p f).storeRead q a n = s.storeRead q a n := rfl

/-- Every byte of an accumulator is within its size of any start. -/
theorem inSlot_acc {sl : Slot22} (ha : sl.acc = true) (p k : Nat) : InSlot p sl 0x40000 (slotAddr p sl k) := by
  refine ⟨k % 0x40000, Nat.mod_lt _ (by decide), ?_⟩
  simp only [slotAddr, ha, if_true]
  omega

/-- Two rows of 256 bytes of an accumulator, of different numbers among its 1,024, do not meet. -/
theorem slotAddr_acc_rows_ne {sl : Slot22} (ha : sl.acc = true) (p : Nat) {r t i x : Nat} (hr : r < 1024) (ht : t < 1024) (hrt : r ≠ t)
    (hi : i < 256) (hx : x < 256) : slotAddr p sl (r * 256 + i) ≠ slotAddr p sl (t * 256 + x) := by
  simp only [slotAddr, ha, if_true]
  omega

end Sys2Proof.Machine

/-! SUPPORT. MATMUL: what an element of C depends on, and where its rows lie (R40, R41, R65 to R68, R92, R93). -/
namespace Sys2Proof.Machine

-- ## What an element depends on

section
variable {s t : State} {p : Nat}

/-- An element of C reads the pan store alone, beside the element it is folded from. -/
theorem mmElement_congr (h : t.storeRead p = s.storeRead p) : mmElement t p = mmElement s p := by
  have hw : weightAt t p = weightAt s p := by
    funext f base cols n k
    simp only [weightAt, State.storeN, h]
  have ha : actMeta t p = actMeta s p := by
    funext q k m g
    simp only [actMeta, State.storeN, h]
  have hm : weightMeta t p = weightMeta s p := by
    funext q n cols g
    simp only [weightMeta, State.storeN, h]
  funext fa fb qa qb bbase cols k m n acc row
  unfold mmElement
  rw [hw, ha, hm]

theorem actRow_congr (h : t.storeRead p = s.storeRead p) (f : Fmt) (base stride m k : Nat) :
    actRow t p f base stride m k = actRow s p f base stride m k := by
  have hread : ∀ a j n, t.slotRead p { acc := false, ofs := a } j n = s.slotRead p { acc := false, ofs := a } j n := by
    intro a j n
    have hn := congrFun (congrFun h (a + j)) n
    simp only [State.storeRead, State.slotRead, slotAddr, Bool.false_eq_true, if_false, Nat.zero_add] at hn ⊢
    simpa only [Nat.add_assoc] using hn
  unfold actRow State.slotElems
  rw [hread]

end

-- ## The rows of C

/-- The accumulator from the row where C begins. -/
def mmSlot (w : Nat) : Slot22 := { acc := true, ofs := fld w 11 10 }

/-- The accumulator row, counted from there, of a cell: row `c.2` of column block `c.1` (R93). -/
def mmIndex (rows : Nat) (c : Nat × Nat) : Nat := c.1 * rows + c.2

/-- The cells of C in the order they are made. -/
def mmCells (rows cols : Nat) : List (Nat × Nat) := (List.range (cdiv cols 64)).flatMap fun b => (List.range rows).map fun m => (b, m)

theorem mem_mmCells {rows cols : Nat} {c : Nat × Nat} : c ∈ mmCells rows cols ↔ c.1 < cdiv cols 64 ∧ c.2 < rows := by
  obtain ⟨b, m⟩ := c
  simp [mmCells]

/-- Cells of rising blocks and rows have rising numbers. -/
theorem mmCells_rising (rows cols : Nat) : (mmCells rows cols).Pairwise fun c d => mmIndex rows c < mmIndex rows d := by
  refine List.pairwise_flatMap.mpr ⟨fun b _ => ?_, ?_⟩
  · exact List.pairwise_map.mpr (List.pairwise_lt_range.imp fun hm => Nat.add_lt_add_left hm _)
  · refine List.pairwise_lt_range.imp fun {b d} hbd x hx y hy => ?_
    obtain ⟨m, hm, rfl⟩ := List.mem_map.mp hx
    obtain ⟨n, -, rfl⟩ := List.mem_map.mp hy
    have hrow := Nat.mul_le_mul_right rows (Nat.succ_le_of_lt hbd)
    rw [Nat.succ_mul] at hrow
    have hlt := List.mem_range.mp hm
    simp only [mmIndex]
    omega

theorem mmIndex_lt {rows cols : Nat} {c : Nat × Nat} (hc : c ∈ mmCells rows cols) : mmIndex rows c < cdiv cols 64 * rows := by
  obtain ⟨hb, hm⟩ := mem_mmCells.mp hc
  have hrow := Nat.mul_le_mul_right rows (Nat.succ_le_of_lt hb)
  rw [Nat.succ_mul] at hrow
  unfold mmIndex
  omega

/-- The width of a column block. -/
def mmWidth (cols : Nat) (c : Nat × Nat) : Nat := min 64 (cols - 64 * c.1)

theorem mmWidth_le (cols : Nat) (c : Nat × Nat) : mmWidth cols c ≤ 64 := Nat.min_le_left _ _

section
variable (e : PEnv) (fa fb : Fmt) (qa qb : Option QDesc) (load : Bool) (rows cols k : Nat) (s : State) (c : Nat × Nat)

/-- What the row of a cell is folded from (ACC_INIT). -/
def mmStart : List Nat :=
  if load then s.slotElems e.p (mmSlot e.w) (mmIndex rows c * 256) .fp32 (mmWidth cols c) else List.replicate (mmWidth cols c) 0

/-- The elements of the row of a cell, and their flags. -/
def mmElems : List Nat × AFlags :=
  Arith.go ((mmStart e load rows cols s c).zipIdx.mapM fun x =>
    mmElement s e.p fa fb qa qb (fld e.w 21 9 * 4096) cols k c.2 (64 * c.1 + x.2) x.1
      (actRow s e.p fa (fld e.w 40 17 * 16) (if fld e.w 30 10 = 0 then cdiv (k * fa.bits) 128 * 16 else fld e.w 30 10 * 16) c.2 k))

/-- The bytes of the row of a cell. -/
def mmBytes : List Byte := pack .fp32 (mmElems e fa fb qa qb load rows cols k s c).1

/-- The model's row of C is one write of those bytes, and their flags. -/
theorem mmRow_eq : mmRow e fa fb qa qb load rows cols k s c.1 c.2
    = (s.slotWrite e.p (mmSlot e.w) (mmIndex rows c * 256) (mmBytes e fa fb qa qb load rows cols k s c)).addFlags e.p
        (mmElems e fa fb qa qb load rows cols k s c).2 := rfl

@[simp] theorem length_mmBytes : (mmBytes e fa fb qa qb load rows cols k s c).length = 4 * mmWidth cols c := by
  have hstart : (mmStart e load rows cols s c).length = mmWidth cols c := by
    unfold mmStart
    split <;> simp
  simp [mmBytes, mmElems, Arith.length_go_mapM, hstart]

theorem length_mmBytes_le : (mmBytes e fa fb qa qb load rows cols k s c).length ≤ (mmSlot e.w).size := by
  have hle := mmWidth_le cols c
  have hsize := (mmSlot e.w).le_size
  rw [length_mmBytes]
  omega

variable {e fa fb qa qb load rows cols k s c} {t : State}

/-- The row of a cell depends on the pan store and on what stood in the row. -/
theorem mmBytes_congr (hstore : t.storeRead e.p = s.storeRead e.p)
    (hrow : t.slotRead e.p (mmSlot e.w) (mmIndex rows c * 256) (4 * mmWidth cols c)
      = s.slotRead e.p (mmSlot e.w) (mmIndex rows c * 256) (4 * mmWidth cols c)) :
    mmBytes e fa fb qa qb load rows cols k t c = mmBytes e fa fb qa qb load rows cols k s c := by
  have hbytes : cdiv (mmWidth cols c * Fmt.fp32.bits) 8 = 4 * mmWidth cols c := by
    simp only [cdiv, Fmt.bits]
    omega
  have hstart : mmStart e load rows cols t c = mmStart e load rows cols s c := by
    unfold mmStart State.slotElems
    rw [hbytes, hrow]
  unfold mmBytes mmElems
  rw [hstart, mmElement_congr hstore, actRow_congr hstore]

/-- A row of C reads as the bytes it was made of. -/
theorem slotRead_mmRow_same :
    (mmRow e fa fb qa qb load rows cols k s c.1 c.2).slotRead e.p (mmSlot e.w) (mmIndex rows c * 256) (4 * mmWidth cols c)
      = mmBytes e fa fb qa qb load rows cols k s c := by
  rw [mmRow_eq, State.addFlags_slotRead]
  have hread := State.slotRead_slotWrite s e.p (mmSlot e.w) (mmIndex rows c * 256) _
    (length_mmBytes_le e fa fb qa qb load rows cols k s c)
  rwa [length_mmBytes] at hread

/-- A row of C leaves the others. -/
theorem slotRead_mmRow_other {d : Nat × Nat} (hc : mmIndex rows c < 1024) (hd : mmIndex rows d < 1024)
    (hcd : mmIndex rows c ≠ mmIndex rows d) :
    (mmRow e fa fb qa qb load rows cols k s c.1 c.2).slotRead e.p (mmSlot e.w) (mmIndex rows d * 256) (4 * mmWidth cols d)
      = s.slotRead e.p (mmSlot e.w) (mmIndex rows d * 256) (4 * mmWidth cols d) := by
  rw [mmRow_eq, State.addFlags_slotRead]
  refine State.slotRead_slotWrite_apart (length_mmBytes_le ..) fun i hi x hx => ?_
  have hwc := mmWidth_le cols c
  have hwd := mmWidth_le cols d
  rw [length_mmBytes] at hi
  exact slotAddr_acc_rows_ne rfl e.p hc hd hcd (by omega) (by omega)

/-- A row of C leaves the pan store. -/
theorem storeRead_mmRow (hp : e.p < 64) :
    (mmRow e fa fb qa qb load rows cols k s c.1 c.2).storeRead e.p = s.storeRead e.p := by
  funext a n
  rw [mmRow_eq, State.addFlags_storeRead]
  exact State.storeRead_slotWrite_acc hp rfl (length_mmBytes_le ..) a n

/-- A row of C changes the accumulator alone. -/
theorem PanFrame.mmRow {v : Pan} {u : State} (h : PanFrame e.p (InSlot e.p (mmSlot e.w) 0x40000) s v u) :
    PanFrame e.p (InSlot e.p (mmSlot e.w) 0x40000) s v (mmRow e fa fb qa qb load rows cols k u c.1 c.2) := by
  rw [mmRow_eq]
  exact (h.slotWrite (length_mmBytes_le ..) fun _ _ => inSlot_acc rfl _ _).addFlags _

/-- Rows of different numbers, made one after another, each read at the end as they would have been made at the start. -/
theorem slotRead_foldl_mmRow (hp : e.p < 64) (l : List (Nat × Nat)) (hlt : ∀ c ∈ l, mmIndex rows c < 1024)
    (hne : l.Pairwise fun c d => mmIndex rows c ≠ mmIndex rows d) (hstore : t.storeRead e.p = s.storeRead e.p)
    (hrows : ∀ c ∈ l, t.slotRead e.p (mmSlot e.w) (mmIndex rows c * 256) (4 * mmWidth cols c)
      = s.slotRead e.p (mmSlot e.w) (mmIndex rows c * 256) (4 * mmWidth cols c)) (hc : c ∈ l) :
    (l.foldl (fun s c => mmRow e fa fb qa qb load rows cols k s c.1 c.2) t).slotRead e.p (mmSlot e.w) (mmIndex rows c * 256)
      (4 * mmWidth cols c) = mmBytes e fa fb qa qb load rows cols k s c := by
  induction l generalizing t with
  | nil => cases hc
  | cons d l ih =>
    obtain ⟨hdl, hl⟩ := List.pairwise_cons.mp hne
    obtain ⟨hd, hlts⟩ := List.forall_mem_cons.mp hlt
    obtain ⟨hrow, hrest⟩ := List.forall_mem_cons.mp hrows
    rw [List.foldl_cons]
    rcases List.mem_cons.mp hc with rfl | hc
    · refine foldl_keeps (fun u : State => u.slotRead e.p (mmSlot e.w) (mmIndex rows c * 256) (4 * mmWidth cols c)
        = mmBytes e fa fb qa qb load rows cols k s c) _ l (fun u d hd' hu => ?_) _ ?_
      · rw [slotRead_mmRow_other (hlts d hd') hd (hdl d hd').symm, hu]
      · rw [slotRead_mmRow_same, mmBytes_congr hstore hrow]
    · refine ih hlts hl ((storeRead_mmRow hp).trans hstore) (fun x hx => ?_) hc
      rw [slotRead_mmRow_other hd (hlts x hx) (hdl x hx), hrest x hx]

end

-- ## The instruction

/-- The append that a MATMUL word hands over (R92, R155). -/
def mmJob (e : PEnv) (fa fb : Fmt) : AppendJob :=
  { desc := BitVec.ofNat 128 (cleanAppend (descAt e.descs (fld e.w 2 8)) (fld e.w 57 16 + 1)), rows := fld e.w 87 10 + 1
    cols := fld e.w 57 16 + 1, drow := fld e.w 11 10
    isInt := fa.isInt && fb.isInt && (qdesc e.descs (fld e.w 105 8)).isNone && (qdesc e.descs (fld e.w 97 8)).isNone }

/-- The state once every row of C is made. -/
def mmMade (e : PEnv) (fa fb : Fmt) (s : State) : State :=
  (mmCells (fld e.w 87 10 + 1) (fld e.w 57 16 + 1)).foldl (fun s c =>
    mmRow e fa fb (qdesc e.descs (fld e.w 105 8)) (qdesc e.descs (fld e.w 97 8)) (bitAt e.w 121) (fld e.w 87 10 + 1)
      (fld e.w 57 16 + 1) (fld e.w 73 14 + 1) s c.1 c.2) s

/-- The state after a MATMUL, counters apart: with KVAPP the append stands too. -/
def mmDone (e : PEnv) (fa fb : Fmt) (s : State) : State :=
  if bitAt e.w 10 then (mmMade e fa fb s).modPan e.p fun v => { v with append := some (mmJob e fa fb) } else mmMade e fa fb s

section
variable {e : PEnv} {fa fb : Fmt} {s : State}

theorem mmAct_eq (hfa : fmt3 (fld e.w 116 3) = some fa) (hfb : fmt3 (fld e.w 113 3) = some fb) :
    mmAct e s = plain (mmDone e fa fb s)
      { cell := mmCost (bitAt e.w 120) (rateOf fa fb) (fld e.w 87 10 + 1) (fld e.w 73 14 + 1) (fld e.w 57 16 + 1) } := by
  unfold mmAct
  rw [hfa, hfb]
  rfl

/-- The instruction of either mode runs `mmAct` and ends (R41, R68). -/
theorem exec_matmul {p : BitVec 6} (h : s.fetch p.toNat = some e) (hclass : iClass e.w = kMatmul)
    (hfa : fmt3 (fld e.w 116 3) = some fa) (hfb : fmt3 (fld e.w 113 3) = some fb) :
    ∃ c, exec (if bitAt e.w 120 then .matmulStream p [] else .matmulTile p []) s
      = .next (((mmDone e fa fb s).charge p.toNat c).advance p.toNat) := by
  have hruns : Runs s p e kMatmul (iFunc e.w) := ⟨h, hclass, rfl⟩
  split
  · next hm => exact ⟨_, congrArg Host.Outcome.next (panRow_plain (func := fun w => bitAt w 120) hruns hm (mmAct_eq hfa hfb))⟩
  · next hm =>
    exact ⟨_, congrArg Host.Outcome.next (panRow_plain (func := fun w => !bitAt w 120) hruns (by simp [hm]) (mmAct_eq hfa hfb))⟩

theorem mmMade_frame : PanFrame e.p (InSlot e.p (mmSlot e.w) 0x40000) s (s.pan e.p) (mmMade e fa fb s) :=
  foldl_keeps (PanFrame e.p (InSlot e.p (mmSlot e.w) 0x40000) s (s.pan e.p)) _ _ (fun _ _ _ h => h.mmRow) s (PanFrame.refl _ _ _)

/-- A MATMUL changes the accumulator, and hands the append over. -/
theorem mmDone_frame : PanFrame e.p (InSlot e.p (mmSlot e.w) 0x40000) s
    (if bitAt e.w 10 then { s.pan e.p with append := some (mmJob e fa fb) } else s.pan e.p) (mmDone e fa fb s) := by
  unfold mmDone
  split
  · exact mmMade_frame.handAppend _
  · exact mmMade_frame

/-- Every row of a C that fits the accumulator stands there at the end. -/
theorem mmMade_slotRead (hp : e.p < 64) (hfit : cdiv (fld e.w 57 16 + 1) 64 * (fld e.w 87 10 + 1) ≤ 1024) {c : Nat × Nat}
    (hc : c ∈ mmCells (fld e.w 87 10 + 1) (fld e.w 57 16 + 1)) :
    (mmMade e fa fb s).slotRead e.p (mmSlot e.w) (mmIndex (fld e.w 87 10 + 1) c * 256) (4 * mmWidth (fld e.w 57 16 + 1) c)
      = mmBytes e fa fb (qdesc e.descs (fld e.w 105 8)) (qdesc e.descs (fld e.w 97 8)) (bitAt e.w 121) (fld e.w 87 10 + 1)
          (fld e.w 57 16 + 1) (fld e.w 73 14 + 1) s c :=
  slotRead_foldl_mmRow hp _ (fun _ hd => (mmIndex_lt hd).trans_le hfit) ((mmCells_rising _ _).imp Nat.ne_of_lt) rfl (fun _ _ => rfl) hc

theorem mmDone_slotRead (q : Nat) (sl : Slot22) (j n : Nat) :
    (mmDone e fa fb s).slotRead q sl j n = (mmMade e fa fb s).slotRead q sl j n := by
  unfold mmDone
  split <;> rfl

end

/-- Settles O5: each row of C is one write to the accumulator, which no other row of a C that fits meets and no element of C reads. -/
theorem matmulFillsAccumulatorRows : Obligations.MatmulFillsAccumulatorRows := by
  unfold Obligations.MatmulFillsAccumulatorRows
  intro s p e fa fb h hclass hfa hfb
  obtain ⟨hp, -, -⟩ := State.fetch_some h
  obtain ⟨cost, hexec⟩ := exec_matmul h hclass hfa hfb
  have hp64 : e.p < 64 := hp ▸ p.isLt
  rw [← hp] at hexec
  rw [← hp]
  refine ⟨(mmDone e fa fb s).charge e.p cost, hexec, mmDone_frame.charge cost, fun hfit b m hb hm => ?_⟩
  rw [State.charge_slotRead, mmDone_slotRead]
  exact mmMade_slotRead (c := (b, m)) hp64 hfit (mem_mmCells.mpr ⟨hb, hm⟩)

end Sys2Proof.Machine

/-! SUPPORT. QUANT and DEQUANT: the groups of a row, what stays within a pan's own memories, and what the conversion of a row leaves (R63,
R71, R72, R97). -/
namespace Sys2Proof.Machine

-- ## Folds over numbered items

theorem pairwise_zipIdx_lt {α : Type} (l : List α) : l.zipIdx.Pairwise fun x y => x.2 < y.2 := by
  rw [← List.pairwise_map (f := Prod.snd) (R := (· < ·)), List.zipIdx_map_snd]
  exact List.pairwise_lt_range'

/-- What each item of a fold brings about and no later item undoes holds at the end. -/
theorem foldl_each {α β : Type} {P : α → β → Prop} {f : β → α → β} (l : List α) (hmade : ∀ a ∈ l, ∀ b, P a (f b a))
    (hkept : l.Pairwise fun a c => ∀ b, P a b → P a (f b c)) {a : α} (ha : a ∈ l) (b : β) : P a (l.foldl f b) := by
  induction l generalizing b with
  | nil => cases ha
  | cons c l ih =>
    obtain ⟨hc, hl⟩ := List.pairwise_cons.mp hkept
    rcases List.mem_cons.mp ha with rfl | ha
    · exact foldl_keeps (P a) f l (fun b x hx hb => hc x hx b hb) _ (hmade a List.mem_cons_self b)
    · exact ih (fun x hx => hmade x (List.mem_cons_of_mem _ hx)) hl ha _

-- ## Groups

section
variable {α : Type} {fuel n : Nat} {l : List α}

theorem flatten_chunks (hn : 0 < n) (hf : l.length ≤ fuel) : (chunks fuel n l).flatten = l := by
  induction fuel generalizing l with
  | zero => simpa [chunks] using (List.length_eq_zero_iff.mp (Nat.le_zero.mp hf)).symm
  | succ fuel ih =>
    unfold chunks
    split
    · next h => simpa using h.symm
    · rw [List.flatten_cons, ih (by rw [List.length_drop]; omega), List.take_append_drop]

theorem cdiv_zero (hn : 0 < n) : cdiv 0 n = 0 := Nat.div_eq_of_lt (by omega)

theorem cdiv_of_pos {a : Nat} (ha : 0 < a) (hn : 0 < n) : cdiv a n = cdiv (a - n) n + 1 := by
  have hstep : a + n - 1 = a - 1 + n := by omega
  have hrest : (a - n + n - 1) / n = (a - 1) / n := by
    by_cases hle : n ≤ a
    · rw [Nat.sub_add_cancel hle]
    · rw [Nat.div_eq_of_lt (show a - n + n - 1 < n by omega), Nat.div_eq_of_lt (show a - 1 < n by omega)]
  rw [cdiv, cdiv, hrest, hstep, Nat.add_div_right _ hn]

theorem length_chunks (hn : 0 < n) (hf : l.length ≤ fuel) : (chunks fuel n l).length = cdiv l.length n := by
  induction fuel generalizing l with
  | zero => rw [Nat.le_zero.mp hf, cdiv_zero hn, chunks, List.length_nil]
  | succ fuel ih =>
    unfold chunks
    split
    · next h => rw [List.isEmpty_iff.mp h, List.length_nil, List.length_nil, cdiv_zero hn]
    · next h =>
      have hpos : 0 < l.length := List.length_pos_iff.mpr (by simpa using h)
      rw [List.length_cons, ih (by rw [List.length_drop]; omega), List.length_drop, cdiv_of_pos hpos hn]

/-- A list that is one piece. -/
theorem chunks_one (hn : 0 < n) (hl : l.length = n) : chunks 1 n l = [l] := by
  have hne : l.isEmpty = false := by
    rw [List.isEmpty_eq_false_iff, ← List.length_pos_iff]
    omega
  simp [chunks, hne, ← hl]

end

theorem fld_setFld_gsize (x v : Nat) : fld (setFld x 8 8 v) 8 8 = v % 2 ^ 8 := by
  unfold setFld fld
  simp only [Nat.shiftRight_eq_div_pow]
  omega

theorem gsize_replaced_pos (n : Nat) : 0 < (if n ≤ 48 then 32 else if n ≤ 96 then 64 else 128) % 2 ^ 8 := by
  split
  · decide
  · split <;> decide

theorem gsize_pos_of_group {y v : Nat} (hv : 0 < v % 2 ^ 8) (h : fld (if fld y 5 2 = 0 then setFld y 8 8 v else y) 5 2 = 0) :
    0 < fld (if fld y 5 2 = 0 then setFld y 8 8 v else y) 8 8 := by
  split at h
  · next hy => rwa [if_pos hy, fld_setFld_gsize]
  · exact absurd h ‹_›

/-- A descriptor by groups keeps one of three group sizes (R60). -/
theorem cleanQuant_gsize_pos {x c : Nat} (h : cleanQuant x = some c) (hg : fld c 5 2 = 0) : 0 < fld c 8 8 := by
  unfold cleanQuant at h
  split at h
  · cases h
  · cases h
    exact gsize_pos_of_group (gsize_replaced_pos _) hg

theorem qdesc_gsize_pos {descs : List Nat} {i : Nat} {d : QDesc} (h : qdesc descs i = some d) (hg : d.gran = .group) : 0 < d.gsize := by
  unfold qdesc at h
  split at h
  · cases h
  · split at h
    · cases h
    · next c hc =>
      split at h
      · cases h
      · cases h
        refine cleanQuant_gsize_pos hc ?_
        dsimp only at hg
        split at hg
        · assumption
        · cases hg
        · cases hg

section
variable {d : QDesc} (hd : d.gran = .group → 0 < d.gsize)
include hd

theorem flatten_rowGroups (xs : List Nat) : (rowGroups d xs).flatten = xs := by
  unfold rowGroups
  split
  · next hg => exact flatten_chunks (hd hg) le_rfl
  · simp

theorem length_rowGroups (xs : List Nat) : (rowGroups d xs).length = d.ng xs.length := by
  unfold rowGroups QDesc.ng
  split
  · next hg => exact length_chunks (hd hg) le_rfl
  · rfl

/-- A row has no more groups than elements. -/
theorem QDesc.ng_le {k : Nat} (hk : 0 < k) : d.ng k ≤ k := by
  unfold QDesc.ng cdiv
  split
  · next hg =>
    have hpos := hd hg
    refine Nat.lt_succ_iff.mp ((Nat.div_lt_iff_lt_mul hpos).mpr ?_)
    have hmul := Nat.mul_le_mul_left k (show 1 ≤ d.gsize from hpos)
    rw [Nat.succ_mul]
    omega
  · exact hk

end

-- ## The computations

/-- A computation over a list gives as many values, whatever flags it starts with. -/
theorem Arith.length_mapM {α : Type} (f : α → Arith Nat) (l : List α) (x : AFlags) : ((l.mapM f) x).1.length = l.length := by
  induction l generalizing x with
  | nil => rfl
  | cons a l ih =>
    simp only [List.mapM_cons, bind, StateT.bind, pure, StateT.pure, List.length_cons]
    exact congrArg (· + 1) (ih _)

theorem length_quantGroup (d : QDesc) (learned : Option (Nat × Int)) (xs : List Nat) :
    (Arith.go (quantGroup d learned xs)).1.1.length = xs.length := by
  cases learned <;> exact Arith.length_mapM _ xs _

theorem length_quantInput (s : State) (p : Nat) (sl : Slot22) (ifmt ofs k : Nat) :
    (Arith.go (quantInput s p sl ifmt ofs k)).1.length = k := by
  unfold quantInput
  split
  · rw [Arith.length_go_mapM, State.length_slotElems]
  · exact (List.length_map _).trans (State.length_slotElems ..)
  · exact State.length_slotElems ..

-- ## A pan's own memories

/-- A write within a memory leaves what lies outside it, however long it is. -/
theorem byte_wrapWrite_outside {base size x : Nat} (hx : ¬ (base ≤ x ∧ x < base + size)) (n : Nat) {s : State} {a : Nat}
    (ha : a ≤ size) (bs : List Byte) : (wrapWrite n s base size a bs).byte x = s.byte x := by
  induction n generalizing s a bs with
  | zero => rfl
  | succ n ih =>
    unfold wrapWrite
    split
    · rw [State.byte_write, if_neg (by omega)]
    · rw [ih (Nat.zero_le _), State.byte_write, if_neg (by rw [List.length_take]; omega)]

theorem ownMemory_of_bounds {p a : Nat} (sl : Slot22) (h : (if sl.acc then accBase p else storeBase p) ≤ a)
    (h' : a < (if sl.acc then accBase p else storeBase p) + sl.size) : OwnMemory p a := by
  cases ha : sl.acc <;> simp only [ha, Slot22.size, Bool.false_eq_true, if_true, if_false] at h h'
  · refine .inl ⟨a - storeBase p, by omega, ?_⟩
    simp only [slotAddr, Bool.false_eq_true, if_false]
    omega
  · refine .inr ⟨a - accBase p, by omega, ?_⟩
    simp only [slotAddr, if_true]
    omega

/-- A write to an operand stays within the pan's own memories. -/
theorem State.byte_slotWrite_own (s : State) (p : Nat) (sl : Slot22) (k : Nat) (bs : List Byte) {a : Nat} (ha : ¬ OwnMemory p a) :
    (s.slotWrite p sl k bs).byte a = s.byte a := by
  have hpos : 0 < sl.size := (show 0 < 0x40000 by decide).trans_le sl.le_size
  exact byte_wrapWrite_outside (fun h => ha (ownMemory_of_bounds sl h.1 h.2)) _ (Nat.mod_lt _ hpos).le bs

section
variable {p : Nat} {s u : State} {v : Pan}

theorem PanFrame.slotWrite_own (h : PanFrame p (OwnMemory p) s v u) (sl : Slot22) (k : Nat) (bs : List Byte) :
    PanFrame p (OwnMemory p) s v (u.slotWrite p sl k bs) := by
  obtain ⟨hstate, hothers, hpan, hbytes⟩ := h
  exact ⟨hstate, hothers, hpan, fun a ha => (u.byte_slotWrite_own p sl k bs ha).trans (hbytes a ha)⟩

theorem PanFrame.putElems_own (h : PanFrame p (OwnMemory p) s v u) (sl : Slot22) (k : Nat) (f : Fmt) (cs : List Nat) :
    PanFrame p (OwnMemory p) s v (u.putElems p sl k f cs) :=
  h.slotWrite_own sl k _

theorem PanFrame.putMeta_own (h : PanFrame p (OwnMemory p) s v u) (d : QDesc) (k m g : Nat) (sz : Nat × Int) :
    PanFrame p (OwnMemory p) s v (putMeta u p d k m g sz) := by
  unfold putMeta
  dsimp only
  split
  · exact (h.slotWrite_own _ _ _).slotWrite_own _ _ _
  · exact h.slotWrite_own _ _ _

end

@[simp] theorem State.charge_arith (s : State) (p : Nat) (c : Cost) : ((s.charge p c).pan p).arith = (s.pan p).arith := by
  obtain ⟨v, hv, hpan⟩ := State.charge_frame s p c
  have hread : (s.charge p c).pan p = v := by rw [hv]; exact Tab.look_put_same _ _ _ _
  rw [hread, ← hpan]

@[simp] theorem State.charge_storeRead (s : State) (p : Nat) (c : Cost) (q a n : Nat) :
    (s.charge p c).storeRead q a n = s.storeRead q a n := rfl

theorem State.slotRead_congr {s u : State} {p : Nat} {sl : Slot22} {k n : Nat}
    (h : ∀ i, i < n → u.byte (slotAddr p sl (k + i)) = s.byte (slotAddr p sl (k + i))) : u.slotRead p sl k n = s.slotRead p sl k n :=
  List.map_congr_left fun i hi => h i (List.mem_range.mp hi)

-- ## The metadata record of a row (R63)

section
variable {s : State} {p k g j : Nat} {d : QDesc} {sz : Nat × Int}

/-- The metadata of a group of the first row: two bytes of scale, and one of zero point behind all scales. -/
theorem putMeta_first : putMeta s p d k 0 g sz =
    let t := s.slotWrite p { acc := false, ofs := d.addr + 2 * g } 0 (leBytes 2 sz.1)
    if d.asym then t.slotWrite p { acc := false, ofs := d.addr + (2 * d.ng k + g) } 0 (leBytes 1 (sz.2 % 2 ^ d.fmt.bits).toNat) else t := by
  simp [putMeta, Nat.add_assoc]

theorem slotAddr_store (p a b i : Nat) :
    slotAddr p { acc := false, ofs := a + b } i = slotAddr p { acc := false, ofs := a } (b + i) := by
  simp [slotAddr, Nat.add_assoc]

/-- A write `x` bytes behind a place of the pan store leaves what lies before or behind it, as long as neither comes round again. -/
theorem State.storeRead_slotWrite_apart {a x y n : Nat} {bs : List Byte} (hx : x + bs.length ≤ 0x200000) (hy : y + n ≤ 0x200000)
    (h : x + bs.length ≤ y ∨ y + n ≤ x) :
    (s.slotWrite p { acc := false, ofs := a + x } 0 bs).storeRead p (a + y) n = s.storeRead p (a + y) n := by
  refine State.slotRead_slotWrite_apart (by simp only [Slot22.size, Bool.false_eq_true, if_false]; omega) fun i hi j hj => ?_
  simp only [slotAddr, Bool.false_eq_true, if_false]
  omega

theorem byte_putMeta {a : Nat} (hg : g < d.ng k) (ha : ¬ InSlot p { acc := false, ofs := d.addr } (3 * d.ng k) a) :
    (putMeta s p d k 0 g sz).byte a = s.byte a := by
  have hwrite : ∀ (t : State) (x : Nat) (bs : List Byte), bs.length ≤ 2 → x + bs.length ≤ 3 * d.ng k →
      (t.slotWrite p { acc := false, ofs := d.addr + x } 0 bs).byte a = t.byte a := fun t x bs hbs hx => by
    refine State.byte_slotWrite_out t p _ 0 bs a (by simp only [Slot22.size, Bool.false_eq_true, if_false]; omega) fun i hi hia => ?_
    exact ha ⟨x + (0 + i), by omega, (slotAddr_store ..).symm.trans hia⟩
  have hscale := hwrite s (2 * g) (leBytes 2 sz.1) (by simp) (by simp; omega)
  rw [putMeta_first]
  dsimp only
  split
  · rw [hwrite _ _ _ (by simp) (by simp; omega), hscale]
  · exact hscale

theorem storeRead_putMeta_same (hng : 3 * d.ng k ≤ 0x200000) (hg : g < d.ng k) :
    (putMeta s p d k 0 g sz).storeRead p (d.addr + 2 * g) 2 = leBytes 2 sz.1 := by
  have hscale := State.slotRead_slotWrite s p { acc := false, ofs := d.addr + 2 * g } 0 (leBytes 2 sz.1) (by simp [Slot22.size])
  rw [length_leBytes] at hscale
  rw [putMeta_first]
  dsimp only
  split
  · rw [State.storeRead_slotWrite_apart (by simp; omega) (by omega) (by omega)]
    exact hscale
  · exact hscale

theorem storeRead_putMeta_other (hng : 3 * d.ng k ≤ 0x200000) (hg : g < d.ng k) (hj : j < d.ng k) (hgj : g ≠ j) :
    (putMeta s p d k 0 g sz).storeRead p (d.addr + 2 * j) 2 = s.storeRead p (d.addr + 2 * j) 2 := by
  have hscale : (s.slotWrite p { acc := false, ofs := d.addr + 2 * g } 0 (leBytes 2 sz.1)).storeRead p (d.addr + 2 * j) 2
      = s.storeRead p (d.addr + 2 * j) 2 :=
    State.storeRead_slotWrite_apart (by simp; omega) (by omega) (by simp; omega)
  rw [putMeta_first]
  dsimp only
  split
  · rw [State.storeRead_slotWrite_apart (by simp; omega) (by omega) (by omega)]
    exact hscale
  · exact hscale

end

-- ## QUANT (R71, R97)

/-- A group as QUANT makes it: its number, its codes with the scale and zero point they were made with, and its flags. -/
abbrev QuantGroup := Nat × (List Nat × Nat × Int) × AFlags

/-- The groups of a row, each made with the scale and zero point that it is given, if any. -/
def quantMade (d : QDesc) (given : Nat → Option (Nat × Int)) (xs : List Nat) : List QuantGroup :=
  (rowGroups d xs).zipIdx.map fun g => (g.2, Arith.go (quantGroup d (given g.2) g.1))

theorem mem_quantMade {d : QDesc} {given : Nat → Option (Nat × Int)} {xs : List Nat} {g : List Nat × Nat}
    (hg : g ∈ (rowGroups d xs).zipIdx) : (g.2, Arith.go (quantGroup d (given g.2) g.1)) ∈ quantMade d given xs :=
  List.mem_map_of_mem hg

/-- The codes of the groups of a row. -/
def quantCodes (made : List QuantGroup) : List Nat := made.flatMap fun g => g.2.1.1

/-- What QUANT does with a group of row `m` after its codes: its flags join, and RUNTIME records its scale and zero point. -/
def quantNote (learned : Bool) (p : Nat) (d : QDesc) (k m : Nat) (s : State) (g : QuantGroup) : State :=
  if learned then s.addFlags p g.2.2 else putMeta (s.addFlags p g.2.2) p d k m g.1 g.2.1.2

/-- The first row of a QUANT, from its groups. -/
def quantRow (learned : Bool) (p : Nat) (dst : Slot22) (d : QDesc) (k : Nat) (s : State) (made : List QuantGroup) : State :=
  made.foldl (quantNote learned p d k 0) (s.putElems p dst 0 d.fmt (quantCodes made))

/-- The bytes of a row of codes at an operand. -/
def quantBytes (s : State) (p : Nat) (dst : Slot22) (d : QDesc) (made : List QuantGroup) : List Byte :=
  pack d.fmt (quantCodes made ++ halfKept s p dst d.fmt (quantCodes made).length)

/-- The groups of a row are numbered in order, below their count. -/
structure NumberedGroups (d : QDesc) (k : Nat) (made : List QuantGroup) : Prop where
  rising : made.Pairwise fun g h => g.1 < h.1
  lt_ng : ∀ g ∈ made, g.1 < d.ng k
  length_codes : (quantCodes made).length = k

theorem quantMade_groups {d : QDesc} (hd : d.gran = .group → 0 < d.gsize) (given : Nat → Option (Nat × Int)) (xs : List Nat) :
    NumberedGroups d xs.length (quantMade d given xs) where
  rising := List.pairwise_map.mpr (pairwise_zipIdx_lt _)
  lt_ng g hg := by
    obtain ⟨x, hx, rfl⟩ := List.mem_map.mp hg
    exact (List.snd_lt_of_mem_zipIdx hx).trans_eq (length_rowGroups hd xs)
  length_codes := by
    have hlen := congrArg List.length (flatten_rowGroups hd xs)
    rw [List.length_flatten, ← List.zipIdx_map_fst 0 (rowGroups d xs), List.map_map] at hlen
    rw [quantCodes, quantMade, List.flatMap_map, List.length_flatMap, ← hlen]
    simp only [length_quantGroup, Function.comp_def]

section
variable {learned : Bool} {s u : State} {p k : Nat} {d : QDesc} {dst : Slot22} {made : List QuantGroup} {v : Pan}

theorem PanFrame.quantNote_own (h : PanFrame p (OwnMemory p) s v u) (m : Nat) (g : QuantGroup) :
    PanFrame p (OwnMemory p) s v (quantNote learned p d k m u g) := by
  unfold quantNote
  split
  · exact h.addFlags _
  · exact (h.addFlags _).putMeta_own ..

theorem quantNote_runtime (m : Nat) (g : QuantGroup) :
    quantNote false p d k m s g = putMeta (s.addFlags p g.2.2) p d k m g.1 g.2.1.2 := rfl

theorem byte_quantNote {g : QuantGroup} (hg : g.1 < d.ng k) {a : Nat}
    (ha : learned = false → ¬ InSlot p { acc := false, ofs := d.addr } (3 * d.ng k) a) :
    (quantNote learned p d k 0 s g).byte a = s.byte a := by
  unfold quantNote
  split
  · rfl
  · next hl => exact (byte_putMeta hg (ha (by simpa using hl))).trans (State.addFlags_byte ..)

section
variable (hmade : NumberedGroups d k made)
include hmade

/-- The notes of a row change its metadata record alone, and LEARNED has none. -/
theorem byte_foldl_quantNote {a : Nat} (ha : learned = false → ¬ InSlot p { acc := false, ofs := d.addr } (3 * d.ng k) a) :
    (made.foldl (quantNote learned p d k 0) s).byte a = s.byte a :=
  foldl_keeps (fun t : State => t.byte a = s.byte a) _ made
    (fun _ g hg h => (byte_quantNote (hmade.lt_ng g hg) ha).trans h) s rfl

theorem length_quantBytes_le (hk : k ≤ 0x10000) : (quantBytes s p dst d made).length ≤ dst.size := by
  have hle := length_pack_halfKept s p dst d.fmt (quantCodes made)
  have hsize := dst.le_size
  rw [hmade.length_codes] at hle
  rw [quantBytes, hmade.length_codes]
  omega

/-- A row changes its place in D and, RUNTIME, its metadata record. -/
theorem byte_quantRow (hk : k ≤ 0x10000) {a : Nat}
    (ha : learned = false → ¬ InSlot p { acc := false, ofs := d.addr } (3 * d.ng k) a)
    (hd : ¬ InSlot p dst (quantBytes s p dst d made).length a) : (quantRow learned p dst d k s made).byte a = s.byte a := by
  rw [quantRow, byte_foldl_quantNote hmade ha, State.putElems_eq_slotWrite]
  refine State.byte_slotWrite_out s p dst 0 _ a (length_quantBytes_le hmade hk) fun i hi hia => hd ⟨i, hi, ?_⟩
  rwa [Nat.zero_add] at hia

/-- The codes of a row stand in D where no metadata that it records lie. -/
theorem slotRead_quantRow (hk : k ≤ 0x10000)
    (hapart : learned = false → ∀ a, InSlot p { acc := false, ofs := d.addr } (3 * d.ng k) a →
      ¬ InSlot p dst (quantBytes s p dst d made).length a) :
    (quantRow learned p dst d k s made).slotRead p dst 0 (quantBytes s p dst d made).length = quantBytes s p dst d made := by
  have hnotes : (quantRow learned p dst d k s made).slotRead p dst 0 (quantBytes s p dst d made).length
      = (s.putElems p dst 0 d.fmt (quantCodes made)).slotRead p dst 0 (quantBytes s p dst d made).length :=
    State.slotRead_congr fun i hi => byte_foldl_quantNote hmade fun hl hrec => hapart hl _ hrec ⟨0 + i, by omega, rfl⟩
  rw [hnotes, State.putElems_eq_slotWrite]
  exact State.slotRead_slotWrite s p dst 0 _ (length_quantBytes_le hmade hk)

/-- The scale of every group of a RUNTIME row stands in the metadata record. -/
theorem storeRead_quantRow (hng : 3 * d.ng k ≤ 0x200000) {g : QuantGroup} (hg : g ∈ made) :
    (quantRow false p dst d k s made).storeRead p (d.addr + 2 * g.1) 2 = leBytes 2 g.2.1.2.1 := by
  unfold quantRow
  refine foldl_each (P := fun (g : QuantGroup) (t : State) => t.storeRead p (d.addr + 2 * g.1) 2 = leBytes 2 g.2.1.2.1) made
    (fun g hg t => ?_) ?_ hg _
  · rw [quantNote_runtime, storeRead_putMeta_same hng (hmade.lt_ng g hg)]
  · refine hmade.rising.imp_of_mem fun {g h} hg hh hlt t ht => ?_
    rw [quantNote_runtime, storeRead_putMeta_other hng (hmade.lt_ng h hh) (hmade.lt_ng g hg) hlt.ne', State.addFlags_storeRead, ht]

end

end

section
variable {learned : Bool} {e : PEnv} {d : QDesc} {s : State}

theorem quantAct_plain (learned : Bool) (e : PEnv) (s : State) : ∃ c, quantAct learned e s = plain (quantAct learned e s).s c := by
  unfold quantAct
  dsimp only
  split
  · exact ⟨_, rfl⟩
  · split <;> exact ⟨_, rfl⟩

theorem quantAct_frame : PanFrame e.p (OwnMemory e.p) s (s.pan e.p) (quantAct learned e s).s := by
  unfold quantAct
  dsimp only
  split
  · exact PanFrame.refl _ _ _
  · have hins := fun l : List (List Nat × AFlags) => foldl_keeps (PanFrame e.p (OwnMemory e.p) s (s.pan e.p))
      (fun s r => s.addFlags e.p r.2) l (fun _ _ _ h => h.addFlags _) s (PanFrame.refl _ _ _)
    split
    · exact PanFrame.quantNote_own (foldl_keeps (PanFrame e.p (OwnMemory e.p) s (s.pan e.p)) _ _
        (fun _ _ _ h => h.putElems_own ..) _ (hins _)) 0 (0, _)
    · exact foldl_keeps (PanFrame e.p (OwnMemory e.p) s (s.pan e.p)) _ _
        (fun _ row _ h => foldl_keeps _ _ row.2 (fun _ g _ h => h.quantNote_own row.1 g) _ (h.putElems_own ..)) _ (hins _)

theorem actMeta_addFlags (s : State) (p : Nat) (fl : AFlags) (q : Nat) (d : QDesc) (k m g : Nat) :
    actMeta (s.addFlags p fl) q d k m g = actMeta s q d k m g := rfl

/-- The elements of the first row of a QUANT word as FP32, and the flags of making them so. -/
def quantXs (e : PEnv) (s : State) : List Nat × AFlags :=
  Arith.go (quantInput s e.p (slotAt e.w 61) (fld e.w 109 2) 0 (fld e.w 83 16 + 1))

theorem length_quantXs (e : PEnv) (s : State) : (quantXs e s).1.length = fld e.w 83 16 + 1 := length_quantInput ..

/-- The groups of the first row of a QUANT word, as they are made from the state. -/
def quantFirst (learned : Bool) (e : PEnv) (d : QDesc) (s : State) : List QuantGroup :=
  quantMade d (fun g => if learned then some (actMeta s e.p d (fld e.w 83 16 + 1) 0 g) else none)
    (quantXs e s).1

theorem quantFirst_groups (hd : d.gran = .group → 0 < d.gsize) (learned : Bool) (e : PEnv) (s : State) :
    NumberedGroups d (fld e.w 83 16 + 1) (quantFirst learned e d s) := by
  have hgroups := quantMade_groups hd (fun g => if learned then some (actMeta s e.p d (fld e.w 83 16 + 1) 0 g) else none)
    (quantXs e s).1
  rwa [length_quantXs] at hgroups

/-- QUANT of one row, of either granularity, is the row of its groups. -/
theorem quantAct_one_row (hd : qdesc e.descs (fld e.w 111 8) = some d) (hrows : fld e.w 99 10 = 0) :
    (quantAct learned e s).s = quantRow learned e.p (slotAt e.w 39) d (fld e.w 83 16 + 1)
      (s.addFlags e.p (quantXs e s).2) (quantFirst learned e d s) := by
  have hxs : Arith.go (quantInput s e.p (slotAt e.w 61) (fld e.w 109 2) 0 (fld e.w 83 16 + 1)) = quantXs e s := rfl
  unfold quantAct
  rw [hd]
  simp only [hrows, hxs, actMeta_addFlags, Nat.zero_add, List.range_one, List.map_cons, List.map_nil, Nat.zero_mul, List.foldl_cons,
    List.foldl_nil, List.zipIdx_singleton, List.flatten_cons, List.flatten_nil, List.append_nil]
  split
  · next hg =>
    have hgroups : ∀ xs, rowGroups d xs = [xs] := fun xs => if_neg (by simp [hg])
    rw [chunks_one (Nat.succ_pos _) ((length_quantGroup ..).trans (length_quantXs e s))]
    simp only [quantRow, quantFirst, quantMade, quantCodes, hgroups, List.zipIdx_singleton, List.map_cons, List.map_nil,
      List.flatMap_cons, List.flatMap_nil, List.append_nil, List.foldl_cons, List.foldl_nil, Nat.zero_mul]
    rfl
  · rfl

theorem quantCodes_learned (e : PEnv) (d : QDesc) (s : State) : quantCodes (quantFirst true e d s) =
    (rowGroups d (quantXs e s).1).zipIdx.flatMap fun g =>
      (Arith.go (quantGroup d (some (actMeta s e.p d (fld e.w 83 16 + 1) 0 g.2)) g.1)).1.1 :=
  List.flatMap_map ..

theorem quantCodes_runtime (e : PEnv) (d : QDesc) (s : State) : quantCodes (quantFirst false e d s) =
    (rowGroups d (quantXs e s).1).flatMap fun g =>
      (Arith.go (quantGroup d none g)).1.1 := by
  conv_rhs => rw [← List.zipIdx_map_fst 0 (rowGroups d _), List.flatMap_map]
  exact List.flatMap_map ..

/-- QUANT of one row: what it keeps, the codes that it leaves, and the scales that RUNTIME leaves (R63, R71). -/
theorem quantAct_converts (hd : qdesc e.descs (fld e.w 111 8) = some d) (hrows : fld e.w 99 10 = 0) :
    let k := fld e.w 83 16 + 1
    let dst := slotAt e.w 39
    let u := (quantAct learned e s).s
    let made := quantFirst learned e d s
    let bytes := pack d.fmt (quantCodes made ++ halfKept s e.p dst d.fmt k)
    let record (a : Nat) : Prop := InSlot e.p { acc := false, ofs := d.addr } (3 * d.ng k) a
    (∀ a, (learned = false → ¬ record a) → ¬ InSlot e.p dst bytes.length a → u.byte a = s.byte a)
      ∧ ((learned = false → ∀ a, record a → ¬ InSlot e.p dst bytes.length a) → u.slotRead e.p dst 0 bytes.length = bytes)
      ∧ (learned = false → ∀ g ∈ made, u.storeRead e.p (d.addr + 2 * g.1) 2 = leBytes 2 g.2.1.2.1) := by
  dsimp only
  have hk : fld e.w 83 16 < 0x10000 := Nat.mod_lt _ (by decide)
  have hgroups := quantFirst_groups (qdesc_gsize_pos hd) learned e s
  have hng : d.ng (fld e.w 83 16 + 1) ≤ fld e.w 83 16 + 1 := QDesc.ng_le (qdesc_gsize_pos hd) (Nat.succ_pos _)
  have hbytes : pack d.fmt (quantCodes (quantFirst learned e d s) ++ halfKept s e.p (slotAt e.w 39) d.fmt (fld e.w 83 16 + 1))
      = quantBytes s e.p (slotAt e.w 39) d (quantFirst learned e d s) := by rw [quantBytes, hgroups.length_codes]
  rw [quantAct_one_row hd hrows, hbytes]
  refine ⟨fun a => byte_quantRow (s := s.addFlags e.p _) hgroups hk, slotRead_quantRow (s := s.addFlags e.p _) hgroups hk, ?_⟩
  rintro rfl g hg
  exact storeRead_quantRow hgroups (by omega) hg

end

-- ## DEQUANT (R72, R97)

theorem length_pack_whole {f : Fmt} (hf : f.bits ≠ 4) (cs : List Nat) : (pack f cs).length = cs.length * f.bytes := by
  have hbytes : f.bits / 8 = f.bytes := by
    revert hf
    cases f <;> decide
  rw [length_pack_bytes hf, hbytes]

theorem State.putElems_whole {f : Fmt} (hf : f.bits ≠ 4) (s : State) (p : Nat) (sl : Slot22) (k : Nat) (cs : List Nat) :
    s.putElems p sl k f cs = s.slotWrite p sl k (pack f cs) := by
  simp [State.putElems, hf]

/-- A row of DEQUANT's results, by its number: written in the format asked for, and its flags. -/
def dequantRow (p : Nat) (dst : Slot22) (stride : Nat) (out : Fmt) (s : State) (r : (List Nat × AFlags) × Nat) : State :=
  (s.putElems p dst (r.2 * stride) out r.1.1).addFlags p r.1.2

section
variable {p : Nat} {dst : Slot22} {stride k : Nat} {out : Fmt} (hout : out.bits ≠ 4) (hsize : k * out.bytes ≤ dst.size) {s : State}
include hout hsize

theorem slotRead_dequantRow_same {r : (List Nat × AFlags) × Nat} (hr : r.1.1.length = k) :
    (dequantRow p dst stride out s r).slotRead p dst (r.2 * stride) (k * out.bytes) = pack out r.1.1 := by
  have hlen := length_pack_whole hout r.1.1
  rw [hr] at hlen
  rw [dequantRow, State.addFlags_slotRead, State.putElems_whole hout, ← hlen]
  exact State.slotRead_slotWrite s p dst _ _ (hlen ▸ hsize)

theorem slotRead_dequantRow_apart {r : (List Nat × AFlags) × Nat} (hr : r.1.1.length = k) {j : Nat}
    (h : ∀ x y, x < k * out.bytes → y < k * out.bytes → slotAddr p dst (j + x) ≠ slotAddr p dst (r.2 * stride + y)) :
    (dequantRow p dst stride out s r).slotRead p dst j (k * out.bytes) = s.slotRead p dst j (k * out.bytes) := by
  have hlen := length_pack_whole hout r.1.1
  rw [hr] at hlen
  rw [dequantRow, State.addFlags_slotRead, State.putElems_whole hout]
  exact State.slotRead_slotWrite_apart (hlen ▸ hsize) fun y hy x hx => (h x y hx (hlen ▸ hy)).symm

theorem byte_dequantRow_first {r : List Nat × AFlags} (hr : r.1.length = k) {a : Nat} (ha : ¬ InSlot p dst (k * out.bytes) a) :
    (dequantRow p dst stride out s (r, 0)).byte a = s.byte a := by
  have hlen := length_pack_whole hout r.1
  rw [hr] at hlen
  rw [dequantRow, State.addFlags_byte, State.putElems_whole hout]
  refine State.byte_slotWrite_out s p dst _ _ a (hlen ▸ hsize) fun i hi hia => ha ⟨i, hlen ▸ hi, ?_⟩
  rwa [Nat.zero_mul, Nat.zero_add] at hia

/-- A row that no later row overlaps stands at the end. -/
theorem slotRead_foldl_dequantRow {l : List (List Nat × AFlags)} (hl : ∀ r ∈ l, r.1.length = k) {r : List Nat × AFlags} {m : Nat}
    (hr : (r, m) ∈ l.zipIdx) (hapart : ∀ n i j, m < n → n < l.length → i < k * out.bytes → j < k * out.bytes →
      slotAddr p dst (m * stride + i) ≠ slotAddr p dst (n * stride + j)) :
    (l.zipIdx.foldl (dequantRow p dst stride out) s).slotRead p dst (m * stride) (k * out.bytes) = pack out r.1 := by
  have hlen : ∀ x ∈ l.zipIdx, x.1.1.length = k := fun x hx => hl _ (List.fst_mem_of_mem_zipIdx hx)
  refine foldl_each (P := fun (r : (List Nat × AFlags) × Nat) (t : State) =>
    (∀ n i j, r.2 < n → n < l.length → i < k * out.bytes → j < k * out.bytes →
      slotAddr p dst (r.2 * stride + i) ≠ slotAddr p dst (n * stride + j)) →
    t.slotRead p dst (r.2 * stride) (k * out.bytes) = pack out r.1.1) l.zipIdx (fun r hr t _ => ?_) ?_ hr s hapart
  · exact slotRead_dequantRow_same hout hsize (hlen r hr)
  · refine (pairwise_zipIdx_lt l).imp_of_mem fun {r x} _ hx hlt t ht h => ?_
    rw [slotRead_dequantRow_apart hout hsize (hlen x hx) fun i j hi hj => h x.2 i j hlt (List.snd_lt_of_mem_zipIdx hx) hi hj]
    exact ht h

end

/-- The format that DEQUANT's results are written in. -/
def dequantFmt (bf16 : Bool) : Fmt := if bf16 then .bf16 else .fp32

theorem dequantFmt_bits (bf16 : Bool) : (dequantFmt bf16).bits ≠ 4 := by cases bf16 <;> decide
theorem dequantFmt_bytes_le (bf16 : Bool) : (dequantFmt bf16).bytes ≤ 4 := by cases bf16 <;> decide

/-- The values of a row that a DEQUANT converts, and their flags. -/
def dequantVals (bf16 : Bool) (e : PEnv) (d : QDesc) (s : State) (m : Nat) : List Nat × AFlags :=
  let k := fld e.w 83 16 + 1
  Arith.go ((s.slotElems e.p (slotAt e.w 61) (m * qdStride (fld e.w 19 10) (cdiv (k * d.fmt.bits) 8)) d.fmt k).zipIdx.mapM fun x =>
    let sz := actMeta s e.p d k m (d.groupOf x.2)
    dequantOne d (d.widen sz.1, sz.2) bf16 x.1)

section
variable {bf16 : Bool} {e : PEnv} {d : QDesc} {s : State}

theorem length_dequantVals (m : Nat) : (dequantVals bf16 e d s m).1.length = fld e.w 83 16 + 1 := by
  rw [dequantVals, Arith.length_go_mapM, List.length_zipIdx, State.length_slotElems]

theorem dequantAct_plain (bf16 : Bool) (e : PEnv) (s : State) : ∃ c, dequantAct bf16 e s = plain (dequantAct bf16 e s).s c := by
  unfold dequantAct
  dsimp only
  split <;> exact ⟨_, rfl⟩

/-- DEQUANT takes every row's values before it writes the first. -/
theorem dequantAct_rows (hd : qdesc e.descs (fld e.w 111 8) = some d) :
    (dequantAct bf16 e s).s = ((List.range (fld e.w 99 10 + 1)).map (dequantVals bf16 e d s)).zipIdx.foldl
      (dequantRow e.p (slotAt e.w 39) (qdStride (fld e.w 29 10) ((fld e.w 83 16 + 1) * (dequantFmt bf16).bytes)) (dequantFmt bf16)) s := by
  unfold dequantAct
  rw [hd]
  rfl

theorem dequantAct_frame : PanFrame e.p (OwnMemory e.p) s (s.pan e.p) (dequantAct bf16 e s).s := by
  unfold dequantAct
  dsimp only
  split
  · exact PanFrame.refl _ _ _
  · exact foldl_keeps (PanFrame e.p (OwnMemory e.p) s (s.pan e.p)) _ _ (fun _ _ _ h => (h.putElems_own ..).addFlags _) s
      (PanFrame.refl _ _ _)

theorem dequant_row_le_size (e : PEnv) (bf16 : Bool) : (fld e.w 83 16 + 1) * (dequantFmt bf16).bytes ≤ (slotAt e.w 39).size := by
  have hk : fld e.w 83 16 < 0x10000 := Nat.mod_lt _ (by decide)
  exact (Nat.mul_le_mul (show fld e.w 83 16 + 1 ≤ 0x10000 from hk) (dequantFmt_bytes_le bf16)).trans (slotAt e.w 39).le_size

theorem slotRead_dequantAct (hd : qdesc e.descs (fld e.w 111 8) = some d) {m : Nat} (hm : m ≤ fld e.w 99 10) :
    let len := (fld e.w 83 16 + 1) * (dequantFmt bf16).bytes
    let stride := qdStride (fld e.w 29 10) len
    (∀ n i j, m < n → n ≤ fld e.w 99 10 → i < len → j < len →
      slotAddr e.p (slotAt e.w 39) (m * stride + i) ≠ slotAddr e.p (slotAt e.w 39) (n * stride + j)) →
    (dequantAct bf16 e s).s.slotRead e.p (slotAt e.w 39) (m * stride) len = pack (dequantFmt bf16) (dequantVals bf16 e d s m).1 := by
  intro len stride hapart
  rw [dequantAct_rows hd]
  refine slotRead_foldl_dequantRow (dequantFmt_bits bf16) (dequant_row_le_size e bf16) (fun r hr => ?_) ?_ fun n i j hn hlast => ?_
  · obtain ⟨x, -, rfl⟩ := List.mem_map.mp hr
    exact length_dequantVals x
  · rw [List.mk_mem_zipIdx_iff_getElem?, List.getElem?_map, List.getElem?_range (Nat.lt_succ_of_le hm)]
    rfl
  · rw [List.length_map, List.length_range] at hlast
    exact hapart n i j hn (Nat.le_of_lt_succ hlast)

theorem dequantAct_one_row (hd : qdesc e.descs (fld e.w 111 8) = some d) (hrows : fld e.w 99 10 = 0) :
    ((dequantAct bf16 e s).s.pan e.p).arith = (s.pan e.p).arith ||| (dequantVals bf16 e d s 0).2
      ∧ ∀ a, ¬ InSlot e.p (slotAt e.w 39) ((fld e.w 83 16 + 1) * (dequantFmt bf16).bytes) a →
        (dequantAct bf16 e s).s.byte a = s.byte a := by
  rw [dequantAct_rows hd, hrows]
  refine ⟨?_, fun a ha => byte_dequantRow_first (dequantFmt_bits bf16) (dequant_row_le_size e bf16) (length_dequantVals 0) ha⟩
  simp [dequantRow, State.addFlags, State.putElems]

end

/-- An instruction of a class that always completes: what its act leaves, counted. -/
theorem exec_of_plain {i : Instr} {cls f : Nat} {act : PEnv → State → Done} {p : BitVec 6} {s : State} {e : PEnv} (h : Runs s p e cls f)
    (hx : exec i s = .next (panRow cls (funcIs f) act p [] s)) (ha : ∃ c, act e s = plain (act e s).s c) :
    ∃ c, exec i s = .next (((act e s).s.charge p.toNat c).advance p.toNat) := by
  obtain ⟨c, hc⟩ := ha
  obtain ⟨-, -, hfunc⟩ := id h
  exact ⟨c, hx.trans (congrArg Host.Outcome.next (panRow_plain h (by simp [funcIs, hfunc]) hc))⟩

/-- Settles O7: a row of QUANT is one write of its codes and one note per group, and a DEQUANT one write per row. -/
theorem quantAndDequantConvertTheirRows : Obligations.QuantAndDequantConvertTheirRows := by
  unfold Obligations.QuantAndDequantConvertTheirRows
  refine ⟨fun s p e h => ?_, fun s p e h => ?_, fun s p e bf16 h => ?_⟩
  · obtain ⟨c, hexec⟩ := exec_of_plain (i := .quantRuntime p []) h rfl (quantAct_plain false e s)
    obtain ⟨hp, -, -⟩ := State.fetch_some h.1
    rw [← hp] at hexec ⊢
    refine ⟨_, _, hexec, rfl, quantAct_frame.charge c, fun d hd hrows => ?_⟩
    obtain ⟨hframe, hcodes, hscales⟩ := quantAct_converts (learned := false) (s := s) hd hrows
    dsimp only at hframe hcodes ⊢
    rw [quantCodes_runtime] at hframe hcodes
    refine ⟨fun a ha => hframe a fun _ => ha, fun hapart => ⟨hcodes fun _ => hapart, fun g hg => ?_⟩⟩
    exact (hscales rfl _ (mem_quantMade hg) :)
  · obtain ⟨c, hexec⟩ := exec_of_plain (i := .quantLearned p []) h rfl (quantAct_plain true e s)
    obtain ⟨hp, -, -⟩ := State.fetch_some h.1
    rw [← hp] at hexec ⊢
    refine ⟨_, _, hexec, rfl, quantAct_frame.charge c, fun d hd hrows => ?_⟩
    obtain ⟨hframe, hcodes, -⟩ := quantAct_converts (learned := true) (s := s) hd hrows
    dsimp only at hframe hcodes ⊢
    rw [quantCodes_learned] at hframe hcodes
    exact ⟨hcodes (by simp), fun a => hframe a (by simp)⟩
  · have hx : exec (if bf16 then .dequantBf16 p [] else .dequantFp32 p []) s
        = .next (panRow kDequant (funcIs (if bf16 then 1 else 0)) (dequantAct bf16) p [] s) := by
      cases bf16 <;> rfl
    obtain ⟨c, hexec⟩ := exec_of_plain h hx (dequantAct_plain bf16 e s)
    obtain ⟨hp, -, -⟩ := State.fetch_some h.1
    rw [← hp] at hexec ⊢
    refine ⟨_, _, hexec, rfl, dequantAct_frame.charge c, fun d hd => ⟨fun m hm hapart => ?_, fun hrows => ?_⟩⟩
    · exact slotRead_dequantAct hd hm hapart
    · obtain ⟨harith, hframe⟩ := dequantAct_one_row (s := s) (bf16 := bf16) hd hrows
      exact ⟨(State.charge_arith ..).trans harith, hframe⟩

end Sys2Proof.Machine

/-! SUPPORT. Instructions that change their own pan, loops (R104), and commands that are gone once they have completed (R222). -/
namespace Sys2Proof.Machine

-- ## An instruction that changes its own pan

section
variable {p : Nat} {hit : Nat → Prop} {s u : State} {v : Pan}

/-- A pan that is put in place of its own. -/
theorem PanFrame.put (p : Nat) (hit : Nat → Prop) (s : State) (x : Pan) : PanFrame p hit s x (s.setPan p x) :=
  ⟨rfl, fun q hq => by rw [State.setPan_pan, if_neg hq], by rw [State.setPan_pan, if_pos rfl], fun _ _ => rfl⟩

/-- A free value may be drawn. -/
theorem PanFrame.draw (h : PanFrame p hit s v u) : PanFrame p hit s v u.draw.2 := h

end

/-- A pan's instruction that has dealt with the program counter itself. -/
theorem panRow_stays {cls f : Nat} {func : Nat → Bool} {act : PEnv → State → Done} {p : BitVec 6} {s t : State} {e : PEnv} {c : Cost}
    (h : Runs s p e cls f) (hf : func e.w = true) (ha : act e s = { s := t, cost := c, stay := true }) :
    panRow cls func act p [] s = t.charge p.toNat c := by
  rw [panRow_runs h hf, ha]; rfl

/-- A pan's instruction that stops. -/
theorem panRow_stops {cls f : Nat} {func : Nat → Bool} {act : PEnv → State → Done} {p : BitVec 6} {s t : State} {e : PEnv} {st : Byte}
    (h : Runs s p e cls f) (hf : func e.w = true) (ha : act e s = { s := t, stop := some st }) :
    panRow cls func act p [] s = t.stopPan e st := by
  rw [panRow_runs h hf, ha]

-- ## Loops (R104)

/-- Reaching the end of a body of which iterations are left goes back to its first word. -/
theorem advanceLoops_again {f : LoopFrame} (h : f.iter + 1 < f.count) (fs : List LoopFrame) :
    advanceLoops (f.start + f.body) (f :: fs) = (f.start, { f with iter := f.iter + 1 } :: fs) := by
  simp [advanceLoops, h]

/-- Reaching the end of a body for the last time leaves the loop. -/
theorem advanceLoops_over {f : LoopFrame} (h : ¬ f.iter + 1 < f.count) (fs : List LoopFrame) :
    advanceLoops (f.start + f.body) (f :: fs) = advanceLoops (f.start + f.body) fs := by
  simp [advanceLoops, h]

/-- After `k` ends of the body, `k` below COUNT, the loop is in iteration `k`. -/
theorem repeat_advanceLoops {f : LoopFrame} (fs : List LoopFrame) (hi : f.iter = 0) : ∀ k, k < f.count →
    Nat.repeat (fun x : Nat × List LoopFrame => advanceLoops (f.start + f.body) x.2) k (f.start, f :: fs)
      = (f.start, { f with iter := k } :: fs)
  | 0, _ => by
    have hf : ({ f with iter := 0 } : LoopFrame) = f := by rw [← hi]
    rw [hf]
    rfl
  | k + 1, hk => by
    rw [Nat.repeat, repeat_advanceLoops fs hi k (by omega)]
    exact advanceLoops_again (f := { f with iter := k }) hk fs

/-- The COUNT-th end of the body is seen by the enclosing loops. -/
theorem repeat_advanceLoops_count {f : LoopFrame} (fs : List LoopFrame) (hi : f.iter = 0) (hc : 0 < f.count) :
    Nat.repeat (fun x : Nat × List LoopFrame => advanceLoops (f.start + f.body) x.2) f.count (f.start, f :: fs)
      = advanceLoops (f.start + f.body) fs := by
  obtain ⟨n, hn⟩ : ∃ n, f.count = n + 1 := ⟨f.count - 1, by omega⟩
  rw [hn, Nat.repeat, repeat_advanceLoops fs hi n (by omega)]
  exact advanceLoops_over (f := { f with iter := n }) (by simp [hn]) fs

-- ## A command that has completed is gone

@[simp] theorem State.settleStream_cmds (s : State) (u : KvUse) (good : Bool) : (s.settleStream u good).cmds = s.cmds := by
  unfold State.settleStream
  dsimp only
  split
  · rfl
  · split <;> rfl
@[simp] theorem State.leavePans_cmds (s : State) (seq : DWord) : (s.leavePans seq).cmds = s.cmds := by
  have h := State.leavePans_frame s seq
  generalize s.leavePans seq = u at h ⊢
  exact (congrArg State.cmds h :)
@[simp] theorem State.creditSteps_cmds (s : State) (c : Cmd) (good : Bool) : (s.creditSteps c good).cmds = s.cmds :=
  (congrArg State.cmds (State.creditSteps_frame s c good) :)
@[simp] theorem State.countFull_cmds (s : State) (c : Cmd) (st : Byte) : (s.countFull c st).cmds = s.cmds :=
  (congrArg State.cmds (State.countFull_frame s c st) :)
@[simp] theorem State.noteLock_cmds (s : State) (c : Cmd) (good : Bool) : (s.noteLock c good).cmds = s.cmds :=
  (congrArg State.cmds (State.noteLock_frame s c good) :)
@[simp] theorem State.tallyDone_cmds (s : State) (c : Cmd) (st : Byte) : (s.tallyDone c st).cmds = s.cmds := rfl
@[simp] theorem State.putEntry_cmds (s : State) (c : Cmd) (st : Byte) : (s.putEntry c st).cmds = s.cmds := by
  unfold State.putEntry
  dsimp only
  split <;> rfl
@[simp] theorem State.settleCtx_cmds (s : State) (q : Nat) : (s.settleCtx q).cmds = s.cmds :=
  (congrArg State.cmds (State.settleCtx_frame s q) :)

/-- A completion takes the command out of the table, and no other. -/
theorem State.completeOne_cmds (s : State) (c : Cmd) (st : Byte) :
    (s.completeOne c st).cmds = s.cmds.filter fun d => d.seq ≠ c.seq := by
  have hkv (good : Bool) : (c.kv.foldl (fun s u => s.settleStream u good) s).cmds = s.cmds :=
    foldl_keeps (fun t : State => t.cmds = s.cmds) _ _ (fun t u _ h => (State.settleStream_cmds t u _).trans h) s rfl
  simp only [State.completeOne, State.settleCtx_cmds, State.dropCmd, State.putEntry_cmds, State.tallyDone_cmds,
    State.noteLock_cmds, State.countFull_cmds, State.creditSteps_cmds, State.leavePans_cmds, hkv]

theorem State.cmd?_none_iff {s : State} {seq : DWord} : s.cmd? seq = none ↔ ∀ d ∈ s.cmds, d.seq ≠ seq := by
  simp [State.cmd?]

/-- A completion brings no command back. -/
theorem State.cmd?_completeOne {s : State} {seq : DWord} (h : s.cmd? seq = none) (c : Cmd) (st : Byte) :
    (s.completeOne c st).cmd? seq = none := by
  rw [State.cmd?_none_iff] at h ⊢
  rw [State.completeOne_cmds]
  exact fun d hd => h d (List.mem_filter.mp hd).1

theorem State.cmd?_beginCmd_none {s : State} {seq : DWord} (h : s.cmd? seq = none) (c : Cmd) : (s.beginCmd c).cmd? seq = none := by
  rw [State.cmd?_none_iff] at h ⊢
  intro d hd
  obtain ⟨d', hd', rfl⟩ := List.mem_map.mp hd
  have := h d' hd'
  split <;> exact this

theorem State.cmd?_finishNoRow {s : State} {seq : DWord} (h : s.cmd? seq = none) (c : Cmd) (st : Byte) :
    (s.finishNoRow c st).cmd? seq = none := by
  unfold State.finishNoRow
  dsimp only
  split
  · exact State.cmd?_beginCmd_none h c
  · exact State.cmd?_completeOne (State.cmd?_beginCmd_none h c) _ _

/-- A command that has completed is in flight no more. -/
theorem State.cmd?_complete (s : State) (seq : DWord) (st : Byte) : (s.complete seq st).cmd? seq = none := by
  unfold State.complete
  split
  · next h => exact h
  · next c h =>
    refine State.settle_keeps (fun t => t.cmd? seq = none) (fun _ _ _ h => State.cmd?_completeOne h _ _)
      (fun _ _ _ h => State.cmd?_finishNoRow h _ _) _ _ ?_
    have hc : c.seq = seq := by simpa using List.find?_some h
    rw [State.cmd?_none_iff, State.completeOne_cmds]
    intro d hd
    simpa [hc] using (List.mem_filter.mp hd).2

end Sys2Proof.Machine

/-! SUPPORT. What the end of a command leaves beside the pans does not depend on the pans (R110, R222). -/
namespace Sys2Proof.Machine

/-- The state with other pans. -/
def State.withPans (s : State) (l : Tab Pan) : State := { s with pans := l }

section
variable (s : State) (l : Tab Pan)

theorem State.withPans_ite (b : Prop) [Decidable b] (t : State) :
    (if b then s else t).withPans l = if b then s.withPans l else t.withPans l := apply_ite (State.withPans · l) b s t

theorem foldl_withPans {α : Type} {f : State → α → State} (h : ∀ s a, f (s.withPans l) a = (f s a).withPans l) (xs : List α) :
    xs.foldl f (s.withPans l) = (xs.foldl f s).withPans l :=
  List.foldl_hom (fun t : State => t.withPans l) h

theorem State.settleStream_withPans (u : KvUse) (good : Bool) :
    (s.withPans l).settleStream u good = (s.settleStream u good).withPans l := by
  simp only [State.settleStream, State.withPans_ite]; rfl
theorem State.creditSteps_withPans (c : Cmd) (good : Bool) :
    (s.withPans l).creditSteps c good = (s.creditSteps c good).withPans l := by
  simp only [State.creditSteps, State.withPans_ite]; rfl
theorem State.countFull_withPans (c : Cmd) (st : Byte) : (s.withPans l).countFull c st = (s.countFull c st).withPans l := by
  simp only [State.countFull, State.withPans_ite]; rfl
theorem State.noteLock_withPans (c : Cmd) (good : Bool) : (s.withPans l).noteLock c good = (s.noteLock c good).withPans l := by
  simp only [State.noteLock, State.withPans_ite]
  cases c.locked <;> rfl
theorem State.spillEntry_withPans (e : TEntry) : (s.withPans l).spillEntry e = (s.spillEntry e).withPans l := by
  simp only [State.spillEntry, State.withPans_ite]; rfl
theorem State.tallyMod_withPans (q : DWord) (f : TEntry → TEntry) : (s.withPans l).tallyMod q f = (s.tallyMod q f).withPans l := by
  have hspill := foldl_withPans s l (f := fun s e => if e.seq = q then s.spillEntry e else s) fun t e => by
    rw [State.withPans_ite, State.spillEntry_withPans]
  simp only [State.tallyMod]
  rw [show (s.withPans l).tally = s.tally from rfl, hspill]
  rfl
theorem State.putEntry_withPans (c : Cmd) (st : Byte) : (s.withPans l).putEntry c st = (s.putEntry c st).withPans l := by
  have hf (a n : Nat) : (s.withPans l).fencedAt a n = s.fencedAt a n := rfl
  have hs (a n : Nat) : (s.withPans l).hitsSealed a n = s.hitsSealed a n := rfl
  have hc (q : Nat) : (s.withPans l).ctx q = s.ctx q := rfl
  simp only [State.putEntry, hf, hs, hc]
  split <;> rfl
theorem State.settleCtx_withPans (q : Nat) : (s.withPans l).settleCtx q = (s.settleCtx q).withPans l := by
  simp only [State.settleCtx, State.withPans_ite]; rfl

/-- The pans that leave a command change alone. -/
theorem State.leavePans_eq (seq : DWord) : ∃ l', s.leavePans seq = s.withPans l' := by
  have hf := State.leavePans_frame s seq
  generalize s.leavePans seq = u at hf ⊢
  exact ⟨u.pans, by rw [← hf]; rfl⟩

theorem State.leavePans_withPans (seq : DWord) : ∃ l', (s.withPans l).leavePans seq = (s.leavePans seq).withPans l' := by
  obtain ⟨l₁, h₁⟩ := s.leavePans_eq seq
  obtain ⟨l₂, h₂⟩ := (s.withPans l).leavePans_eq seq
  exact ⟨l₂, by rw [h₁, h₂]; rfl⟩

theorem State.completeOne_withPans (c : Cmd) (st : Byte) : ∃ l', (s.withPans l).completeOne c st = (s.completeOne c st).withPans l' := by
  have hkv (good : Bool) := foldl_withPans s l (f := fun s u => s.settleStream u good) (fun t u => t.settleStream_withPans l u good) c.kv
  obtain ⟨l', hl'⟩ := State.leavePans_withPans (c.kv.foldl (fun s u => s.settleStream u (st == stOk || st == stTrunc)) s) l c.seq
  refine ⟨l', ?_⟩
  have htally (t : State) : (t.withPans l').tallyDone c st = (t.tallyDone c st).withPans l' := State.tallyMod_withPans ..
  have hdrop (t : State) : (t.withPans l').dropCmd c = (t.dropCmd c).withPans l' := rfl
  simp only [State.completeOne, hkv, hl', State.creditSteps_withPans, State.countFull_withPans, State.noteLock_withPans, htally,
    State.putEntry_withPans, hdrop, State.settleCtx_withPans]

theorem State.finishNoRow_withPans (c : Cmd) (st : Byte) : ∃ l', (s.withPans l).finishNoRow c st = (s.finishNoRow c st).withPans l' := by
  have hb : (s.withPans l).beginCmd c = (s.beginCmd c).withPans l := by
    simp only [State.beginCmd]
    rw [State.tallyMod_withPans]
    rfl
  unfold State.finishNoRow
  dsimp only
  rw [hb, show ((s.beginCmd c).withPans l).cmd? c.seq = (s.beginCmd c).cmd? c.seq from rfl]
  split
  · exact ⟨l, rfl⟩
  · exact State.completeOne_withPans _ _ _ _

theorem State.settle_withPans : ∀ (fuel : Nat) (s : State) (l : Tab Pan),
    ∃ l', State.settle fuel (s.withPans l) = (State.settle fuel s).withPans l'
  | 0, _, l => ⟨l, rfl⟩
  | fuel + 1, s, l => by
    unfold State.settle
    rw [show (s.withPans l).cmds.find? (s.withPans l).waitOver = s.cmds.find? s.waitOver from rfl,
      show ((s.withPans l).cmds.find? fun c => ((s.withPans l).noRow c).isSome && (s.withPans l).canStart c)
        = s.cmds.find? fun c => (s.noRow c).isSome && s.canStart c from rfl]
    split
    · next c _ =>
      obtain ⟨l', h⟩ := State.completeOne_withPans s l c c.status
      rw [h]
      exact State.settle_withPans fuel _ l'
    · split
      · next c _ =>
        obtain ⟨l', h⟩ := State.finishNoRow_withPans s l c ((s.noRow c).getD stOk)
        rw [show (s.withPans l).noRow c = s.noRow c from rfl, h]
        exact State.settle_withPans fuel _ l'
      · exact ⟨l, rfl⟩

/-- What the end of a command leaves beside the pans does not depend on them. -/
theorem State.complete_withPans (seq : DWord) (st : Byte) : ∃ l', (s.withPans l).complete seq st = (s.complete seq st).withPans l' := by
  unfold State.complete
  rw [show (s.withPans l).cmd? seq = s.cmd? seq from rfl]
  split
  · exact ⟨l, rfl⟩
  · next c _ =>
    obtain ⟨l', h⟩ := State.completeOne_withPans s l c st
    rw [h]
    exact State.settle_withPans _ _ l'

end
end Sys2Proof.Machine

/-! SUPPORT. The end of a pan's part in its command (R103, R110). -/
namespace Sys2Proof.Machine

@[simp] theorem State.charge_run (s : State) (p : Nat) (c : Cost) : ((s.charge p c).pan p).run = (s.pan p).run := by
  unfold State.charge
  dsimp only
  rw [State.modPan_eq, State.setPan_pan, if_pos rfl]
  split <;> rfl

/-- The pan has left the command, which has noted its step offset. -/
def State.noteEnd (s : State) (q : Nat) (seq : DWord) : State :=
  (s.modPan q Pan.leave).modCmd seq fun d => { d with ended := d.ended ++ [(q, (s.pan q).stepOff)] }

/-- What the end of a pan's part leaves of the command `c` that it ran. -/
def State.partEnds (s : State) (q : Nat) (seq : DWord) (c : Cmd) : State :=
  let v := s.noteEnd q seq
  if c.arrived ≠ [] then v.stopCmd seq stAborted
  else if (c.ended ++ [(q, (s.pan q).stepOff)]).length = c.pans.length then v.complete seq stOk
  else v

section
variable {s : State} {q : Nat} {r : PanRun} {c : Cmd}

theorem State.cmd?_noteEnd (hc : s.cmd? r.seq = some c) :
    (s.noteEnd q r.seq).cmd? r.seq = some { c with ended := c.ended ++ [(q, (s.pan q).stepOff)] } := by
  rw [State.noteEnd, State.cmd?_modCmd]
  · rw [show (s.modPan q Pan.leave).cmd? r.seq = s.cmd? r.seq from rfl, hc]; rfl
  · exact fun _ => rfl

theorem State.endPan_eq (hr : (s.pan q).run = some r) (hrace : r.race = false) (hc : s.cmd? r.seq = some c) :
    s.endPan q = s.partEnds q r.seq c := by
  have hn := State.cmd?_noteEnd (q := q) hc
  unfold State.noteEnd at hn
  simp only [State.endPan, hr, hrace, hn, State.partEnds, State.noteEnd, Bool.false_eq_true, if_false]
  cases c.arrived <;> rfl

theorem State.noteEnd_run : ((s.noteEnd q r.seq).pan q).run = none := by
  simp [State.noteEnd, Pan.leave]

/-- A pan whose part has ended runs nothing. -/
theorem State.partEnds_run : ((s.partEnds q r.seq c).pan q).run = none := by
  have h (st : Byte) : (((s.noteEnd q r.seq).complete r.seq st).pan q).run = none :=
    (State.complete_pans _ _ _ q).run_none State.noteEnd_run
  unfold State.partEnds
  dsimp only
  split
  · exact h _
  · split
    · exact h _
    · exact State.noteEnd_run

/-- While others of the command go on, the command notes the pan's step offset. -/
theorem State.cmd?_partEnds_goesOn (hc : s.cmd? r.seq = some c) (ha : c.arrived = [])
    (hn : (c.ended ++ [(q, (s.pan q).stepOff)]).length ≠ c.pans.length) :
    (s.partEnds q r.seq c).cmd? r.seq = some { c with ended := c.ended ++ [(q, (s.pan q).stepOff)] } := by
  rw [State.partEnds, if_neg (by simpa using ha), if_neg hn]
  exact State.cmd?_noteEnd hc

/-- With the last of them, or where pans wait at a confluence, the command is gone. -/
theorem State.cmd?_partEnds_over (h : c.arrived ≠ [] ∨ (c.ended ++ [(q, (s.pan q).stepOff)]).length = c.pans.length) :
    (s.partEnds q r.seq c).cmd? r.seq = none := by
  unfold State.partEnds
  dsimp only
  split
  · exact State.cmd?_complete _ _ _
  · rw [if_pos (h.resolve_left ‹_›)]
    exact State.cmd?_complete _ _ _

/-- Beside the pans, the end of a pan's part does not depend on where its program counter stands. -/
theorem State.partEnds_movedPc (x : Pan) (hx : x.stepOff = (s.pan q).stepOff) :
    ∃ l, (s.setPan q x).partEnds q r.seq c = (s.partEnds q r.seq c).withPans l := by
  obtain ⟨l, hl⟩ : ∃ l, (s.setPan q x).noteEnd q r.seq = (s.noteEnd q r.seq).withPans l := by
    refine ⟨_, (?_ : _ = (s.noteEnd q r.seq).withPans ((s.setPan q x).noteEnd q r.seq).pans)⟩
    simp only [State.noteEnd, State.setPan_pan, if_true, hx]
    rfl
  simp only [State.partEnds, State.setPan_pan, if_true, hx, hl]
  split
  · exact State.complete_withPans _ _ _ _
  · split
    · exact State.complete_withPans _ _ _ _
    · exact ⟨l, rfl⟩

/-- Running past the last word ends the pan's part, and moves nothing but its program counter before. -/
theorem State.advance_pastEnd (h : (s.pan q).nInstr ≤ (advanceLoops ((s.pan q).pc + 1) (s.pan q).loops).1) :
    ∃ x : Pan, s.advance q = (s.setPan q x).endPan q ∧ x.run = (s.pan q).run ∧ x.stepOff = (s.pan q).stepOff := by
  unfold State.advance
  dsimp only
  rw [if_neg (Nat.not_lt.mpr h)]
  exact ⟨_, rfl, rfl, rfl⟩

theorem State.advance_ends (h : (s.pan q).nInstr ≤ (advanceLoops ((s.pan q).pc + 1) (s.pan q).loops).1)
    (hr : (s.pan q).run = some r) (hrace : r.race = false) (hc : s.cmd? r.seq = some c) :
    ((s.advance q).pan q).run = none ∧ ∃ l, s.advance q = (s.partEnds q r.seq c).withPans l := by
  obtain ⟨x, hx, hrun, hoff⟩ := State.advance_pastEnd h
  have hrx : ((s.setPan q x).pan q).run = some r := by simpa [hrun] using hr
  have hcx : (s.setPan q x).cmd? r.seq = some c := hc
  rw [hx, State.endPan_eq hrx hrace hcx]
  exact ⟨State.partEnds_run, State.partEnds_movedPc x hoff⟩

end

/-- Settles O13: a LOOP, STEP or WAIT puts one pan in place of its own, the iterations by induction on their number, and the end of a
pan's part by what the end of its command leaves. -/
theorem sequencerWordsLoopStepAndEnd : Obligations.SequencerWordsLoopStepAndEnd := by
  unfold Obligations.SequencerWordsLoopStepAndEnd
  refine ⟨⟨fun s p e hfetch hfunc => ?_, fun f fs hi hc => ⟨repeat_advanceLoops fs hi, repeat_advanceLoops_count fs hi hc⟩⟩,
    fun s p e c h hrace hc => ?_⟩
  · have hf : funcIs 0 e.w = true := by simp [funcIs, hfunc]
    obtain ⟨hp, -, -⟩ := State.fetch_some hfetch
    refine ⟨fun hcls => ?_, fun hcls => ?_, fun hcls => ?_⟩
    · refine ⟨_, congrArg Host.Outcome.next (panRow_stays ⟨hfetch, hcls, hfunc⟩ hf rfl), ?_⟩
      rw [hp]
      exact (PanFrame.put ..).charge _
    · refine ⟨_, congrArg Host.Outcome.next (panRow_plain ⟨hfetch, hcls, hfunc⟩ hf rfl), ?_⟩
      rw [hp]
      exact (PanFrame.put ..).charge _
    · refine ⟨_, congrArg Host.Outcome.next (panRow_plain ⟨hfetch, hcls, hfunc⟩ hf rfl), ?_⟩
      rw [hp]
      refine ((PanFrame.refl ..).draw.setPan ?_).charge _
      dsimp only
      split <;> rfl
  · obtain ⟨hp, hr, -⟩ := State.fetch_some h.1
    have hend := State.endPan_eq hr hrace hc
    have hf : funcIs 0 e.w = true := by obtain ⟨-, -, hfunc⟩ := h; simp [funcIs, hfunc]
    refine ⟨⟨_, congrArg Host.Outcome.next (panRow_stays h hf rfl), ?_⟩, fun hpc => ?_⟩
    · rw [hp, hend]
      exact ⟨(State.charge_run ..).trans State.partEnds_run, rfl, State.cmd?_partEnds_goesOn hc, State.cmd?_partEnds_over⟩
    · obtain ⟨hrun, l, hl⟩ := State.advance_ends hpc hr hrace hc
      refine ⟨hrun, ?_⟩
      rw [hl]
      rfl

end Sys2Proof.Machine

/-! SUPPORT. MOVE: rows that FILL writes, and rows that COPY moves between a pan and memory outside it (R90, R91, R113, R135, R269). -/
namespace Sys2Proof.Machine

-- ## Writes of one operand

/-- An operand reads as the bytes that stand at its places. -/
theorem State.slotRead_eq {s : State} {p : Nat} {sl : Slot22} {k : Nat} {bs : List Byte}
    (h : ∀ i, i < bs.length → s.byte (slotAddr p sl (k + i)) = bs.getD i 0) : s.slotRead p sl k bs.length = bs := by
  refine List.ext_getElem (by simp) fun i hi hb => ?_
  have hd := h i hb
  simp only [State.slotRead, List.getElem_map, List.getElem_range]
  simpa [State.byte, List.getD_eq_getElem?_getD, hb] using hd

/-- An instruction that completes with the operand written, the flags joined, and the rest kept. -/
theorem panWrites_of_frame {i : Instr} {p : Nat} {sl : Slot22} {bs : List Byte} {fl : AFlags} {s s0 t : State} {v : Pan} {c : Cost}
    (hexec : exec i s = .next ((t.charge p c).advance p)) (hread : t.slotRead p sl 0 bs.length = bs)
    (harith : (t.pan p).arith = (s.pan p).arith ||| fl) (hframe : PanFrame p (InSlot p sl bs.length) s0 v t) :
    PanWrites i p sl bs fl s s0 v :=
  ⟨_, hexec, hread, (State.charge_arith ..).trans harith, hframe.charge c⟩

theorem PanFrame.slotWrite_first {p : Nat} {s u : State} {v : Pan} {sl : Slot22} {bs : List Byte}
    (h : PanFrame p (InSlot p sl bs.length) s v u) (hl : bs.length ≤ sl.size) :
    PanFrame p (InSlot p sl bs.length) s v (u.slotWrite p sl 0 bs) :=
  h.slotWrite hl fun i hi => ⟨i, hi, by rw [Nat.zero_add]⟩

-- ## FILL

/-- A row of a MOVE is no longer than any memory of a pan. -/
theorem moveLen_le (w : Nat) (sl : Slot22) : moveLen w ≤ sl.size := by
  have hn : fld w 33 12 < 4096 := Nat.mod_lt _ (by decide)
  have := Slot22.le_size sl
  unfold moveLen
  omega

theorem moveLen_div_four (w : Nat) : moveLen w / 4 * 4 = moveLen w := by unfold moveLen; omega

theorem moveLocalStride_mod_four (w : Nat) : moveLocalStride w % 4 = 0 := by
  unfold moveLocalStride
  split
  · unfold moveLen; omega
  · omega

/-- The bytes of a FILL's row. -/
def fillRow (w : Nat) : List Byte := (List.replicate (moveLen w / 4) (leBytes 4 (fld w 55 32))).flatten

@[simp] theorem length_fillRow (w : Nat) : (fillRow w).length = moveLen w := by
  simp [fillRow, moveLen_div_four]

/-- A repeated pattern shows at each place what the pattern shows there. -/
theorem getD_flatten_replicate (l : List Byte) (hl : l ≠ []) : ∀ n i, i < n * l.length →
    (List.replicate n l).flatten.getD i 0 = l.getD (i % l.length) 0
  | 0, i, h => by simp at h
  | n + 1, i, h => by
    have hpos : 0 < l.length := List.length_pos_iff.mpr hl
    rw [List.replicate_succ, List.flatten_cons, List.getD_eq_getElem?_getD]
    by_cases hi : i < l.length
    · rw [List.getElem?_append_left hi, Nat.mod_eq_of_lt hi, List.getD_eq_getElem?_getD]
    · have hn : i - l.length < n * l.length := by rw [Nat.add_mul, Nat.one_mul] at h; omega
      rw [List.getElem?_append_right (Nat.not_lt.mp hi), ← List.getD_eq_getElem?_getD, getD_flatten_replicate l hl n _ hn,
        Nat.mod_eq_sub_mod (Nat.not_lt.mp hi)]

theorem getD_fillRow {w i : Nat} (h : i < moveLen w) : (fillRow w).getD i 0 = (leBytes 4 (fld w 55 32)).getD (i % 4) 0 := by
  have hi : i < moveLen w / 4 * (leBytes 4 (fld w 55 32)).length := by simpa [moveLen_div_four] using h
  simpa [fillRow] using getD_flatten_replicate _ (by simp [leBytes]) _ i hi

/-- Places of an operand that lie at one address are alike within the 4 bytes of a pattern. -/
theorem slotAddr_mod_four {p : Nat} {sl : Slot22} {j k : Nat} (h : slotAddr p sl j = slotAddr p sl k) : j % 4 = k % 4 := by
  unfold slotAddr at h
  split at h <;> omega

section
variable {e : PEnv}

/-- The row `r` of a FILL stands in memory. -/
def FillStands (e : PEnv) (u : State) (r : Nat) : Prop :=
  ∀ k, k < moveLen e.w → u.byte (slotAddr e.p (slotAt e.w 95) (r * moveLocalStride e.w + k)) = (fillRow e.w).getD k 0

/-- One row of a FILL. -/
def fillOne (e : PEnv) (u : State) (i : Nat) : State := u.slotWrite e.p (slotAt e.w 95) (i * moveLocalStride e.w) (fillRow e.w)

theorem fillStands_fillOne (u : State) (r : Nat) : FillStands e (fillOne e u r) r := fun k hk =>
  State.byte_slotWrite_in _ _ _ _ _ _ (by simpa using moveLen_le e.w _) (by simpa using hk)

/-- Rows that meet leave each other's pattern as it was. -/
theorem FillStands.fillOne {u : State} {r : Nat} (h : FillStands e u r) (i : Nat) : FillStands e (fillOne e u i) r := by
  intro k hk
  by_cases hm : ∃ j, j < moveLen e.w ∧ slotAddr e.p (slotAt e.w 95) (i * moveLocalStride e.w + j)
      = slotAddr e.p (slotAt e.w 95) (r * moveLocalStride e.w + k)
  · obtain ⟨j, hj, heq⟩ := hm
    rw [← heq, fillStands_fillOne u i j hj, getD_fillRow hj, getD_fillRow hk]
    have hmod := slotAddr_mod_four heq
    have hs := moveLocalStride_mod_four e.w
    have hmul (x : Nat) : x * moveLocalStride e.w % 4 = 0 := by rw [Nat.mul_mod, hs]; simp
    have h1 := hmul i
    have h2 := hmul r
    rw [show j % 4 = k % 4 by omega]
  · rw [← h k hk]
    refine State.byte_slotWrite_out _ _ _ _ _ _ (by simpa using moveLen_le e.w _) fun j hj heq => hm ⟨j, by simpa using hj, heq⟩

theorem fillStands_foldl (l : List Nat) (u : State) {r : Nat} (h : r ∈ l ∨ FillStands e u r) : FillStands e (l.foldl (fillOne e) u) r := by
  induction l generalizing u with
  | nil => simpa using h
  | cons i l ih =>
    refine ih (fillOne e u i) ?_
    rcases h with h | h
    · rcases List.mem_cons.mp h with rfl | h
      · exact .inr (fillStands_fillOne u r)
      · exact .inl h
    · exact .inr (h.fillOne i)

/-- The bytes of the local rows of a MOVE. -/
def LocalRows (e : PEnv) (a : Nat) : Prop :=
  ∃ r k, r < moveRows e.w ∧ k < moveLen e.w ∧ slotAddr e.p (slotAt e.w 95) (r * moveLocalStride e.w + k) = a

theorem fillRows_frame (s : State) :
    PanFrame e.p (LocalRows e) s (s.pan e.p) ((List.range (moveRows e.w)).foldl (fillOne e) s) := by
  refine foldl_keeps (PanFrame e.p (LocalRows e) s (s.pan e.p)) (fillOne e) _ (fun u i hi h => ?_) s (.refl ..)
  exact h.slotWrite (by simpa using moveLen_le e.w _) fun k hk => ⟨i, k, List.mem_range.mp hi, by simpa using hk, rfl⟩

theorem fillAct_runs (h : rank0Skips e = false) (s : State) :
    fillAct e s = plain ((List.range (moveRows e.w)).foldl (fillOne e) s) { move := moveRows e.w * moveLen e.w } := by
  rw [fillAct, if_neg (by simp [h])]
  rfl

end

end Sys2Proof.Machine

/-! SUPPORT. COPY: the locks that its accesses end (R269), and what each row moves (R90, R91, R113, R135). -/
namespace Sys2Proof.Machine

-- ## Locks that end (R268, R269)

/-- `u` is `s` but for locks of commands that may have ended, and the refreshes owed under them. -/
def LocksEnd (s u : State) : Prop :=
  (∃ cs x, u = { s with cmds := cs, memSys := { s.memSys with postponed := x } })
    ∧ ∀ seq c, s.cmd? seq = some c → ∃ l k, u.cmd? seq = some { c with locked := l, cause := k }

theorem LocksEnd.refl (s : State) : LocksEnd s s := ⟨⟨s.cmds, s.memSys.postponed, rfl⟩, fun _ c h => ⟨c.locked, c.cause, h⟩⟩

theorem LocksEnd.trans {s t u : State} (h : LocksEnd s t) (h' : LocksEnd t u) : LocksEnd s u := by
  obtain ⟨⟨cs, x, rfl⟩, hc⟩ := h
  obtain ⟨⟨cs', x', rfl⟩, hc'⟩ := h'
  refine ⟨⟨cs', x', rfl⟩, fun seq c hs => ?_⟩
  obtain ⟨l, k, hl⟩ := hc seq c hs
  obtain ⟨l', k', hl'⟩ := hc' seq _ hl
  exact ⟨l', k', hl'⟩

/-- Another command's record is not touched by a change of one. -/
theorem State.cmd?_modCmd_other (s : State) {seq seq' : DWord} (h : seq' ≠ seq) (f : Cmd → Cmd) (hf : ∀ d, (f d).seq = d.seq) :
    (s.modCmd seq f).cmd? seq' = s.cmd? seq' := by
  unfold State.cmd? State.modCmd
  rw [List.find?_map]
  have hp : ((fun d : Cmd => decide (d.seq = seq')) ∘ fun d => if d.seq = seq then f d else d) = fun d => decide (d.seq = seq') := by
    funext d
    by_cases hd : d.seq = seq <;> simp [hd, hf]
  rw [hp]
  cases hd : s.cmds.find? fun d => decide (d.seq = seq') with
  | none => rfl
  | some d =>
    have hs : d.seq = seq' := by simpa using List.find?_some hd
    simp [hs, h]

theorem State.lockCause_locksEnd (s : State) (seq : DWord) (cause : BitVec 4) : LocksEnd s (s.lockCause seq cause) := by
  unfold State.lockCause
  split
  · exact .refl s
  · next c hc =>
    split
    · refine ⟨⟨_, _, rfl⟩, fun seq' d hd => ?_⟩
      change ∃ l k, (s.modCmd seq fun c => { c with locked := false, cause }).cmd? seq' = _
      by_cases hq : seq' = seq
      · subst hq
        refine ⟨false, cause, ?_⟩
        rw [State.cmd?_modCmd]
        · rw [hd]; rfl
        · exact fun _ => rfl
      · refine ⟨d.locked, d.cause, ?_⟩
        rw [State.cmd?_modCmd_other]
        · exact hd
        · exact hq
        · exact fun _ => rfl
    · exact .refl s

theorem State.lockAccess_locksEnd (s : State) (e : PEnv) (a : Nat) : LocksEnd s (s.lockAccess e a) := by
  unfold State.lockAccess
  split
  · exact .refl s
  · split
    · exact .refl s
    · have h (b : Bool) : LocksEnd s (if b then s else s.lockCause e.run.seq 7) := by
        cases b
        · exact State.lockCause_locksEnd ..
        · exact .refl s
      exact h _

theorem State.lockSpan_locksEnd (s : State) (e : PEnv) (a n : Nat) : LocksEnd s (s.lockSpan e a n) :=
  (State.lockAccess_locksEnd ..).trans (State.lockAccess_locksEnd ..)

theorem LocksEnd.mem {s u : State} (h : LocksEnd s u) : u.mem = s.mem := by obtain ⟨⟨_, _, rfl⟩, -⟩ := h; rfl
theorem LocksEnd.read {s u : State} (h : LocksEnd s u) (a n : Nat) : u.read a n = s.read a n := by
  rw [State.read, h.mem]; rfl
theorem LocksEnd.slotRead {s u : State} (h : LocksEnd s u) (p : Nat) (sl : Slot22) (k n : Nat) :
    u.slotRead p sl k n = s.slotRead p sl k n := by rw [State.slotRead, h.mem]; rfl
theorem LocksEnd.poison {s u : State} (h : LocksEnd s u) : u.poison = s.poison := by obtain ⟨⟨_, _, rfl⟩, -⟩ := h; rfl

-- ## A row

/-- No mark stands where none stood. -/
theorem State.marked_mono {s u : State} (h : ∀ x ∈ u.poison, x ∈ s.poison) {a n : Nat} (hm : s.marked a n = false) :
    u.marked a n = false := by
  simp only [State.marked, Bool.and_eq_false_iff] at hm ⊢
  refine hm.imp_right fun hm => List.any_eq_false.mpr fun x hx => List.any_eq_false.mp hm x (h x hx)

/-- Of bytes that hold no marked unit none is left out. -/
theorem State.cleanPrefix_unmarked {s : State} {a n : Nat} (hm : s.marked a n = false) : s.cleanPrefix a n = n := by
  refine foldl_keeps (fun m => m = n) _ s.poison (fun m u hu h => ?_) n rfl
  split
  · next hc =>
    simp only [Bool.and_eq_true, decide_eq_true_eq] at hc
    by_cases hn : n = 0
    · omega
    · simp only [State.marked, Bool.and_eq_false_iff, bne_eq_false_iff_eq, hn, false_or] at hm
      have := List.any_eq_false.mp hm u hu
      simp only [Bool.and_eq_true, decide_eq_true_eq] at this
      omega
  · exact h

-- ## COPY

/-- The remote row `r` of a COPY. -/
def copyFar (w r : Nat) : Nat := fld w 55 40 + r * moveRemoteStride w

/-- What a COPY asks of a remote row: it lies outside the pan, in the partition's memory and outside bunded vaults, and a read finds no
marked unit, a write no sealed and no key-value-held byte. -/
def FarRow (e : PEnv) (s : State) (r : Nat) : Prop :=
  within (s.ranges e.run.part) (copyFar e.w r) (moveLen e.w) = true ∧ s.fencedAt (copyFar e.w r) (moveLen e.w) = false
    ∧ overlaps (copyFar e.w r) (moveLen e.w) (storeBase e.p) 0x200000 = false
    ∧ overlaps (copyFar e.w r) (moveLen e.w) (accBase e.p) 0x40000 = false
    ∧ (bitAt e.w 118 = true → s.hitsSealed (copyFar e.w r) (moveLen e.w) = false ∧ s.kvHit (copyFar e.w r) (moveLen e.w) = none)
    ∧ (bitAt e.w 118 = false → s.marked (copyFar e.w r) (moveLen e.w) = false)

/-- The bytes of the destination rows of a COPY. -/
def CopyRows (e : PEnv) (a : Nat) : Prop :=
  ∃ r k, r < moveRows e.w ∧ k < moveLen e.w
    ∧ (if bitAt e.w 118 then copyFar e.w r + k else slotAddr e.p (slotAt e.w 95) (r * moveLocalStride e.w + k)) = a

/-- What one row of a COPY leaves. -/
def copyOne (e : PEnv) (r : Nat) (s : State) : State :=
  let u := s.lockSpan e (copyFar e.w r) (moveLen e.w)
  if bitAt e.w 118 then u.write (copyFar e.w r) (s.slotRead e.p (slotAt e.w 95) (r * moveLocalStride e.w) (moveLen e.w))
  else u.slotWrite e.p (slotAt e.w 95) (r * moveLocalStride e.w) (s.read (copyFar e.w r) (moveLen e.w))

/-- A remote row that lies outside the pan's store does not lie in it. -/
theorem not_own_of_apart {a n b m : Nat} (hn : 0 < n) (hm : 0 < m) (h : overlaps a n b m = false) :
    (decide (b ≤ a) && decide (a + n ≤ b + m)) = false := by
  simp only [overlaps, Bool.and_eq_false_iff, decide_eq_false_iff_not] at h ⊢
  omega

theorem moveLen_pos (w : Nat) : 0 < moveLen w := by unfold moveLen; omega

theorem copyRow_moves {e : PEnv} {s : State} {r : Nat} (hrace : e.run.race = false) (h : FarRow e s r) :
    copyRow e (bitAt e.w 118) (slotAt e.w 95) (r * moveLocalStride e.w) (copyFar e.w r) (moveLen e.w) s = (copyOne e r s, none) := by
  obtain ⟨hin, hfence, hstore, -, hwrite, hread⟩ := h
  have hown := not_own_of_apart (moveLen_pos e.w) (by decide) hstore
  have hlocks := State.lockSpan_locksEnd s e (copyFar e.w r) (moveLen e.w)
  cases hout : bitAt e.w 118
  · have hm := State.marked_mono (fun x hx => hlocks.poison ▸ hx) (hread hout)
    simp [copyRow, hrace, hown, State.rangeStatus, hin, hfence, State.cleanPrefix_unmarked hm, copyOne, hout, hlocks.read]
  · obtain ⟨hsealed, hkv⟩ := hwrite hout
    simp [copyRow, hrace, hown, State.writeStatus, hin, hfence, hsealed, hkv, copyOne, hout, hlocks.slotRead]

end Sys2Proof.Machine

namespace Sys2Proof.Machine

/-- Writes take marks away and bring none. -/
theorem State.mem_poison_write {s : State} {a : Nat} {bs : List Byte} {x : Nat} (h : x ∈ (s.write a bs).poison) : x ∈ s.poison :=
  (List.mem_filter.mp h).1

theorem mem_poison_wrapWrite {x base size : Nat} : ∀ (n : Nat) {s : State} {a : Nat} {bs : List Byte},
    x ∈ (wrapWrite n s base size a bs).poison → x ∈ s.poison
  | 0, _, _, _, h => h
  | n + 1, s, a, bs, h => by
    unfold wrapWrite at h
    split at h
    · exact State.mem_poison_write h
    · exact State.mem_poison_write (mem_poison_wrapWrite n h)

theorem State.mem_poison_slotWrite {s : State} {p : Nat} {sl : Slot22} {k : Nat} {bs : List Byte} {x : Nat}
    (h : x ∈ (s.slotWrite p sl k bs).poison) : x ∈ s.poison := mem_poison_wrapWrite _ h

/-- What rows of a COPY keep: everything but the bytes of the destination, marks that go, and locks that end. -/
def CopyKeeps (e : PEnv) (s u : State) : Prop :=
  (∃ m po cs x, u = { s with mem := m, poison := po, cmds := cs, memSys := { s.memSys with postponed := x } })
    ∧ (∀ seq c, s.cmd? seq = some c → ∃ l k, u.cmd? seq = some { c with locked := l, cause := k })
    ∧ (∀ x ∈ u.poison, x ∈ s.poison) ∧ ∀ a, ¬ CopyRows e a → u.byte a = s.byte a

section
variable {e : PEnv} {s u : State}

theorem LocksEnd.copyKeeps (h : LocksEnd s u) : CopyKeeps e s u := by
  obtain ⟨⟨cs, x, rfl⟩, hc⟩ := h
  exact ⟨⟨_, _, cs, x, rfl⟩, hc, fun _ hx => hx, fun _ _ => rfl⟩

theorem CopyKeeps.trans {t : State} (h : CopyKeeps e s t) (h' : CopyKeeps e t u) : CopyKeeps e s u := by
  obtain ⟨⟨m, po, cs, x, rfl⟩, hc, hp, hb⟩ := h
  obtain ⟨⟨m', po', cs', x', rfl⟩, hc', hp', hb'⟩ := h'
  refine ⟨⟨m', po', cs', x', rfl⟩, fun seq c hs => ?_, fun y hy => hp y (hp' y hy), fun a ha => (hb' a ha).trans (hb a ha)⟩
  obtain ⟨l, k, hl⟩ := hc seq c hs
  obtain ⟨l', k', hl'⟩ := hc' seq _ hl
  exact ⟨l', k', hl'⟩

theorem copyOne_keeps {r : Nat} (hr : r < moveRows e.w) (s : State) : CopyKeeps e s (copyOne e r s) := by
  refine (State.lockSpan_locksEnd s e (copyFar e.w r) (moveLen e.w)).copyKeeps.trans ?_
  unfold copyOne
  dsimp only
  split
  · next hout =>
    refine ⟨⟨_, _, _, _, rfl⟩, fun _ c hc => ⟨c.locked, c.cause, hc⟩, fun _ => State.mem_poison_write, fun a ha => ?_⟩
    rw [State.byte_write, if_neg]
    rintro ⟨hlo, hhi⟩
    rw [State.length_slotRead] at hhi
    exact ha ⟨r, a - copyFar e.w r, hr, by omega, by rw [if_pos hout]; omega⟩
  · next hout =>
    refine ⟨⟨_, _, _, _, rfl⟩, fun _ c hc => ⟨c.locked, c.cause, hc⟩, fun _ => State.mem_poison_slotWrite, fun a ha => ?_⟩
    refine State.byte_slotWrite_out _ _ _ _ _ _ (by simpa using moveLen_le e.w _) fun i hi heq => ha ⟨r, i, hr, by simpa using hi, ?_⟩
    rw [if_neg hout]
    exact heq

/-- What a COPY asks of a remote row holds after other rows as before. -/
theorem FarRow.keeps {r : Nat} (h : FarRow e s r) (hu : CopyKeeps e s u) : FarRow e u r := by
  obtain ⟨⟨m, po, cs, x, rfl⟩, -, hp, -⟩ := hu
  obtain ⟨hin, hfence, hstore, hacc, hwrite, hread⟩ := h
  exact ⟨hin, hfence, hstore, hacc, hwrite, fun hout => State.marked_mono hp (hread hout)⟩

theorem copyRows_moves (hrace : e.run.race = false) : ∀ (n i : Nat) (s : State), i + n ≤ moveRows e.w →
    (∀ r, r < moveRows e.w → FarRow e s r) →
    ∃ u, copyRows e (bitAt e.w 118) (slotAt e.w 95) (moveLocalStride e.w) (fld e.w 55 40) (moveRemoteStride e.w) (moveLen e.w) i n s
        = (u, none) ∧ CopyKeeps e s u
  | 0, _, s, _, _ => ⟨s, rfl, (LocksEnd.refl s).copyKeeps⟩
  | n + 1, i, s, hi, hfar => by
    have hone := copyOne_keeps (show i < moveRows e.w by omega) s
    obtain ⟨u, hu, hk⟩ := copyRows_moves hrace n (i + 1) (copyOne e i s) (by omega) fun r hr => (hfar r hr).keeps hone
    refine ⟨u, ?_, hone.trans hk⟩
    have hrow := copyRow_moves hrace (hfar i (by omega))
    unfold copyFar at hrow
    rw [copyRows, hrow]
    exact hu

/-- A COPY of one row leaves in its destination the bytes that its source held. -/
theorem copyOne_copies (s : State) :
    if bitAt e.w 118 then (copyOne e 0 s).read (copyFar e.w 0) (moveLen e.w) = s.slotRead e.p (slotAt e.w 95) 0 (moveLen e.w)
    else (copyOne e 0 s).slotRead e.p (slotAt e.w 95) 0 (moveLen e.w) = s.read (copyFar e.w 0) (moveLen e.w) := by
  unfold copyOne
  dsimp only
  rw [Nat.zero_mul]
  split
  · simpa using State.read_write (s.lockSpan e (copyFar e.w 0) (moveLen e.w)) (copyFar e.w 0)
      (s.slotRead e.p (slotAt e.w 95) 0 (moveLen e.w))
  · simpa using State.slotRead_slotWrite (s.lockSpan e (copyFar e.w 0) (moveLen e.w)) e.p (slotAt e.w 95) 0
      (s.read (copyFar e.w 0) (moveLen e.w)) (by simpa using moveLen_le e.w _)

theorem copyRows_one (hrace : e.run.race = false) (hone : moveRows e.w = 1) (hfar : FarRow e s 0) :
    copyRows e (bitAt e.w 118) (slotAt e.w 95) (moveLocalStride e.w) (fld e.w 55 40) (moveRemoteStride e.w) (moveLen e.w) 0
      (moveRows e.w) s = (copyOne e 0 s, none) := by
  have hrow := copyRow_moves hrace hfar
  unfold copyFar at hrow
  rw [hone, copyRows, hrow]
  rfl

theorem CopyKeeps.frame (h : CopyKeeps e s u) :
    PanFrame e.p (CopyRows e) { s with cmds := u.cmds, memSys := u.memSys } (s.pan e.p) u := by
  obtain ⟨⟨m, po, cs, x, rfl⟩, -, -, hb⟩ := h
  exact ⟨rfl, fun _ _ => rfl, rfl, hb⟩

end

-- ## The instructions

/-- A pan's instruction whose act completes. -/
theorem exec_of_act {i : Instr} {cls f : Nat} {act : PEnv → State → Done} {p : BitVec 6} {s t : State} {e : PEnv} {c : Cost}
    (h : Runs s p e cls f) (hx : exec i s = .next (panRow cls (funcIs f) act p [] s)) (ha : act e s = plain t c) :
    exec i s = .next ((t.charge e.p c).advance e.p) := by
  obtain ⟨hp, -, -⟩ := State.fetch_some h.1
  have hf : funcIs f e.w = true := by obtain ⟨-, -, hfunc⟩ := h; simp [funcIs, hfunc]
  rw [hx, panRow_plain h hf ha, hp]

/-- A pan's instruction that acts as a WAIT of no units. -/
theorem exec_skips {i : Instr} {cls f : Nat} {act : PEnv → State → Done} {p : BitVec 6} {s : State} {e : PEnv}
    (h : Runs s p e cls f) (hx : exec i s = .next (panRow cls (funcIs f) act p [] s)) (ha : act e s = plain s {}) :
    ∃ u : State, exec i s = .next (u.advance e.p) ∧ PanFrame e.p (fun _ => False) s (s.pan e.p) u :=
  ⟨_, exec_of_act h hx ha, (PanFrame.refl ..).charge _⟩

section
variable {s : State} {p : BitVec 6} {e : PEnv}

theorem exec_fill (h : Runs s p e kMove 1) (hskip : rank0Skips e = false) :
    ∃ u : State, exec (.fill p []) s = .next (u.advance e.p) ∧ PanFrame e.p (LocalRows e) s (s.pan e.p) u
      ∧ ∀ r, r < moveRows e.w → u.slotRead e.p (slotAt e.w 95) (r * moveLocalStride e.w) (moveLen e.w) = fillRow e.w := by
  refine ⟨_, exec_of_act h rfl (fillAct_runs hskip s), (fillRows_frame s).charge _, fun r hr => ?_⟩
  have hstands := fillStands_foldl (e := e) (List.range (moveRows e.w)) s (.inl (List.mem_range.mpr hr))
  rw [State.charge_slotRead, ← length_fillRow e.w]
  exact State.slotRead_eq fun k hk => hstands k (by simpa using hk)

theorem exec_cycle (h : Runs s p e kMove 2) (hskip : rank0Skips e = false) :
    PanWrites (.cycle p []) e.p (slotAt e.w 95) (leBytes 8 (s.pan e.p).cycles.toNat ++ List.replicate 8 0) 0 s s (s.pan e.p) := by
  have hl : (leBytes 8 (s.pan e.p).cycles.toNat ++ List.replicate 8 (0 : Byte)).length ≤ (slotAt e.w 95).size := by
    have := Slot22.le_size (slotAt e.w 95)
    rw [List.length_append, length_leBytes, List.length_replicate]
    omega
  have ha : cycleAct e s = plain (s.slotWrite e.p (slotAt e.w 95) 0 (leBytes 8 (s.pan e.p).cycles.toNat ++ List.replicate 8 0))
      { move := 16 } := if_neg (by simp [hskip])
  refine panWrites_of_frame (exec_of_act h rfl ha) (State.slotRead_slotWrite _ _ _ _ _ hl) ?_ ((PanFrame.refl ..).slotWrite_first hl)
  rw [State.slotWrite_pan]
  exact (BitVec.or_zero).symm

theorem exec_copy (h : Runs s p e kMove 0) (hrace : e.run.race = false) (hskip : rank0Skips e = false)
    (hfar : ∀ r, r < moveRows e.w → FarRow e s r) :
    ∃ u : State, exec (.copy p []) s = .next ((u.charge e.p { move := moveRows e.w * moveLen e.w }).advance e.p) ∧ CopyKeeps e s u
      ∧ (moveRows e.w = 1 → u = copyOne e 0 s) := by
  obtain ⟨u, hu, hk⟩ := copyRows_moves hrace (moveRows e.w) 0 s (by omega) hfar
  have ha : copyAct e s = plain u { move := moveRows e.w * moveLen e.w } := by
    rw [copyAct, if_neg (by simp [hskip]), hu]
    rfl
  refine ⟨u, exec_of_act h rfl ha, hk, fun hone => ?_⟩
  rw [copyRows_one hrace hone (hfar 0 (by omega))] at hu
  exact (congrArg Prod.fst hu).symm

end

/-- Settles O4: FILL and CYCLE are writes of one operand, and COPY by induction on its rows. -/
theorem moveWordsFillCopyAndShowTheCycle : Obligations.MoveWordsFillCopyAndShowTheCycle := by
  unfold Obligations.MoveWordsFillCopyAndShowTheCycle
  refine ⟨fun s p e f h => ?_, fun s p e h hrace hskip => ?_⟩
  · obtain ⟨hp, -, -⟩ := State.fetch_some h.1
    rw [← hp]
    refine ⟨?_, ?_⟩
    · rintro rfl
      exact ⟨fun hskip => exec_skips h rfl (if_pos hskip), exec_fill h⟩
    · rintro rfl
      exact ⟨fun hskip => exec_skips h rfl (if_pos hskip), exec_cycle h⟩
  · obtain ⟨hp, -, -⟩ := State.fetch_some h.1
    rw [← hp]
    intro q sl out len far hfar
    obtain ⟨u, hexec, hk, hone⟩ := exec_copy h hrace hskip hfar
    refine ⟨_, hexec, ?_, hk.frame.charge _, ?_, ?_⟩
    · obtain ⟨-, hc, -, -⟩ := hk
      exact hc e.run.seq
    · obtain ⟨⟨m, po, cs, x, rfl⟩, -, -, -⟩ := hk
      rfl
    · intro h1
      have hcopies := copyOne_copies (e := e) s
      rw [← hone h1] at hcopies
      exact hcopies

end Sys2Proof.Machine

/-! SUPPORT. Block fetches of streamed programs (R80), clock gating (R275) and refreshes under time locks (R123, R268). -/
namespace Sys2Proof.Machine

-- ## PROGRAM_BLOCK_FETCH

/-- Bytes of block `j` of a streamed program of `n` words. -/
def blockBytes (n j : Nat) : Nat := 16 * min 2048 (n - 2048 * j)
/-- Where the sealed copy holds block `j`. -/
def blockFrom (r : Region) (nDesc j : Nat) : Nat := r.base + 64 + 16 * (nDesc + 2048 * j)
/-- The buffer of block `j`. -/
def blockTo (p j : Nat) : Nat := imemBase p + 16 * (4096 + 2048 * (j % 2))

theorem fetchBlock_read (s : State) (p : Nat) (r : Region) (nDesc nInstr j : Nat) :
    (fetchBlock s p r nDesc nInstr j).read (blockTo p j) (blockBytes nInstr j) = s.read (blockFrom r nDesc j) (blockBytes nInstr j) := by
  have h := State.read_write s (blockTo p j) (s.read (blockFrom r nDesc j) (blockBytes nInstr j))
  rw [State.length_read] at h
  exact h

theorem fetchBlock_byte (s : State) (p : Nat) (r : Region) (nDesc nInstr j : Nat) {a : Nat}
    (h : a < blockTo p j ∨ blockTo p j + blockBytes nInstr j ≤ a) : (fetchBlock s p r nDesc nInstr j).byte a = s.byte a := by
  refine (State.byte_write ..).trans (if_neg ?_)
  rw [State.length_read]
  exact fun hb => by unfold blockTo blockBytes at h; omega

theorem LocksEnd.byte {s u : State} (h : LocksEnd s u) (a : Nat) : u.byte a = s.byte a := by rw [State.byte, h.mem]; rfl

theorem LocksEnd.pan {s u : State} (h : LocksEnd s u) (p : Nat) : u.pan p = s.pan p := by obtain ⟨⟨_, _, rfl⟩, -⟩ := h; rfl

/-- The pan is at the newer of its blocks, and may fetch block `j` of the region that it holds. -/
structure MayFetch (s : State) (p j : Nat) (run : PanRun) (r : Region) : Prop where
  runs : (s.pan p).run = some run
  held : ∃ part h load, (s.pan p).held = some (part, h, load) ∧ (s.part part).progs.look {} h = r
  streamed : (s.pan p).streamed = true
  bunded : (s.pan p).bunded = false
  goes : s.edge.stopped = false
  st : (s.pan p).st = .run
  newest : (s.pan p).blocks.foldl max 0 + 1 = j
  pc : (s.pan p).pc / 2048 + 1 = j
  left : 2048 * j < (s.pan p).nInstr
  clean : s.marked (blockFrom r (s.pan p).nDesc j) (blockBytes (s.pan p).nInstr j) = false
  open' : s.fencedAt (blockFrom r (s.pan p).nDesc j) (blockBytes (s.pan p).nInstr j) = false
  free : s.addrHeld (some run.seq) (p / 8) (blockFrom r (s.pan p).nDesc j) = false

/-- A block that may be fetched is fetched. -/
theorem MayFetch.fetches {s : State} {p j : Nat} {run : PanRun} {r : Region} (h : MayFetch s p j run r) :
    ∃ t x, LocksEnd (fetchBlock s p r (s.pan p).nDesc (s.pan p).nInstr j) t
      ∧ fetchNext p [] s = t.setPan p { s.pan p with blocks := [j - 1, j], profMove := x } := by
  obtain ⟨hrun, ⟨part, k, load, hheld, hr⟩, hstream, hbund, hgoes, hst, hnew, hpc, hleft, hclean, hopen, hfree⟩ := h
  have hlocks := State.lockSpan_locksEnd (fetchBlock s p r (s.pan p).nDesc (s.pan p).nInstr j)
    { p, run, w := 0, descs := [] } (blockFrom r (s.pan p).nDesc j) (blockBytes (s.pan p).nInstr j)
  unfold blockBytes blockFrom at hclean hopen hlocks
  unfold blockFrom at hfree
  have hgo : fetchNext p [] s = ((fetchBlock s p r (s.pan p).nDesc (s.pan p).nInstr j).lockSpan { p, run, w := 0, descs := [] }
      (r.base + 64 + 16 * ((s.pan p).nDesc + 2048 * j)) (16 * min 2048 ((s.pan p).nInstr - 2048 * j))).modPan p fun v =>
      { v with blocks := [j - 1, j], profMove := if v.freeze then v.profMove
          else v.profMove + BitVec.ofNat 64 (16 * min 2048 ((s.pan p).nInstr - 2048 * j)) } := by
    unfold fetchNext
    dsimp only
    rw [hrun, hheld]
    dsimp only
    rw [hr, hnew]
    simp [hrun, hpc, hstream, hbund, hgoes, hst, hfree, hclean, hopen, hleft]
  rw [hgo, State.modPan_eq, hlocks.pan p]
  exact ⟨_, _, hlocks, rfl⟩

theorem exec_programBlockFetch {s : State} {p : BitVec 6} {j : Nat} {run : PanRun} {r : Region} (h : MayFetch s p.toNat j run r) :
    ∃ u, exec (.programBlockFetch p []) s = .next u
      ∧ u.read (blockTo p.toNat j) (blockBytes (s.pan p.toNat).nInstr j)
        = s.read (blockFrom r (s.pan p.toNat).nDesc j) (blockBytes (s.pan p.toNat).nInstr j)
      ∧ (u.pan p.toNat).blocks = [j - 1, j] ∧ (u.pan p.toNat).pc = (s.pan p.toNat).pc ∧ (u.pan p.toNat).loops = (s.pan p.toNat).loops
      ∧ { u with mem := s.mem, poison := s.poison, pans := s.pans, cmds := s.cmds, memSys := s.memSys } = s
      ∧ { u.memSys with postponed := s.memSys.postponed } = s.memSys
      ∧ (∀ x, x ≠ p.toNat → u.pan x = s.pan x)
      ∧ ∀ a, a < blockTo p.toNat j ∨ blockTo p.toNat j + blockBytes (s.pan p.toNat).nInstr j ≤ a → u.byte a = s.byte a := by
  obtain ⟨t, x, ht, hgo⟩ := h.fetches
  refine ⟨_, congrArg Host.Outcome.next hgo, (ht.read ..).trans (fetchBlock_read ..), by simp, by simp, by simp, ?_, ?_,
    fun y hy => ?_, fun a ha => (ht.byte a).trans (fetchBlock_byte _ _ _ _ _ _ ha)⟩
  · obtain ⟨⟨cs, z, rfl⟩, -⟩ := ht; rfl
  · obtain ⟨⟨cs, z, rfl⟩, -⟩ := ht; rfl
  · rw [State.setPan_pan, if_neg hy, ht.pan]; rfl

-- ## PAN_CLOCK_GATE

section
variable {s : State} {p : BitVec 6}

/-- The slot's pan serves an armed slot. -/
def State.slotArmed (s : State) (i : Nat) : Prop := (s.slot i).st = .armed ∨ (s.slot i).st = .busy ∨ (s.slot i).st = .arming

/-- What keeps a pan from gating its clock, and what the gating counts. -/
theorem panClockGate_gates {p : Nat} (hup : s.up = true) (hgated : (s.pan p).gated = false) (hbund : (s.pan p).bunded = false)
    (hrun : (s.pan p).run = none) (hst : (s.pan p).st = .idle) (harmed : ∀ i, s.slotOf p = some i → ¬ s.slotArmed i) :
    (∀ x, s.panPart p = some x → panClockGate p s
        = s.setPan p { s.pan p with gated := true, cycles := (s.pan p).cycles + BitVec.ofNat 64 ((s.cfg.part x).pwr.toNat % 1024) })
      ∧ (s.panPart p = none → ∃ n, panClockGate p s
        = s.draw.2.setPan p { s.pan p with gated := true, cycles := (s.pan p).cycles + n }) := by
  have hfree (i : Nat) (hi : s.slotOf p = some i) :
      ((s.slot i).st == .armed || (s.slot i).st == .busy || (s.slot i).st == .arming) = false := by
    simpa [State.slotArmed, and_assoc] using harmed i hi
  refine ⟨fun x hx => ?_, fun hx => ⟨BitVec.ofNat 64 (freeCycles s.drawn).toNat, ?_⟩⟩
  · unfold panClockGate
    rw [hx]
    cases hs : s.slotOf p with
    | none => simp [hup, hgated, hbund, hrun, hst, fld]
    | some i => simp [hup, hgated, hbund, hrun, hst, hfree i hs, fld]
  · unfold panClockGate
    rw [hx]
    cases hs : s.slotOf p with
    | none => simp [hup, hgated, hbund, hrun, hst]
    | some i => simp [hup, hgated, hbund, hrun, hst, hfree i hs]

/-- The pan of an armed slot is not gated. -/
theorem panClockGate_armed {p i : Nat} (hs : s.slotOf p = some i) (h : s.slotArmed i) : panClockGate p s = s := by
  have harmed : ((s.slot i).st == .armed || (s.slot i).st == .busy || (s.slot i).st == .arming) = true := by
    simpa [State.slotArmed, or_assoc] using h
  simp [panClockGate, hs, harmed]

end

-- ## VAULT_REFRESH

theorem State.lockWhere_locksEnd (s : State) (f : Cmd → Bool) (cause : BitVec 4) : LocksEnd s (s.lockWhere f cause) := by
  refine foldl_keeps (LocksEnd s) _ _ (fun t c _ h => ?_) s (.refl s)
  split
  · exact h.trans (State.lockCause_locksEnd ..)
  · exact h

/-- The command as its lock's first cause leaves it. -/
def Cmd.unlocked (d : Cmd) (cause : BitVec 4) : Cmd := { d with locked := false, cause }

theorem State.cmd?_lockCause_same {s : State} {seq : DWord} {d : Cmd} (cause : BitVec 4) (h : s.cmd? seq = some d) (hl : d.locked = true) :
    (s.lockCause seq cause).cmd? seq = some (d.unlocked cause) := by
  unfold State.lockCause
  rw [h]
  dsimp only
  rw [if_pos hl]
  change (s.modCmd seq fun c => { c with locked := false, cause }).cmd? seq = _
  rw [State.cmd?_modCmd]
  · rw [h]; rfl
  · exact fun _ => rfl

theorem State.cmd?_lockCause_other {s : State} {seq seq' : DWord} (cause : BitVec 4) (h : seq' ≠ seq) :
    (s.lockCause seq cause).cmd? seq' = s.cmd? seq' := by
  unfold State.lockCause
  split
  · rfl
  · split
    · change (s.modCmd seq fun c => { c with locked := false, cause }).cmd? seq' = _
      rw [State.cmd?_modCmd_other]
      · exact h
      · exact fun _ => rfl
    · rfl

/-- A lock that has ended stays as its first cause left it. -/
theorem State.lockCause_unlocked {s : State} {seq : DWord} {d : Cmd} (cause : BitVec 4) (h : s.cmd? seq = some d) (hl : d.locked = false) :
    s.lockCause seq cause = s := by
  simp [State.lockCause, h, hl]

/-- Where one of the commands of a list is taken, its lock ends with the cause. -/
theorem State.cmd?_lockEach {seq : DWord} {d : Cmd} {f : Cmd → Bool} {cause : BitVec 4} (hl : d.locked = true) :
    ∀ (l : List Cmd) (t : State), t.cmd? seq = some d ∧ (∃ c ∈ l, c.seq = seq ∧ f c = true) ∨ t.cmd? seq = some (d.unlocked cause) →
      (l.foldl (fun s c => if f c then s.lockCause c.seq cause else s) t).cmd? seq = some (d.unlocked cause)
  | [], t, h => by simpa using h
  | c :: l, t, h => by
    refine State.cmd?_lockEach hl l _ ?_
    dsimp only
    by_cases hf : f c = true
    · rw [if_pos hf]
      by_cases hq : c.seq = seq
      · subst hq
        rcases h with ⟨h, -⟩ | h
        · exact .inr (State.cmd?_lockCause_same cause h hl)
        · rw [State.lockCause_unlocked cause h rfl]
          exact .inr h
      · rw [State.cmd?_lockCause_other cause (Ne.symm hq)]
        exact h.imp_left fun ⟨h, x, hx, hxq, hxf⟩ => ⟨h, x, (List.mem_cons.mp hx).resolve_left fun he => hq (he ▸ hxq), hxq, hxf⟩
    · rw [if_neg hf]
      exact h.imp_left fun ⟨h, x, hx, hxq, hxf⟩ => ⟨h, x, (List.mem_cons.mp hx).resolve_left fun he => hf (he ▸ hxf), hxq, hxf⟩

theorem State.cmd?_lockWhere {s : State} {c d : Cmd} {f : Cmd → Bool} {cause : BitVec 4} (hc : c ∈ s.cmds) (hf : f c = true)
    (hd : s.cmd? c.seq = some d) (hl : d.locked = true) : (s.lockWhere f cause).cmd? c.seq = some (d.unlocked cause) :=
  State.cmd?_lockEach hl s.cmds s (.inl ⟨hd, c, hc, rfl, hf⟩)

section
variable {s : State} {v ch : Nat}

/-- The refreshes owed to a channel. -/
def State.owe (s : State) (key k : Nat) : State := { s with memSys := { s.memSys with postponed := s.memSys.postponed.put 0 key k } }

theorem vaultRefresh_takes (hlive : s.live = true) (hdoze : s.power.sleep ≠ .doze) (hslack : s.power.sleep ≠ .slack)
    (h : s.lockedOver v = none) : vaultRefresh v ch [] s = s.owe (16 * v + ch) 0 := by
  simp [vaultRefresh, hlive, hdoze, hslack, h, State.owe]

theorem vaultRefresh_postpones (hlive : s.live = true) (hdoze : s.power.sleep ≠ .doze) (hslack : s.power.sleep ≠ .slack) {c : Cmd}
    (h : s.lockedOver v = some c) (hn : s.memSys.postponed.look 0 (16 * v + ch) < 8) :
    vaultRefresh v ch [] s = s.owe (16 * v + ch) (s.memSys.postponed.look 0 (16 * v + ch) + 1) := by
  simp [vaultRefresh, hlive, hdoze, hslack, h, hn, State.owe]

theorem vaultRefresh_unlocks (hlive : s.live = true) (hdoze : s.power.sleep ≠ .doze) (hslack : s.power.sleep ≠ .slack) {c : Cmd}
    (h : s.lockedOver v = some c) (hn : 8 ≤ s.memSys.postponed.look 0 (16 * v + ch)) :
    vaultRefresh v ch [] s = (s.lockWhere (fun c => c.onPath v v) 6).owe (16 * v + ch) 0 := by
  simp [vaultRefresh, hlive, hdoze, hslack, h, Nat.not_lt.mpr hn, State.owe]

theorem State.lockedOver_some {c : Cmd} (h : s.lockedOver v = some c) : c ∈ s.cmds ∧ c.onPath v v = true := by
  refine ⟨List.mem_of_find?_eq_some h, ?_⟩
  have hc := List.find?_some h
  simp only [Bool.and_eq_true, List.any_eq_true, decide_eq_true_eq] at hc
  obtain ⟨-, p, hp, hpv⟩ := hc
  exact List.any_eq_true.mpr ⟨p, hp, by simp [hpv]⟩

end

/-- Settles O14: the block by the write of its buffer, the gating by what keeps a pan from it, and the ninth refresh by induction on the
commands whose locks it ends. -/
theorem fetchGatingAndRefreshComplete : Obligations.FetchGatingAndRefreshComplete := by
  unfold Obligations.FetchGatingAndRefreshComplete
  refine ⟨?_, fun s p => ⟨?_, ?_⟩, ?_⟩
  · intro s p run part h load j q v region n src dst hrun hheld hstream hbund hgoes hst hnew hpc hleft hmark hfence hfree
    exact exec_programBlockFetch
      ⟨hrun, ⟨part, h, load, hheld, rfl⟩, hstream, hbund, hgoes, hst, hnew, hpc, hleft, hmark, hfence, hfree⟩
  · intro hup hgated hbund hrun hst harmed
    obtain ⟨hpart, hnone⟩ := panClockGate_gates hup hgated hbund hrun hst harmed
    refine ⟨fun x hx => congrArg Host.Outcome.next (hpart x hx), fun hx => ?_⟩
    obtain ⟨n, hn⟩ := hnone hx
    exact ⟨n, congrArg Host.Outcome.next hn⟩
  · exact fun i hi harmed => congrArg Host.Outcome.next (panClockGate_armed hi harmed)
  · intro s v ch hlive hdoze hslack key owed put
    refine ⟨fun h => congrArg Host.Outcome.next (vaultRefresh_takes hlive hdoze hslack h), fun c h => ⟨fun hn => ?_, fun hn => ?_⟩⟩
    · exact congrArg Host.Outcome.next (vaultRefresh_postpones hlive hdoze hslack h hn)
    · obtain ⟨hc, hf⟩ := State.lockedOver_some h
      refine ⟨_, congrArg Host.Outcome.next (vaultRefresh_unlocks hlive hdoze hslack h hn), ?_, fun d => State.cmd?_lockWhere hc hf⟩
      obtain ⟨⟨cs, x, hu⟩, -⟩ := State.lockWhere_locksEnd s (fun c => c.onPath v.toNat v.toNat) 6
      rw [hu]

end Sys2Proof.Machine

/-! SUPPORT. Confluences: what an arrival leaves, and what a release delivers to each pan (R107 to R110). -/
namespace Sys2Proof.Machine

-- ## Arrival

section
variable {s : State} {p : BitVec 6} {e : PEnv} {c : Cmd}

/-- What a pan brings to a confluence. -/
def PEnv.arrival (e : PEnv) : Arrival :=
  { func := BitVec.ofNat 4 (iFunc e.w), order := bitAt e.w 118, root := BitVec.ofNat 6 (fld e.w 112 6), units := fld e.w 96 16 + 1
    s := fld e.w 74 21, d := fld e.w 52 21 }

/-- The pan may join those that wait: none of the command has ended, and FUNC and ORDER agree. -/
def Agrees (s : State) (e : PEnv) (c : Cmd) : Prop :=
  c.ended = [] ∧ ∀ x ∈ c.arrived, ∀ b, (s.pan x).arrival = some b → b.func = e.arrival.func ∧ b.order = e.arrival.order

/-- The state once the pan has joined the pans that wait. -/
def State.joined (s : State) (e : PEnv) : State :=
  (s.setPan e.p { s.pan e.p with st := .atConfluence, arrival := some e.arrival }).modCmd e.run.seq
    fun c => { c with arrived := c.arrived ++ [e.p] }

theorem arriveAct_cases (hc : s.cmd? e.run.seq = some c) :
    (Agrees s e c ∧ arriveAct e s = { s := s.joined e, stay := true }) ∨ (¬ Agrees s e c ∧ arriveAct e s = { s, stop := some stAborted }) := by
  unfold arriveAct
  rw [hc]
  dsimp only
  split
  · next h =>
    refine .inr ⟨fun ⟨hended, hagree⟩ => ?_, rfl⟩
    simp only [hended, List.isEmpty_nil, Bool.not_true, Bool.false_or, List.any_eq_true] at h
    obtain ⟨x, hx, hb⟩ := h
    split at hb
    · next b harr =>
      obtain ⟨hfunc, horder⟩ := hagree x hx b harr
      simp [hfunc, horder, PEnv.arrival] at hb
    · cases hb
  · next h =>
    simp only [Bool.or_eq_true, Bool.not_eq_true', not_or, List.any_eq_true, not_exists, not_and] at h
    obtain ⟨hended, hagree⟩ := h
    refine .inl ⟨⟨by simpa using hended, fun x hx b harr => ?_⟩, rfl⟩
    have hb := hagree x hx
    rw [harr] at hb
    simpa [PEnv.arrival] using hb

theorem State.joined_frame (s : State) (e : PEnv) : PanFrame e.p (fun _ => False) { s with cmds := (s.joined e).cmds }
    { s.pan e.p with st := .atConfluence, arrival := some e.arrival } (s.joined e) := PanFrame.put ..

theorem State.cmd?_joined (hc : s.cmd? e.run.seq = some c) :
    (s.joined e).cmd? e.run.seq = some { c with arrived := c.arrived ++ [e.p] } := by
  unfold State.joined
  rw [State.cmd?_modCmd]
  · rw [show (s.setPan e.p _).cmd? e.run.seq = s.cmd? e.run.seq from rfl, hc]; rfl
  · exact fun _ => rfl

/-- A pan that agrees joins those that wait; one that does not stops the command. -/
theorem arrival_completes {i : Instr} (h : Runs s p e kConf (iFunc e.w))
    (hx : exec i s = .next (panRow kConf (funcIs (iFunc e.w)) arriveAct p [] s)) (hrace : e.run.race = false)
    (hc : s.cmd? e.run.seq = some c) :
    (Agrees s e c → ∃ u, exec i s = .next u
        ∧ PanFrame p.toNat (fun _ => False) { s with cmds := u.cmds }
          { s.pan p.toNat with st := .atConfluence, arrival := some e.arrival } u
        ∧ u.cmd? e.run.seq = some { c with arrived := c.arrived ++ [p.toNat] })
      ∧ (¬ Agrees s e c → exec i s = .next (s.stopCmd e.run.seq stAborted)) := by
  obtain ⟨hp, -, -⟩ := State.fetch_some h.1
  have hf : funcIs (iFunc e.w) e.w = true := by simp [funcIs]
  rcases arriveAct_cases hc with ⟨hagree, hact⟩ | ⟨hnot, hact⟩
  · refine ⟨fun _ => ⟨_, hx.trans (congrArg Host.Outcome.next (panRow_stays h hf hact)), ?_⟩, fun hn => absurd hagree hn⟩
    rw [← hp]
    exact ⟨(s.joined_frame e).charge _, State.cmd?_joined hc⟩
  · refine ⟨fun ha => absurd ha hnot, fun _ => hx.trans (congrArg Host.Outcome.next ?_)⟩
    rw [panRow_stops h hf hact, State.stopPan, if_neg (by simp [hrace])]

end

-- ## Folds over pans

/-- A fold whose items each change one pan, all of them different: each pan goes through its own item's change, and the rest stand. -/
theorem foldl_pans {α : Type} {key : α → Nat} {f : State → α → State} {R : α → Pan → Pan → Prop}
    (hother : ∀ t a j, j ≠ key a → (f t a).pan j = t.pan j) (hown : ∀ t a, R a (t.pan (key a)) ((f t a).pan (key a))) :
    ∀ (l : List α), (l.map key).Nodup → ∀ s : State,
      (∀ a ∈ l, R a (s.pan (key a)) ((l.foldl f s).pan (key a))) ∧ ∀ j, j ∉ l.map key → (l.foldl f s).pan j = s.pan j
  | [], _, _ => ⟨fun _ ha => by simp at ha, fun _ _ => rfl⟩
  | a :: l, hnd, s => by
    rw [List.map_cons, List.nodup_cons] at hnd
    obtain ⟨ha, hl⟩ := hnd
    obtain ⟨hin, hout⟩ := foldl_pans hother hown l hl (f s a)
    refine ⟨fun b hb => ?_, fun j hj => ?_⟩
    · rcases List.mem_cons.mp hb with rfl | hb
      · rw [List.foldl_cons, hout _ ha]
        exact hown s b
      · have hne : key b ≠ key a := fun h => ha (h ▸ List.mem_map_of_mem hb)
        have hr := hin b hb
        rw [hother s a _ hne] at hr
        exact hr
    · rw [List.map_cons, List.mem_cons, not_or] at hj
      rw [List.foldl_cons, hout j hj.2, hother s a j hj.1]

theorem foldl_ownPan {f : State → Nat → State} {R : Pan → Pan → Prop} (hother : ∀ t a j, j ≠ a → (f t a).pan j = t.pan j)
    (hown : ∀ t a, R (t.pan a) ((f t a).pan a)) {l : List Nat} (hl : l.Nodup) (s : State) :
    (∀ a ∈ l, R (s.pan a) ((l.foldl f s).pan a)) ∧ ∀ j, j ∉ l → (l.foldl f s).pan j = s.pan j := by
  have h := foldl_pans (key := id) (R := fun _ => R) hother hown l (by rwa [List.map_id]) s
  rwa [List.map_id] at h

/-- The stores of different pans do not meet. -/
theorem slotAddr_store_ne {p q : Nat} (h : p ≠ q) (a b i j : Nat) :
    slotAddr p { acc := false, ofs := a } i ≠ slotAddr q { acc := false, ofs := b } j := by
  simp only [slotAddr, storeBase, Bool.false_eq_true, if_false]
  omega

/-- A write to a pan's store leaves the others'. -/
theorem State.slotRead_slotWrite_otherPan {s : State} {p q : Nat} (h : p ≠ q) {a b k j n : Nat} {bs : List Byte}
    (hl : bs.length ≤ 0x200000) : (s.slotWrite p { acc := false, ofs := a } k bs).slotRead q { acc := false, ofs := b } j n
      = s.slotRead q { acc := false, ofs := b } j n :=
  List.map_congr_left fun _ _ => State.byte_slotWrite_out _ _ _ _ _ _ hl fun _ _ => slotAddr_store_ne h _ _ _ _

-- ## What reaches the pans

/-- The result and the flags reach a pan. -/
def deliverOne (d : Nat → Nat) (bs : List Byte) (fl : AFlags) (s : State) (q : Nat) : State :=
  (s.slotWrite q { acc := false, ofs := d q } 0 bs).addFlags q fl

/-- A pan runs on: the first to arrive waited for the skew, the others for a number that no rule gives. -/
def resumeOne (first : Nat) (skew : Word) (s : State) (q : Nat) : State :=
  let (k, s) := s.draw
  let gated := if q = first then BitVec.ofNat 64 skew.toNat else BitVec.ofNat 64 (freeCycles k).toNat
  s.modPan q fun v => { v with st := .run, arrival := none, profGated := if v.freeze then v.profGated else v.profGated + gated }

section
variable {s : State} {l : List Nat} {d : Nat → Nat} {bs : List Byte} {fl : AFlags}

theorem foldl_deliverOne_frame :
    { l.foldl (deliverOne d bs fl) s with mem := s.mem, poison := s.poison, pans := s.pans } = s :=
  foldl_keeps (fun t : State => { t with mem := s.mem, poison := s.poison, pans := s.pans } = s) (deliverOne d bs fl) l
    (fun _ _ _ h => h) s rfl

theorem foldl_deliverOne_pan (hnd : l.Nodup) :
    (∀ q ∈ l, (l.foldl (deliverOne d bs fl) s).pan q = { s.pan q with arith := (s.pan q).arith ||| fl })
      ∧ ∀ j, j ∉ l → (l.foldl (deliverOne d bs fl) s).pan j = s.pan j :=
  foldl_ownPan (R := fun v w => w = { v with arith := v.arith ||| fl })
    (fun t q j hj => by simp [deliverOne, State.addFlags, hj]) (fun t q => by simp [deliverOne, State.addFlags]) hnd s

theorem foldl_deliverOne_read (hl : bs.length ≤ 0x200000) (hnd : l.Nodup) {q : Nat} (hq : q ∈ l) :
    (l.foldl (deliverOne d bs fl) s).slotRead q { acc := false, ofs := d q } 0 bs.length = bs := by
  refine foldl_each (P := fun q (t : State) => t.slotRead q { acc := false, ofs := d q } 0 bs.length = bs) l (fun a _ t => ?_) ?_ hq s
  · rw [deliverOne, State.addFlags_slotRead]
    exact State.slotRead_slotWrite _ _ _ _ _ hl
  · refine hnd.imp fun hne t h => ?_
    rw [deliverOne, State.addFlags_slotRead, State.slotRead_slotWrite_otherPan (Ne.symm hne) hl]
    exact h

theorem foldl_deliverOne_byte (hl : bs.length ≤ 0x200000) {a : Nat}
    (ha : ∀ q ∈ l, ¬ InSlot q { acc := false, ofs := d q } bs.length a) : (l.foldl (deliverOne d bs fl) s).byte a = s.byte a := by
  refine foldl_keeps (fun t : State => t.byte a = s.byte a) _ l (fun t q hq h => ?_) s rfl
  rw [deliverOne, State.addFlags_byte, State.byte_slotWrite_out _ _ _ _ _ _ hl]
  · exact h
  · exact fun i hi heq => ha q hq ⟨i, hi, by simpa using heq⟩

theorem foldl_resumeOne_frame (first : Nat) (skew : Word) :
    { l.foldl (resumeOne first skew) s with drawn := s.drawn, pans := s.pans } = s :=
  foldl_keeps (fun t : State => { t with drawn := s.drawn, pans := s.pans } = s) (resumeOne first skew) l (fun _ _ _ h => h) s rfl

/-- The pan runs on, at the word that it waited at. -/
def Pan.Resumed (v w : Pan) : Prop := w.st = .run ∧ w.arrival = none ∧ w.arith = v.arith ∧ w.pc = v.pc

theorem foldl_resumeOne_pan (first : Nat) (skew : Word) (hnd : l.Nodup) :
    (∀ q ∈ l, (s.pan q).Resumed ((l.foldl (resumeOne first skew) s).pan q))
      ∧ ∀ j, j ∉ l → (l.foldl (resumeOne first skew) s).pan j = s.pan j :=
  foldl_ownPan (R := Pan.Resumed) (fun t q j hj => by simp [resumeOne, hj]) (fun t q => by simp [resumeOne, Pan.Resumed]) hnd s

end

-- ## Release

section
variable {s : State} {seq : DWord} {c : Cmd}

/-- The arrival that a pan waits with. -/
def State.arrivalOf (s : State) (q : Nat) : Arrival :=
  (s.pan q).arrival.getD { func := 0, order := false, root := 0, units := 1, s := 0, d := 0 }

/-- The contribution of a pan, of the length that the lowest rank gives. -/
def State.contribution (s : State) (c : Cmd) (q : Nat) : List Byte :=
  s.slotRead q { acc := false, ofs := (s.arrivalOf q).s } 0 ((s.arrivalOf (c.pans.headD 0)).units * 16)

/-- What the release of the command's confluence delivers. -/
def State.delivery (s : State) (c : Cmd) : List Byte × AFlags × BitVec 16 :=
  let low := s.arrivalOf (c.pans.headD 0)
  let ranked := if low.func.toNat = 0 then [] else c.pans.map (s.contribution c)
  confluenceResult low.func.toNat (min low.root.toNat (c.pans.length - 1)) ranked
    (if low.order then c.arrived.map (s.contribution c) else ranked)

/-- The pans disagree on BYTES or, in a broadcast, on a ROOT within the set. -/
def State.clashes (s : State) (c : Cmd) : Bool :=
  let low := s.arrivalOf (c.pans.headD 0)
  (c.pans.any fun q => (s.arrivalOf q).units != low.units)
    || (low.func.toNat == 5 && (c.pans.length ≤ low.root.toNat || c.pans.any fun q => (s.arrivalOf q).root != low.root))

theorem State.cmd?_clampCmd (s : State) (seq : DWord) (m : BitVec 16) :
    (s.clampCmd seq m).cmd? seq = (s.cmd? seq).map fun c => { c with clamp := c.clamp ||| m } := by
  rw [State.clampCmd, State.cmd?_modCmd]
  exact fun _ => rfl

/-- The command once its clamps are noted. -/
def State.clampRelease (s : State) (seq : DWord) (c : Cmd) : State :=
  (if s.clashes c then s.clampCmd seq cConfluence else s).clampCmd seq (s.delivery c).2.2

theorem State.clampRelease_frame (s : State) (seq : DWord) (c : Cmd) : { s.clampRelease seq c with cmds := s.cmds } = s := by
  unfold State.clampRelease
  split <;> rfl

theorem State.cmd?_clampRelease (hc : s.cmd? seq = some c) : (s.clampRelease seq c).cmd? seq =
    some { c with clamp := c.clamp ||| (if s.clashes c then cConfluence else 0) ||| (s.delivery c).2.2 } := by
  unfold State.clampRelease
  rw [State.cmd?_clampCmd]
  split
  · rw [State.cmd?_clampCmd, hc]; rfl
  · simp [hc]

/-- The release before the pans advance. -/
def State.released (s : State) (seq : DWord) (skew : Word) (c : Cmd) : State :=
  let r := s.delivery c
  let t := c.pans.foldl (deliverOne (fun q => (s.arrivalOf q).d) r.1 r.2.1) (s.clampRelease seq c)
  let t := c.pans.foldl (resumeOne (c.arrived.headD 0) skew) t
  (t.modPart c.part (confTelemetry skew.toNat (c.arrived.getLastD 0) c.pans.length)).modCmd seq fun c => { c with arrived := [] }

theorem confluenceGo_releases (skew : Word) (hc : s.cmd? seq = some c) (hgoes : s.edge.stopped = false) (hpans : c.pans ≠ [])
    (hall : c.arrived.length = c.pans.length) : confluenceGo seq skew s =
      c.pans.foldl (fun v q => if ((v.pan q).run.map fun x => x.seq) = some seq then v.advance q else v) (s.released seq skew c) := by
  have hguard : (s.edge.stopped || c.pans.isEmpty || c.arrived.length != c.pans.length) = false := by
    simp [hgoes, hpans, hall]
  unfold confluenceGo
  rw [hc]
  dsimp only
  rw [hguard, if_neg Bool.false_ne_true]
  rfl

/-- While a pan is still to come, nothing happens. -/
theorem confluenceGo_waits (skew : Word) (hc : s.cmd? seq = some c) (hmissing : c.arrived.length ≠ c.pans.length) :
    confluenceGo seq skew s = s := by
  simp [confluenceGo, hc, hmissing]

/-- What the release leaves of the pans. -/
theorem State.released_pan (skew : Word) (hnd : c.pans.Nodup) :
    (∀ q ∈ c.pans, ((s.released seq skew c).pan q).st = .run ∧ ((s.released seq skew c).pan q).arrival = none
        ∧ ((s.released seq skew c).pan q).arith = (s.pan q).arith ||| (s.delivery c).2.1
        ∧ ((s.released seq skew c).pan q).pc = (s.pan q).pc)
      ∧ ∀ q, q ∉ c.pans → (s.released seq skew c).pan q = s.pan q := by
  have hclamp (q : Nat) : (s.clampRelease seq c).pan q = s.pan q :=
    State.pan_of_pans (congrArg State.pans (State.clampRelease_frame s seq c) :) q
  obtain ⟨hin, hout⟩ := foldl_deliverOne_pan (s := s.clampRelease seq c) (d := fun q => (s.arrivalOf q).d) (bs := (s.delivery c).1)
    (fl := (s.delivery c).2.1) hnd
  obtain ⟨hin', hout'⟩ := foldl_resumeOne_pan (s := c.pans.foldl (deliverOne (fun q => (s.arrivalOf q).d) (s.delivery c).1 (s.delivery c).2.1)
    (s.clampRelease seq c)) (c.arrived.headD 0) skew hnd
  refine ⟨fun q hq => ?_, fun q hq => ?_⟩
  · obtain ⟨hst, harr, harith, hpc⟩ := hin' q hq
    rw [hin q hq, hclamp] at harith hpc
    exact ⟨hst, harr, harith, hpc⟩
  · exact (hout' q hq).trans ((hout q hq).trans (hclamp q))

theorem State.released_mem (skew : Word) : (s.released seq skew c).mem
    = (c.pans.foldl (deliverOne (fun q => (s.arrivalOf q).d) (s.delivery c).1 (s.delivery c).2.1) (s.clampRelease seq c)).mem :=
  (congrArg State.mem (foldl_resumeOne_frame (s := c.pans.foldl (deliverOne (fun q => (s.arrivalOf q).d) (s.delivery c).1
    (s.delivery c).2.1) (s.clampRelease seq c)) (c.arrived.headD 0) skew) :)

theorem State.released_read (skew : Word) (hl : (s.delivery c).1.length ≤ 0x200000) (hnd : c.pans.Nodup) {q : Nat} (hq : q ∈ c.pans) :
    (s.released seq skew c).slotRead q { acc := false, ofs := (s.arrivalOf q).d } 0 (s.delivery c).1.length = (s.delivery c).1 := by
  rw [State.slotRead, State.released_mem]
  exact foldl_deliverOne_read hl hnd hq

theorem State.released_byte (skew : Word) (hl : (s.delivery c).1.length ≤ 0x200000) {a : Nat}
    (ha : ∀ q ∈ c.pans, ¬ InSlot q { acc := false, ofs := (s.arrivalOf q).d } (s.delivery c).1.length a) :
    (s.released seq skew c).byte a = s.byte a := by
  rw [State.byte, State.released_mem]
  refine (foldl_deliverOne_byte hl ha).trans ?_
  rw [State.byte, show (s.clampRelease seq c).mem = s.mem from (congrArg State.mem (State.clampRelease_frame s seq c) :)]
  rfl

/-- Beside pans and memory, the release leaves the telemetry and the command's record. -/
theorem State.released_frame (skew : Word) (hc : s.cmd? seq = some c) :
    (s.released seq skew c).part c.part = confTelemetry skew.toNat (c.arrived.getLastD 0) c.pans.length (s.part c.part)
      ∧ (s.released seq skew c).cmd? seq = some { c with
          arrived := [], clamp := c.clamp ||| (if s.clashes c then cConfluence else 0) ||| (s.delivery c).2.2 } := by
  have hresume := foldl_resumeOne_frame (s := c.pans.foldl (deliverOne (fun q => (s.arrivalOf q).d) (s.delivery c).1
    (s.delivery c).2.1) (s.clampRelease seq c)) (l := c.pans) (c.arrived.headD 0) skew
  have hdeliver := foldl_deliverOne_frame (s := s.clampRelease seq c) (l := c.pans) (d := fun q => (s.arrivalOf q).d)
    (bs := (s.delivery c).1) (fl := (s.delivery c).2.1)
  have hparts := ((congrArg State.parts hresume :).trans (congrArg State.parts hdeliver :)).trans
    (congrArg State.parts (State.clampRelease_frame s seq c) :)
  have hcmds := (congrArg State.cmds hresume :).trans (congrArg State.cmds hdeliver :)
  unfold State.released
  dsimp only at hparts hcmds ⊢
  generalize c.pans.foldl (resumeOne (c.arrived.headD 0) skew) _ = t at hparts hcmds ⊢
  have hpart : t.part c.part = s.part c.part := by rw [State.part, hparts]; rfl
  have hcmd : t.cmd? seq = (s.clampRelease seq c).cmd? seq := by rw [State.cmd?, hcmds]; rfl
  refine ⟨?_, ?_⟩
  · simp [hpart]
  · rw [State.cmd?_modCmd]
    · rw [State.modPart_eq, show (t.setPart _ _).cmd? seq = t.cmd? seq from rfl, hcmd, State.cmd?_clampRelease hc]; rfl
    · exact fun _ => rfl

end

/-- Settles O12: an arrival by the two cases of agreement, and the release by what its folds over the set leave of each pan. -/
theorem confluencesGatherAndReleaseTheirPans : Obligations.ConfluencesGatherAndReleaseTheirPans := by
  unfold Obligations.ConfluencesGatherAndReleaseTheirPans
  refine ⟨fun s p e f c h hf5 hrace hc => ?_, fun s seq skew c hc hgoes hpans hnd => ?_⟩
  · have ⟨_, _, hfunc⟩ := h
    subst hfunc
    intro q i a agree
    have hx : exec i s = .next (panRow kConf (funcIs (iFunc e.w)) arriveAct p [] s) := by
      subst i
      generalize iFunc e.w = f at hf5 ⊢
      interval_cases f <;> rfl
    exact arrival_completes h hx hrace hc
  · intro arr low f contrib ranked r clash
    refine ⟨fun hmissing => congrArg Host.Outcome.next (confluenceGo_waits skew hc hmissing), fun hall hl => ?_⟩
    obtain ⟨hin, hout⟩ := State.released_pan (s := s) (seq := seq) skew hnd
    obtain ⟨hpart, hcmd⟩ := State.released_frame skew hc
    refine ⟨s.released seq skew c, congrArg Host.Outcome.next (confluenceGo_releases skew hc hgoes hpans hall), fun q hq => ?_,
      hpart, hcmd, hout, fun a ha => State.released_byte skew hl ha⟩
    obtain ⟨hst, harr, harith, hpc⟩ := hin q hq
    exact ⟨State.released_read skew hl hnd hq, hst, harr, harith, hpc⟩

end Sys2Proof.Machine

/-! SUPPORT. SAMPLE: the order of values that are not NaN, the greatest key, and what the instruction leaves (R100, R261 to R263). -/
namespace Sys2Proof.Machine

-- ## The order of values (Table 2.3)

theorem toInt_mul_zpow (n : Bool) (m : Nat) {e e1 : Int} (h : e ≤ e1) :
    (toInt n (m <<< (e1 - e).toNat) : ℚ) * 2 ^ e = (toInt n m : ℚ) * 2 ^ e1 := by
  have hk : (2 : ℚ) ^ e1 = 2 ^ (e1 - e).toNat * 2 ^ e := by
    rw [← zpow_natCast, Int.toNat_of_nonneg (by omega), ← zpow_add₀ (by norm_num)]
    congr 1
    omega
  rw [hk, Nat.shiftLeft_eq]
  cases n <;> simp [toInt] <;> ring

/-- The order of finite values is that of the rationals that they stand for, with +0 above -0. -/
theorem FV.le_fin (n1 n2 : Bool) (m1 m2 : Nat) (e1 e2 : Int) : (FV.fin n1 m1 e1).le (.fin n2 m2 e2) = true ↔
    (toInt n1 m1 : ℚ) * 2 ^ e1 < (toInt n2 m2 : ℚ) * 2 ^ e2
      ∨ (toInt n1 m1 : ℚ) * 2 ^ e1 = (toInt n2 m2 : ℚ) * 2 ^ e2 ∧ (n1 || !n2) = true := by
  have hpos : (0 : ℚ) < 2 ^ min e1 e2 := by positivity
  rw [← toInt_mul_zpow n1 m1 (min_le_left e1 e2), ← toInt_mul_zpow n2 m2 (min_le_right e1 e2), mul_lt_mul_iff_left₀ hpos,
    mul_left_inj' hpos.ne', Int.cast_lt, Int.cast_inj]
  simp only [FV.le]
  split
  · next h => simp [h]
  · next h => simp [h]

/-- Where a value that is not NaN stands in the order. -/
def FV.rank : FV → WithBot (WithTop (ℚ ×ₗ Bool))
  | .nan => ⊥
  | .inf neg => if neg then ⊥ else ((⊤ : WithTop (ℚ ×ₗ Bool)) : WithBot (WithTop (ℚ ×ₗ Bool)))
  | .fin neg m e => (((toLex ((toInt neg m : ℚ) * 2 ^ e, !neg) : ℚ ×ₗ Bool) : WithTop (ℚ ×ₗ Bool)) : WithBot (WithTop (ℚ ×ₗ Bool)))

theorem FV.le_iff_rank {a b : FV} (ha : a.isNan = false) (hb : b.isNan = false) : a.le b = true ↔ a.rank ≤ b.rank := by
  cases a with
  | nan => cases ha
  | inf n =>
    cases b with
    | nan => cases hb
    | inf n' => cases n <;> cases n' <;> simp [FV.le, FV.rank]
    | fin n' m e => cases n <;> simp [FV.le, FV.rank]
  | fin n m e =>
    cases b with
    | nan => cases hb
    | inf n' => cases n' <;> simp [FV.le, FV.rank]
    | fin n' m' e' =>
      rw [FV.le_fin, FV.rank, FV.rank, WithBot.coe_le_coe, WithTop.coe_le_coe, Prod.Lex.toLex_le_toLex]
      cases n <;> cases n' <;> simp

-- ## The greatest key

/-- The code is a number. -/
def IsNumber (x : Nat) : Prop := (v32 x).isNan = false

theorem le32_refl {x : Nat} (h : IsNumber x) : (v32 x).le (v32 x) = true := (FV.le_iff_rank h h).mpr le_rfl
theorem le32_total {x y : Nat} (hx : IsNumber x) (hy : IsNumber y) : (v32 x).le (v32 y) = true ∨ (v32 y).le (v32 x) = true :=
  (le_total _ _).imp (FV.le_iff_rank hx hy).mpr (FV.le_iff_rank hy hx).mpr
theorem le32_trans {x y z : Nat} (hx : IsNumber x) (hy : IsNumber y) (hz : IsNumber z) (h : (v32 x).le (v32 y) = true)
    (h' : (v32 y).le (v32 z) = true) : (v32 x).le (v32 z) = true :=
  (FV.le_iff_rank hx hz).mpr (((FV.le_iff_rank hx hy).mp h).trans ((FV.le_iff_rank hy hz).mp h'))

/-- The better of the best so far and the next key. -/
def pickKey (b : Option (Nat × Nat)) (x : Nat × Nat) : Option (Nat × Nat) :=
  if (v32 x.1).isNan then b else
    match b with
    | none => some x
    | some y => if (v32 x.1).le (v32 y.1) then some y else some x

theorem bestKey_eq (xs : List (Nat × Nat)) : bestKey xs = (xs.foldl pickKey none).getD (fFp32.nanCode, (xs.headD (0, 0)).2) := by
  change (match xs.foldl pickKey none with | some x => x | none => (fFp32.nanCode, (xs.headD (0, 0)).2)) = _
  cases xs.foldl pickKey none <;> rfl

/-- `y` is the first of the elements with the greatest key. -/
def Leads (xs : List (Nat × Nat)) (y : Nat × Nat) : Prop :=
  IsNumber y.1 ∧ (∀ x ∈ xs, IsNumber x.1 → (v32 x.1).le (v32 y.1) = true)
    ∧ ∃ before after, xs = before ++ y :: after ∧ ∀ x ∈ before, x.1 ≠ y.1

section
variable {xs : List (Nat × Nat)} {x y : Nat × Nat}

theorem Leads.keep (h : Leads xs y) (hx : IsNumber x.1 → (v32 x.1).le (v32 y.1) = true) : Leads (xs ++ [x]) y := by
  obtain ⟨hy, hmax, before, after, rfl, hbefore⟩ := h
  refine ⟨hy, fun z hz hn => ?_, before, after ++ [x], by simp, hbefore⟩
  rcases List.mem_append.mp hz with hz | hz
  · exact hmax z hz hn
  · obtain rfl := List.mem_singleton.mp hz
    exact hx hn

/-- A key greater than all before it leads. -/
theorem leads_last (hx : IsNumber x.1) (h : ∀ z ∈ xs, IsNumber z.1 → (v32 z.1).le (v32 x.1) = true ∧ z.1 ≠ x.1) :
    Leads (xs ++ [x]) x := by
  refine ⟨hx, fun z hz hn => ?_, xs, [], rfl, fun z hz heq => ?_⟩
  · rcases List.mem_append.mp hz with hz | hz
    · exact (h z hz hn).1
    · obtain rfl := List.mem_singleton.mp hz
      exact le32_refl hn
  · exact (h z hz (heq ▸ hx)).2 heq

theorem Leads.overtaken (h : Leads xs y) (hx : IsNumber x.1) (hxy : (v32 x.1).le (v32 y.1) = false) : Leads (xs ++ [x]) x := by
  obtain ⟨hy, hmax, -⟩ := h
  have hyx : (v32 y.1).le (v32 x.1) = true := (le32_total hy hx).resolve_right (by simp [hxy])
  refine leads_last hx fun z hz hn => ⟨le32_trans hn hy hx (hmax z hz hn) hyx, fun heq => ?_⟩
  rw [← heq, hmax z hz hn] at hxy
  cases hxy

/-- The fold finds the element that leads, if any key is a number. -/
theorem foldl_pickKey (xs : List (Nat × Nat)) :
    (∀ y, xs.foldl pickKey none = some y → Leads xs y) ∧ (xs.foldl pickKey none = none → ∀ x ∈ xs, ¬ IsNumber x.1) := by
  induction xs using List.reverseRecOn with
  | nil => exact ⟨nofun, fun _ _ hx => absurd hx List.not_mem_nil⟩
  | append_singleton xs x ih =>
    obtain ⟨hsome, hnone⟩ := ih
    rw [List.foldl_append, List.foldl_cons, List.foldl_nil]
    by_cases hx : IsNumber x.1
    · have hn : (v32 x.1).isNan = false := hx
      cases hb : xs.foldl pickKey none with
      | none =>
        have hp : pickKey none x = some x := by simp [pickKey, hn]
        rw [hp]
        refine ⟨fun y hy => ?_, fun h => by cases h⟩
        cases hy
        exact leads_last hx fun z hz hn => absurd hn (hnone hb z hz)
      | some b =>
        have hlead := hsome b hb
        cases hle : (v32 x.1).le (v32 b.1) with
        | true =>
          have hp : pickKey (some b) x = some b := by simp [pickKey, hn, hle]
          rw [hp]
          refine ⟨fun y hy => ?_, fun h => by cases h⟩
          cases hy
          exact hlead.keep fun _ => hle
        | false =>
          have hp : pickKey (some b) x = some x := by simp [pickKey, hn, hle]
          rw [hp]
          refine ⟨fun y hy => ?_, fun h => by cases h⟩
          cases hy
          exact hlead.overtaken hx hle
    · have hp (b : Option (Nat × Nat)) : pickKey b x = b := if_pos (by simpa [IsNumber] using hx)
      rw [hp]
      refine ⟨fun y hy => (hsome y hy).keep fun h => absurd h hx, fun h z hz => ?_⟩
      rcases List.mem_append.mp hz with hz | hz
      · exact hnone h z hz
      · obtain rfl := List.mem_singleton.mp hz
        exact hx

/-- The chosen element leads, where any key is a number. -/
theorem bestKey_leads (h : ∃ x ∈ xs, IsNumber x.1) : Leads xs (bestKey xs) := by
  obtain ⟨hsome, hnone⟩ := foldl_pickKey xs
  rw [bestKey_eq]
  cases hb : xs.foldl pickKey none with
  | none =>
    obtain ⟨x, hx, hn⟩ := h
    exact absurd hn (hnone hb x hx)
  | some y => exact hsome y hb

theorem bestKey_noNumber (h : ∀ x ∈ xs, (v32 x.1).isNan = true) : bestKey xs = (0x7FC00000, (xs.headD (0, 0)).2) := by
  obtain ⟨hsome, -⟩ := foldl_pickKey xs
  rw [bestKey_eq]
  cases hb : xs.foldl pickKey none with
  | none => rfl
  | some y =>
    obtain ⟨hy, -, before, after, rfl, -⟩ := hsome y hb
    have := h y (by simp)
    rw [show (v32 y.1).isNan = false from hy] at this
    cases this

/-- An element that leads, by its index. -/
theorem Leads.index (h : Leads xs y) : ∃ i, ∃ h : i < xs.length, y = xs[i] ∧ ∀ j, j < i → ∀ hj : j < xs.length, (xs[j]).1 ≠ y.1 := by
  obtain ⟨-, -, before, after, rfl, hbefore⟩ := h
  refine ⟨before.length, by simp, by simp, fun j hj hj' => ?_⟩
  rw [List.getElem_append_left hj]
  exact hbefore _ (List.getElem_mem hj)

end

-- ## What SAMPLE leaves (R100, R261 to R263)

theorem State.drbgTake_pans {s : State} {n : Nat} {r : List Byte × State} (h : s.drbgTake n = some r) : r.2.pans = s.pans := by
  unfold State.drbgTake at h
  split at h
  · cases h
  · cases h
    rfl

theorem State.entropyWords_pans : ∀ {n : Nat} {s : State} {r : List Nat × State}, s.entropyWords n = some r → r.2.pans = s.pans
  | 0, s, r, h => by
    cases h
    rfl
  | n + 1, s, r, h => by
    unfold State.entropyWords at h
    dsimp only at h
    split at h
    · cases h
    · next v hv =>
      have hfill : v.pans = s.pans := by
        split at hv
        · obtain ⟨x, hx, rfl⟩ := Option.map_eq_some_iff.mp hv
          exact State.drbgTake_pans hx
        · cases hv
          rfl
      split at h
      · cases h
      · next x hx =>
        obtain rfl := Option.some.inj h
        exact (State.entropyWords_pans hx).trans hfill

@[simp] theorem length_sampleInputs (e : PEnv) (s : State) : (sampleInputs e s).length = fld e.w 79 18 + 1 := by simp [sampleInputs]

/-- The record that SAMPLE leaves at D. -/
def sampleRecord (best : Nat × Nat) : List Byte := leBytes 4 best.1 ++ leBytes 4 best.2 ++ List.replicate 8 0

theorem length_sampleRecord_le (best : Nat × Nat) (sl : Slot22) : (sampleRecord best).length ≤ sl.size := by
  have := sl.le_size
  simp [sampleRecord]
  omega

/-- A CATEGORICAL that does not take its words from the entropy buffer, or finds them there, goes on. -/
theorem entropyWaits_eq_false {s : State} {p : BitVec 6} {e : PEnv} (he : s.fetch p.toNat = some e)
    (h : bitAt e.w 118 = true → (s.entropyWords (fld e.w 79 18 + 1)).isSome = true) : entropyWaits p s = false := by
  unfold entropyWaits
  rw [he]
  cases hb : bitAt e.w 118 with
  | false => simp [hb]
  | true => simp [h hb]

theorem State.slotRead_addFlags (s : State) (q : Nat) (fl : AFlags) (p : Nat) (sl : Slot22) (k n : Nat) :
    (s.addFlags q fl).slotRead p sl k n = s.slotRead p sl k n := rfl

section
variable {s : State} {p : BitVec 6} {e : PEnv}

theorem greedy_writes (h : Runs s p e kSample 0) :
    PanWrites (.greedy p []) e.p (slotAt e.w 13) (sampleRecord (bestKey (sampleInputs e s)))
      (if (sampleInputs e s).any fun x => (v32 x.1).isNan then fNanIn else 0) s s (s.pan e.p) := by
  obtain ⟨hp, -, -⟩ := State.fetch_some h.1
  rw [hp]
  refine panWrites_of_plain (act := greedyAct) (c := { vec := cdiv (sampleInputs e s).length 64 + 12 }) h (func := funcIs 0) ?_ rfl ?_
    (length_sampleRecord_le ..)
  · obtain ⟨-, -, hfunc⟩ := h
    simp [funcIs, hfunc]
  · rw [← hp]
    rfl

/-- The keys of CATEGORICAL and the flags that they raise. -/
def sampleKeys (e : PEnv) (s : State) (rs : List Nat) : List (Nat × Nat) × AFlags :=
  Arith.go (categoricalKeys ((s.slotElems e.p (slotAt e.w 35) 0 .fp32 1).headD 0) ((sampleInputs e s).zip rs))

theorem categoricalAct_eq {rs : List Nat} {t : State}
    (hrs : (if bitAt e.w 118 then s.entropyWords (sampleInputs e s).length
      else some ((sampleInputs e s).map fun y => genF (s.part e.run.part).seed.toNat (sampleStep e s) y.2, s)) = some (rs, t)) :
    categoricalAct e s = putSample e t (bestKey (sampleKeys e s rs).1) (sampleKeys e s rs).2 (8 * cdiv (sampleInputs e s).length 64 + 24) := by
  unfold categoricalAct
  dsimp only
  rw [hrs]
  rfl

/-- A CATEGORICAL that has its words leaves the record of the best key, from the state in which it took them. -/
theorem categorical_writes (h : Runs s p e kSample 1) (hw : entropyWaits p s = false) {rs : List Nat} {t : State}
    (ht : t.pans = s.pans)
    (hrs : (if bitAt e.w 118 then s.entropyWords (sampleInputs e s).length
      else some ((sampleInputs e s).map fun y => genF (s.part e.run.part).seed.toNat (sampleStep e s) y.2, s)) = some (rs, t)) :
    PanWrites (.categorical p []) e.p (slotAt e.w 13) (sampleRecord (bestKey (sampleKeys e s rs).1)) (sampleKeys e s rs).2 s t
      (s.pan e.p) := by
  have hx : exec (.categorical p []) s = .next (panRow kSample (funcIs 1) categoricalAct p [] s) := by
    change Host.Outcome.next _ = _
    rw [hw]
    rfl
  have hl := length_sampleRecord_le (bestKey (sampleKeys e s rs).1) (slotAt e.w 13)
  have hpan : t.pan e.p = s.pan e.p := congrArg (·.look {} e.p) ht
  refine panWrites_of_frame (exec_of_act h hx (categoricalAct_eq hrs)) ?_ ?_ ?_
  · exact (State.slotRead_addFlags ..).trans (State.slotRead_slotWrite _ _ _ _ _ hl)
  · rw [← hpan]
    simp [State.addFlags]
  · rw [← hpan]
    exact ((PanFrame.refl ..).slotWrite_first hl).addFlags _

end

/-- Settles O11: GREEDY and CATEGORICAL are a write of their record, and the fold over the keys keeps the first of the greatest. -/
theorem sampleChoosesTheGreatestKey : Obligations.SampleChoosesTheGreatestKey := by
  refine ⟨fun s p e f h => ?_, fun xs _ => ⟨fun hn => ?_, bestKey_noNumber⟩⟩
  · obtain ⟨hp, -, -⟩ := State.fetch_some h.1
    dsimp only
    refine ⟨fun hf => ?_, fun hf hb => ?_, fun hf hb rs t hrs => ?_⟩ <;> subst hf
    · rw [← hp]
      exact greedy_writes h
    · have hw : entropyWaits p s = false := entropyWaits_eq_false h.1 fun hb' => absurd hb' (by simp [hb])
      rw [← hp]
      refine categorical_writes h hw rfl ?_
      rw [if_neg (by simp [hb])]
      rfl
    · have hw : entropyWaits p s = false := entropyWaits_eq_false h.1 fun _ => by simp [hrs]
      rw [← hp]
      refine categorical_writes h hw (State.entropyWords_pans hrs) ?_
      rw [if_pos hb, length_sampleInputs]
      exact hrs
  · have hlead := bestKey_leads hn
    obtain ⟨hnum, hmax, -⟩ := id hlead
    obtain ⟨i, hi, heq, hfirst⟩ := hlead.index
    exact ⟨i, hi, heq, hnum, hmax, hfirst⟩

end Sys2Proof.Machine

/-! SUPPORT. LOAD_PROGRAM and LOAD_WEIGHTS: how a load starts (R74, R133), and how its copy ends (R134, R351, R401). -/
namespace Sys2Proof.Machine

-- ## The start of a load

theorem State.beginCmd_byte (s : State) (c : Cmd) {a : Nat} (h : ¬ InSpill s a) : (s.beginCmd c).byte a = s.byte a :=
  State.tallyMod_byte s c.seq _ a h

@[simp] theorem State.region_setRegion (s : State) (weights : Bool) (p h : Nat) (r : Region) :
    (s.setRegion weights p h r).region weights p h = r := by
  cases weights <;> simp [State.setRegion, State.region]

/-- The state beside what the start of a load changes. -/
def State.besideLoad (s : State) : State := { s with parts := [], cmds := [], tally := {}, mem := [], poison := [] }

theorem State.frame_of_besideLoad {s u : State} (h : u.besideLoad = s.besideLoad) :
    { u with parts := s.parts, cmds := s.cmds, tally := s.tally, mem := s.mem, poison := s.poison } = s :=
  (congrArg (fun t : State =>
    { t with parts := s.parts, cmds := s.cmds, tally := s.tally, mem := s.mem, poison := s.poison }) h :)

theorem State.beginCmd_besideLoad (s : State) (c : Cmd) : (s.beginCmd c).besideLoad = s.besideLoad := rfl
theorem State.clampCmd_besideLoad (s : State) (seq : DWord) (m : BitVec 16) : (s.clampCmd seq m).besideLoad = s.besideLoad := rfl
theorem State.clampCmd_byte (s : State) (seq : DWord) (m : BitVec 16) (a : Nat) : (s.clampCmd seq m).byte a = s.byte a := rfl
theorem State.openRegion_byte (s : State) (weights : Bool) (c : Cmd) (len plen : Nat) (prog : ProgInfo) (st : Byte) (a : Nat) :
    (s.openRegion weights c len plen prog st).byte a = s.byte a := rfl
theorem State.openRegion_besideLoad (s : State) (weights : Bool) (c : Cmd) (len plen : Nat) (prog : ProgInfo) (st : Byte) :
    (s.openRegion weights c len plen prog st).besideLoad = s.besideLoad := rfl

section
variable {s : State} {c : Cmd} {weights : Bool} {len plen : Nat} {prog : ProgInfo} {st : Byte}

theorem State.region_openRegion : (s.openRegion weights c len plen prog st).region weights c.part (c.f 8 1) =
    { used := true, base := c.addr 32 / 0x10000 * 0x10000, len := up64k len, plen := BitVec.ofNat 64 plen, loadSeq := c.seq, prog } :=
  State.region_setRegion s weights ..

theorem State.cmd?_openRegion : (s.openRegion weights c len plen prog st).cmd? c.seq
    = (s.cmd? c.seq).map fun d => { d with working := true, status := st } := by
  rw [State.openRegion, State.cmd?_modCmd]
  · rfl
  · exact fun _ => rfl

theorem checked_of_none {l : List (Bool × Byte)} (h : firstFail l = none) (act : State → State) : checked l act c s = act s := by
  simp [checked, h]

/-- The clamps that an image's header and words take. -/
def imageClamp (h : Header) (k : Checked) : BitVec 16 :=
  (if h.clamped || h.flags != k.flags then cHeader else 0) ||| (if k.clamped = 0 then 0 else cProgramField)

/-- What a header and its words tell of a program. -/
def imageInfo (h : Header) (k : Checked) : ProgInfo :=
  { nInstr := h.nInstr, nDesc := h.nDesc, flags := BitVec.ofNat 8 k.flags, pansMin := h.pmin, pansMax := h.pmax
    staticCycles := BitVec.ofNat 32 h.cycles, clampedWords := k.clamped, firstClamped := k.first }

/-- A load of a program whose checks pass and whose image stands goes by what its words decode to. -/
theorem loadProgramAct_stands {h : Header} (hpass : firstFail (loadChecks false s c (c.f 24 8)) = none) (hlen : 64 ≤ c.f 24 8)
    (hmark : s.marked (c.addr 16) 64 = false) (hhead : readHeader (s.read (c.addr 16) 64) = some h) (hneed : h.need ≤ c.f 24 8)
    (hclean : s.marked (c.addr 16) h.need = false) :
    loadProgramAct c s =
      match checkProgram (s.words (c.addr 16 + 64) h.nDesc) (s.words (c.addr 16 + 64 + 16 * h.nDesc) h.nInstr) with
      | none => (s.clampCmd c.seq (alignClamp (c.addr 32) 0x10000)).complete c.seq stBadHandle
      | some k => ((s.clampCmd c.seq (alignClamp (c.addr 32) 0x10000)).clampCmd c.seq (imageClamp h k)).openRegion false c h.need (c.f 24 8)
          (imageInfo h k) (if h.need < c.f 24 8 then stTrunc else stOk) := by
  have hpass' : firstFail (loadChecks false (s.clampCmd c.seq (alignClamp (c.addr 32) 0x10000)) c (c.f 24 8)) = none := hpass
  have hmark' : (s.clampCmd c.seq (alignClamp (c.addr 32) 0x10000)).marked (c.addr 16) 64 = false := hmark
  have hhead' : readHeader ((s.clampCmd c.seq (alignClamp (c.addr 32) 0x10000)).read (c.addr 16) 64) = some h := hhead
  have hclean' : (s.clampCmd c.seq (alignClamp (c.addr 32) 0x10000)).marked (c.addr 16) h.need = false := hclean
  unfold loadProgramAct
  dsimp only
  rw [checked_of_none hpass', if_neg (by simp [hmark']; omega), hhead']
  dsimp only
  rw [if_neg (by simp [hclean']; omega)]
  rfl

theorem loadWeightsAct_stands (hpass : firstFail (loadChecks true s c (max 1 (c.f 24 8))) = none) :
    loadWeightsAct c s = (s.clampCmd c.seq (alignClamp (c.addr 32) 0x10000 ||| (if c.f 24 8 = 0 then cLength else 0))).openRegion true c
      (max 1 (c.f 24 8)) (max 1 (c.f 24 8)) {} stOk := by
  have hpass' : firstFail (loadChecks true (s.clampCmd c.seq (alignClamp (c.addr 32) 0x10000 ||| (if c.f 24 8 = 0 then cLength else 0))) c
      (max 1 (c.f 24 8))) = none := hpass
  unfold loadWeightsAct
  dsimp only
  rw [checked_of_none hpass']

end

-- ## The end of the copy

theorem length_sha384_le (m : List Byte) : (sha384 m).length ≤ 48 := List.length_take_le ..

theorem length_logEntry_le {e : LogEntry} (h : e.value.length ≤ 48) (n : Nat) : (e.bytes n).length ≤ 64 := by
  simp [LogEntry.bytes]
  omega

/-- The event log lies in its part of the reserve. -/
theorem State.logAdd_byte {s : State} {e : LogEntry} (he : e.value.length ≤ 48) {a : Nat} (h : ¬ (logBase ≤ a ∧ a < logBase + 0x400000)) :
    (s.logAdd e).byte a = s.byte a := by
  have hl := length_logEntry_le he s.attest.log.length
  unfold State.logAdd
  dsimp only
  split
  · rfl
  · split
    · exact (State.byte_write ..).trans (if_neg (by omega))
    · rfl

theorem State.logAdd_mrs (s : State) (e : LogEntry) : (s.logAdd e).attest.mrs = s.attest.mrs := by
  unfold State.logAdd
  dsimp only
  split
  · rfl
  · split <;> rfl

theorem State.logAdd_frame (s : State) (e : LogEntry) :
    { s.logAdd e with attest := s.attest, mem := s.mem, poison := s.poison } = s := by
  unfold State.logAdd
  dsimp only
  split
  · rfl
  · split <;> rfl

section
variable {s : State} {mr kind : Nat} {handle : Byte} {value : List Byte} {seq : Option DWord}

theorem State.extend_frame : { s.extend mr kind handle (some value) seq with attest := s.attest, mem := s.mem, poison := s.poison } = s :=
  (congrArg (fun t : State => { t with attest := s.attest }) (State.logAdd_frame _ _) :)

theorem State.extend_byte (hv : value.length ≤ 48) {a : Nat} (h : ¬ (logBase ≤ a ∧ a < logBase + 0x400000)) :
    (s.extend mr kind handle (some value) seq).byte a = s.byte a :=
  State.logAdd_byte hv h

theorem State.mr_extend (h : Nat) : (s.extend mr kind (BitVec.ofNat 8 h) (some value) seq).mr mr = extended (s.mr mr) mr kind 0 h value := by
  rw [State.mr, State.extend]
  dsimp only
  rw [State.logAdd_mrs, Tab.look_put_same]
  rfl

end

theorem satAdd_zero {w : Nat} (x : BitVec w) : satAdd x 0 = x := by
  have := x.isLt
  rw [satAdd, Nat.add_zero, Nat.min_eq_left (by omega), BitVec.ofNat_toNat, BitVec.setWidth_eq]

theorem State.read_congr_byte {s t : State} {a n : Nat} (h : ∀ i, i < n → t.byte (a + i) = s.byte (a + i)) : t.read a n = s.read a n :=
  List.map_congr_left fun i hi => h i (List.mem_range.mp hi)

/-- Two ranges that do not overlap share no byte. -/
theorem not_mem_of_overlaps {a n b m x : Nat} (h : overlaps a n b m = false) (ha : a ≤ x) (hn : x < a + n) : ¬ (b ≤ x ∧ x < b + m) := by
  simp only [overlaps, Bool.and_eq_false_iff, decide_eq_false_iff_not] at h
  omega

/-- The region holds the data and a zero tail, and is closed with its digest. -/
def State.copied (s : State) (weights : Bool) (c : Cmd) (r : Region) (data digest : List Byte) : State :=
  ((s.write r.base data).zero (r.base + data.length) (r.len - data.length)).setRegion weights c.part (c.f 8 1)
    { r with closed := true, digest, status := 0 }
/-- An image that was longer than its need counts as TRUNC. -/
def State.countedTrunc (s : State) (c : Cmd) : State := if c.status = stTrunc then s.countTrunc else s
/-- The copy of a load stands in its region, measured and closed. -/
def State.sealAs (s : State) (weights : Bool) (c : Cmd) (r : Region) (data digest : List Byte) : State :=
  ((s.copied weights c r data digest).countedTrunc c).extend (8 + c.part) (if weights then 0x11 else 0x10) (BitVec.ofNat 8 (c.f 8 1))
    (some digest) (some c.seq)

theorem State.countedTrunc_frame (s : State) (c : Cmd) : { s.countedTrunc c with eng := s.eng } = s := by
  unfold State.countedTrunc
  split <;> rfl

theorem State.countedTrunc_truncs (s : State) (c : Cmd) :
    (s.countedTrunc c).eng.truncs = satAdd s.eng.truncs (if c.status = stTrunc then 1 else 0) := by
  unfold State.countedTrunc
  split
  · rfl
  · exact (satAdd_zero _).symm

/-- The bytes of a load. -/
def Region.loadLength (r : Region) (weights : Bool) : Nat := if weights then r.plen.toNat else 64 + 16 * (r.prog.nDesc + r.prog.nInstr)
/-- The digest of a load. -/
def loadDigest (weights : Bool) (data : List Byte) : List Byte := if weights then weightDigest data else sha384 data

theorem length_loadDigest_le (weights : Bool) (data : List Byte) : (loadDigest weights data).length ≤ 48 := by
  unfold loadDigest weightDigest
  split <;> exact length_sha384_le _

/-- The mover may report the end of the command's copy. -/
structure CopyEnds (s : State) (c : Cmd) (weights : Bool) (r : Region) : Prop where
  cmd : s.cmd? c.seq = some c
  op : c.op = if weights then 3 else 2
  works : c.working = true
  goes : s.edge.stopped = false
  core : s.saltern.halted = false
  clears : ∀ j ∈ s.memSys.clears, j.whole = true ∨ j.seq ≠ c.seq
  region : s.region weights c.part (c.f 8 1) = r
  free : s.copyHeld (c.addr 16) r.base = false

section
variable {s : State} {c : Cmd} {weights : Bool} {r : Region}

theorem CopyEnds.copyDone (h : CopyEnds s c weights r) : copyDone c.seq [] s =
    if s.marked (c.addr 16) (r.loadLength weights) || s.fencedAt (c.addr 16) (r.loadLength weights) then s.loadShort weights c
    else if s.fencedAt r.base r.len then (s.setRegion weights c.part (c.f 8 1) {}).complete c.seq stFenced
    else (s.sealAs weights c r (s.read (c.addr 16) (r.loadLength weights))
      (loadDigest weights (s.read (c.addr 16) (r.loadLength weights)))).complete c.seq c.status := by
  obtain ⟨hcmd, hop, hworks, hgoes, hcore, hclears, rfl, hfree⟩ := h
  have hany : s.memSys.clears.any (fun j => !j.whole && j.seq == c.seq) = false := by
    rw [List.any_eq_false]
    intro j hj
    rcases hclears j hj with hw | hq
    · simp [hw]
    · simp [hq]
  have hw : (c.op == 3) = weights := by rw [hop]; cases weights <;> rfl
  have hop' : (c.op == 2 || c.op == 3) = true := by rw [hop]; cases weights <;> rfl
  unfold Machine.copyDone
  rw [hcmd]
  dsimp only
  rw [if_neg (by simp [hworks, hgoes, hcore, hany, hop']), hw, if_neg (by simp [hfree]), State.detectAll_nil, if_neg (by simp [hgoes]),
    List.any_nil, Bool.or_false]
  unfold State.sealAs State.copied State.countedTrunc
  rw [State.length_read]
  rfl

end

section
variable {s : State} {c : Cmd} {weights : Bool} {r : Region} {data digest : List Byte}

/-- The extend changes the measurements and the event log only. -/
theorem State.sealAs_frame : { s.sealAs weights c r data digest with
      attest := ((s.copied weights c r data digest).countedTrunc c).attest
      mem := ((s.copied weights c r data digest).countedTrunc c).mem
      poison := ((s.copied weights c r data digest).countedTrunc c).poison } = (s.copied weights c r data digest).countedTrunc c :=
  State.extend_frame

/-- Beside the event log, memory is that of the copy. -/
theorem State.sealAs_byte (hd : digest.length ≤ 48) {a : Nat} (ha : ¬ (logBase ≤ a ∧ a < logBase + 0x400000)) :
    (s.sealAs weights c r data digest).byte a = (s.copied weights c r data digest).byte a :=
  (State.extend_byte hd ha).trans
    (congrArg (fun t : State => t.byte a) (State.countedTrunc_frame (s.copied weights c r data digest) c) :)

theorem State.copied_byte (a : Nat) : (s.copied weights c r data digest).byte a =
    if r.base + data.length ≤ a ∧ a < r.base + data.length + (r.len - data.length) then 0 else (s.write r.base data).byte a :=
  State.byte_zero ..

theorem State.sealAs_byte_beside (hd : digest.length ≤ 48) (hl : data.length ≤ r.len) {a : Nat} (hr : ¬ (r.base ≤ a ∧ a < r.base + r.len))
    (ha : ¬ (logBase ≤ a ∧ a < logBase + 0x400000)) : (s.sealAs weights c r data digest).byte a = s.byte a := by
  rw [State.sealAs_byte hd ha, State.copied_byte, if_neg (by omega), State.byte_write, if_neg (by omega)]

theorem State.sealAs_read (hd : digest.length ≤ 48) (hlog : overlaps r.base r.len logBase 0x400000 = false) (hl : data.length ≤ r.len) :
    (s.sealAs weights c r data digest).read r.base data.length = data :=
  (State.read_congr_byte fun i hi => by
    rw [State.sealAs_byte hd (not_mem_of_overlaps hlog (by omega) (by omega)), State.copied_byte, if_neg (by omega)]).trans
      (State.read_write s r.base data)

theorem State.sealAs_tail (hd : digest.length ≤ 48) (hlog : overlaps r.base r.len logBase 0x400000 = false) {a : Nat}
    (ha : r.base + data.length ≤ a) (ha' : a < r.base + r.len) : (s.sealAs weights c r data digest).byte a = 0 := by
  rw [State.sealAs_byte hd (not_mem_of_overlaps hlog (by omega) ha'), State.copied_byte, if_pos (by omega)]

theorem State.region_sealAs :
    (s.sealAs weights c r data digest).region weights c.part (c.f 8 1) = { r with closed := true, digest, status := 0 } := by
  have hextend := congrArg (fun t : State => t.region weights c.part (c.f 8 1))
    (State.sealAs_frame (s := s) (c := c) (weights := weights) (r := r) (data := data) (digest := digest))
  have hcount := congrArg (fun t : State => t.region weights c.part (c.f 8 1))
    (State.countedTrunc_frame (s.copied weights c r data digest) c)
  exact (hextend.trans hcount).trans (State.region_setRegion ..)

theorem State.mr_sealAs : (s.sealAs weights c r data digest).mr (8 + c.part) =
    extended (s.mr (8 + c.part)) (8 + c.part) (if weights then 0x11 else 0x10) 0 (c.f 8 1) digest := by
  have hmr : ((s.copied weights c r data digest).countedTrunc c).mr (8 + c.part) = s.mr (8 + c.part) :=
    (congrArg (fun t : State => t.mr (8 + c.part)) (State.countedTrunc_frame (s.copied weights c r data digest) c) :)
  rw [State.sealAs, State.mr_extend, hmr]

theorem State.sealAs_truncs :
    (s.sealAs weights c r data digest).eng.truncs = satAdd s.eng.truncs (if c.status = stTrunc then 1 else 0) := by
  have hextend := congrArg (fun t : State => t.eng.truncs)
    (State.sealAs_frame (s := s) (c := c) (weights := weights) (r := r) (data := data) (digest := digest))
  exact Eq.trans hextend (State.countedTrunc_truncs (s.copied weights c r data digest) c)

-- ## A load that cannot read its source

theorem State.loadShort_open (hcmd : s.cmd? c.seq = some c) (hr : s.region weights c.part (c.f 8 1) = r) (hu : r.used = true)
    (hc : r.closed = false) (hl : r.loadSeq = c.seq) :
    s.loadShort weights c = s.countShort.startClear c r.base r.len
      ∧ (s.loadShort weights c).cmd? c.seq = some { c with working := true, status := stOk } := by
  subst hr
  have h : s.loadShort weights c = s.countShort.startClear c (s.region weights c.part (c.f 8 1)).base (s.region weights c.part (c.f 8 1)).len :=
    if_pos (by simp [hu, hc, hl])
  refine ⟨h, ?_⟩
  rw [h, State.startClear, State.cmd?_modCmd]
  · exact congrArg (Option.map _) hcmd
  · exact fun _ => rfl

end

-- ## The instructions

section
variable {s : State} {c : Cmd}

/-- A load reads its command's words only. -/
theorem loadProgramAct_begun : loadProgramAct c.begun s = loadProgramAct c s := by
  have hf (a n : Nat) : c.begun.f a n = c.f a n := rfl
  have ha (a : Nat) : c.begun.addr a = c.addr a := rfl
  have hp : c.begun.part = c.part := rfl
  have hq : c.begun.seq = c.seq := rfl
  simp only [loadProgramAct, loadChecks, State.loadShort, State.loadFailed, State.startClear, State.openRegion, checked, hf, ha, hp, hq]

theorem loadWeightsAct_begun : loadWeightsAct c.begun s = loadWeightsAct c s := by
  have hf (a n : Nat) : c.begun.f a n = c.f a n := rfl
  have ha (a : Nat) : c.begun.addr a = c.addr a := rfl
  have hp : c.begun.part = c.part := rfl
  have hq : c.begun.seq = c.seq := rfl
  simp only [loadWeightsAct, loadChecks, State.openRegion, checked, hf, ha, hp, hq]

theorem exec_loadProgram (h : Starts s c 2) : exec (.loadProgram c.seq) s = .next (loadProgramAct c (s.beginCmd c)).settled := by
  rw [← loadProgramAct_begun]
  exact congrArg Host.Outcome.next (startRow_begun h rfl _)

theorem exec_loadWeights (h : Starts s c 3) : exec (.loadWeights c.seq) s = .next (loadWeightsAct c (s.beginCmd c)).settled := by
  rw [← loadWeightsAct_begun]
  exact congrArg Host.Outcome.next (startRow_begun h rfl _)

end

/-- Settles O19: the start opens the region, and the end of the copy seals it or hands it to the clear engine. -/
theorem loadsCopyMeasureAndCloseTheirRegion : Obligations.LoadsCopyMeasureAndCloseTheirRegion := by
  refine ⟨fun s c h hst => ?_, fun s c hst => ?_, fun s c weights hcmd hop hworks hgoes hcore hclears => ?_⟩
  · dsimp only
    intro hpass hlen hmark hhead hneed hclean
    have hexec := exec_loadProgram hst
    rw [loadProgramAct_stands hpass hlen hmark hhead hneed hclean] at hexec
    refine ⟨fun hnone => ?_, fun k hk => ?_⟩
    · rw [hnone] at hexec
      exact hexec
    · rw [hk] at hexec
      dsimp only at hexec
      refine ⟨_, hexec, State.region_openRegion, ?_, State.frame_of_besideLoad ?_, fun a ha => ?_⟩
      · rw [State.cmd?_openRegion, State.cmd?_clampCmd, State.cmd?_clampCmd, State.cmd?_beginCmd hst.1]
        rfl
      · rw [State.openRegion_besideLoad, State.clampCmd_besideLoad, State.clampCmd_besideLoad, State.beginCmd_besideLoad]
      · rw [State.openRegion_byte, State.clampCmd_byte, State.clampCmd_byte, State.beginCmd_byte s c ha]
  · dsimp only
    intro hpass
    have hexec := exec_loadWeights hst
    rw [loadWeightsAct_stands hpass] at hexec
    refine ⟨_, hexec, State.region_openRegion, ?_, State.frame_of_besideLoad ?_, fun a ha => ?_⟩
    · rw [State.cmd?_openRegion, State.cmd?_clampCmd, State.cmd?_beginCmd hst.1]
      rfl
    · rw [State.openRegion_besideLoad, State.clampCmd_besideLoad, State.beginCmd_besideLoad]
    · rw [State.openRegion_byte, State.clampCmd_byte, State.beginCmd_byte s c ha]
  · dsimp only
    intro hfree hl hlog
    have hends : CopyEnds s c weights (s.region weights c.part (c.f 8 1)) := ⟨hcmd, hop, hworks, hgoes, hcore, hclears, rfl, hfree⟩
    have hexec : exec (.sealedCopyDone c.seq []) s = .next (copyDone c.seq [] s) := rfl
    rw [hends.copyDone] at hexec
    refine ⟨fun hclean hopen hdest => ?_, fun hshort hu hc hload => ?_⟩
    · rw [if_neg (by simp [Region.loadLength, hclean, hopen]), if_neg (by simp [hdest])] at hexec
      have hd := length_loadDigest_le weights (s.read (c.addr 16) ((s.region weights c.part (c.f 8 1)).loadLength weights))
      have hn := State.length_read s (c.addr 16) ((s.region weights c.part (c.f 8 1)).loadLength weights)
      have hread := State.sealAs_read (s := s) (weights := weights) (c := c) hd hlog (hn.le.trans hl)
      have htail (a : Nat) := State.sealAs_tail (s := s) (weights := weights) (c := c) (a := a)
        (data := s.read (c.addr 16) ((s.region weights c.part (c.f 8 1)).loadLength weights)) hd hlog
      rw [hn] at hread htail
      exact ⟨_, hexec, hread, htail, State.region_sealAs, State.mr_sealAs, State.sealAs_truncs,
        fun a => State.sealAs_byte_beside hd (hn.le.trans hl)⟩
    · rw [if_pos (by simpa [Region.loadLength] using hshort)] at hexec
      obtain ⟨h, hcmd'⟩ := State.loadShort_open hcmd rfl hu hc hload
      refine ⟨_, hexec, ?_, ?_, hcmd', ?_⟩
      · rw [h]; rfl
      · rw [h]; rfl
      · rw [h]; rfl

end Sys2Proof.Machine

/-! SUPPORT. RUN_PROGRAM: its pan set (R75, R219), the program in the instruction memories (R79), the pans at the first issue (R81), and
what starts with them (R230, R232, R267). -/
namespace Sys2Proof.Machine

-- ## The pan set

theorem choosePans_sublist (usable : List Nat) (mask pans pmin pmax : Nat) : (choosePans usable mask pans pmin pmax).1.Sublist usable := by
  unfold choosePans
  dsimp only
  split
  · exact List.take_sublist ..
  · dsimp only
    split
    · exact List.filter_sublist
    · exact (List.take_sublist ..).trans List.filter_sublist

theorem State.usable_sublist (s : State) (part : Nat) : (s.usable part).Sublist pansAll := by
  refine List.filter_sublist.trans ?_
  unfold State.pool
  split
  · exact List.nil_sublist _
  · exact List.filter_sublist

/-- The pans of a set are pans of the device, each once. -/
theorem choosePans_pans (s : State) (part mask pans pmin pmax : Nat) :
    (choosePans (s.usable part) mask pans pmin pmax).1.Nodup ∧ ∀ p ∈ (choosePans (s.usable part) mask pans pmin pmax).1, p < 64 := by
  have h := (choosePans_sublist (s.usable part) mask pans pmin pmax).trans (s.usable_sublist part)
  exact ⟨h.nodup List.nodup_range, fun p hp => List.mem_range.mp (h.subset hp)⟩

-- ## The program in the instruction memories

section
variable {r : Region} {part h : Nat}

/-- The words of a program that is not streamed. -/
def Region.words (r : Region) : Nat := r.prog.nDesc + r.prog.nInstr

/-- A pan that holds a program that is not streamed; what it has moved is another number. -/
def Pan.holding (v : Pan) (r : Region) (part h : Nat) (x : DWord) : Pan :=
  { v with held := some (part, h, r.loadSeq), streamed := false, nDesc := r.prog.nDesc, nInstr := r.prog.nInstr, blocks := [], profMove := x }

/-- What a pan has moved once it has moved `n` bytes more. -/
def Pan.movedMore (v : Pan) (n : Nat) : DWord := if v.freeze then v.profMove else v.profMove + BitVec.ofNat 64 n

/-- Loading a program that is not streamed copies it, unless the pan holds it, and notes that the pan holds it. -/
theorem State.loadPan_eq (hw : r.words ≤ 8192) (s : State) (p : Nat) : ∃ x,
    s.loadPan p part h r = (if (s.pan p).held = some (part, h, r.loadSeq) then s
      else s.write (imemBase p) (s.read (r.base + 64) (16 * r.words))).setPan p ((s.pan p).holding r part h x) := by
  have hn : ¬ 8192 < r.prog.nDesc + r.prog.nInstr := by unfold Region.words at hw; omega
  by_cases hh : (s.pan p).held = some (part, h, r.loadSeq)
  · refine ⟨(s.pan p).movedMore 0, ?_⟩
    simp only [State.loadPan, hn, hh, decide_false, Bool.not_false, Bool.and_true, beq_self_eq_true, if_true, if_false]
    rfl
  · refine ⟨(s.pan p).movedMore (16 * r.words), ?_⟩
    simp only [State.loadPan, hn, hh, decide_false, Bool.not_false, Bool.and_true, beq_iff_eq, if_false]
    rfl

theorem State.loadPan_own (hw : r.words ≤ 8192) (s : State) (p : Nat) :
    ∃ x, (s.loadPan p part h r).pan p = (s.pan p).holding r part h x := by
  obtain ⟨x, hx⟩ := s.loadPan_eq hw p
  exact ⟨x, by rw [hx]; simp⟩

theorem State.loadPan_other (hw : r.words ≤ 8192) (s : State) (p : Nat) {q : Nat} (hq : q ≠ p) : (s.loadPan p part h r).pan q = s.pan q := by
  obtain ⟨x, hx⟩ := s.loadPan_eq (part := part) (h := h) hw p
  rw [hx, State.setPan_pan, if_neg hq]
  split <;> rfl

/-- A load changes the pan's instruction memory only. -/
theorem State.loadPan_byte (hw : r.words ≤ 8192) (s : State) (p : Nat) {a : Nat} (ha : ¬ (imemBase p ≤ a ∧ a < imemBase p + 0x20000)) :
    (s.loadPan p part h r).byte a = s.byte a := by
  obtain ⟨x, hx⟩ := s.loadPan_eq (part := part) (h := h) hw p
  rw [hx]
  change State.byte (ite _ _ _) a = _
  split
  · rfl
  · rw [State.byte_write, if_neg]
    rw [State.length_read]
    omega

theorem State.loadPan_read (hw : r.words ≤ 8192) (s : State) (p : Nat) (hh : (s.pan p).held ≠ some (part, h, r.loadSeq)) :
    (s.loadPan p part h r).read (imemBase p) (16 * r.words) = s.read (r.base + 64) (16 * r.words) := by
  obtain ⟨x, hx⟩ := s.loadPan_eq (part := part) (h := h) hw p
  have h := s.read_write (imemBase p) (s.read (r.base + 64) (16 * r.words))
  rw [State.length_read] at h
  rw [hx, if_neg hh]
  exact h

/-- The instruction memories lie above the vaults and apart from each other. -/
theorem imem_apart {p q a : Nat} (hpq : p ≠ q) (ha : imemBase p ≤ a ∧ a < imemBase p + 0x20000) :
    ¬ (imemBase q ≤ a ∧ a < imemBase q + 0x20000) := by
  simp only [imemBase, accBase] at ha ⊢
  omega

theorem vaults_below_imem {a : Nat} (ha : a < 8 * vaultSize) (p : Nat) : ¬ (imemBase p ≤ a ∧ a < imemBase p + 0x20000) := by
  simp only [imemBase, accBase, vaultSize] at ha ⊢
  omega

theorem foldl_loadPan_byte (hw : r.words ≤ 8192) {a : Nat} : ∀ (l : List Nat), (∀ p ∈ l, ¬ (imemBase p ≤ a ∧ a < imemBase p + 0x20000)) →
    ∀ s : State, (l.foldl (fun s p => s.loadPan p part h r) s).byte a = s.byte a
  | [], _, _ => rfl
  | p :: l, hl, s => by
    rw [List.foldl_cons, foldl_loadPan_byte hw l (fun q hq => hl q (List.mem_cons_of_mem _ hq)),
      State.loadPan_byte hw s p (hl p List.mem_cons_self)]

/-- Every pan that did not hold the program has its words as the sealed copy holds them. -/
theorem foldl_loadPan_read (hw : r.words ≤ 8192) (hr : r.base + 64 + 16 * r.words ≤ 8 * vaultSize) {l : List Nat} (hnd : l.Nodup)
    {s : State} {p : Nat} (hp : p ∈ l) (hh : (s.pan p).held ≠ some (part, h, r.loadSeq)) :
    (l.foldl (fun s p => s.loadPan p part h r) s).read (imemBase p) (16 * r.words) = s.read (r.base + 64) (16 * r.words) := by
  induction l generalizing s with
  | nil => cases hp
  | cons q l ih =>
    obtain ⟨hq, hl⟩ := List.nodup_cons.mp hnd
    rw [List.foldl_cons]
    by_cases hpq : p = q
    · subst hpq
      rw [← State.loadPan_read hw s p hh]
      refine State.read_congr_byte fun i hi => foldl_loadPan_byte hw l (fun q' hq' => ?_) _
      exact imem_apart (p := p) (fun he => hq (he ▸ hq')) ⟨by omega, by omega⟩
    · have hp' : p ∈ l := (List.mem_cons.mp hp).resolve_left hpq
      rw [ih hl hp' (by rwa [State.loadPan_other hw s q hpq])]
      exact State.read_congr_byte fun i hi => State.loadPan_byte hw s q (vaults_below_imem (by omega) q)

end

-- ## ARGS

theorem getD_slice (l : List Byte) (a n i : Nat) (hi : i < n) : (slice l a n).getD i 0 = l.getD (a + i) 0 := by
  simp only [slice, List.getD_eq_getElem?_getD, List.getElem?_append, List.getElem?_take, List.getElem?_drop, List.getElem?_replicate,
    List.length_take, List.length_drop, if_pos hi]
  split
  · rfl
  · rw [List.getElem?_eq_none (by omega : l.length ≤ a + i)]
    split <;> rfl

/-- The pans' stores lie below their instruction memories. -/
theorem store_apart_imem {p q ofs i : Nat} (hp : p < 64) :
    ¬ (imemBase q ≤ slotAddr p { acc := false, ofs } i ∧ slotAddr p { acc := false, ofs } i < imemBase q + 0x20000) := by
  simp only [imemBase, accBase, slotAddr, storeBase, Bool.false_eq_true, if_false]
  omega

section
variable {ofs : Nat} {args : List Byte}

theorem State.putArgs_byte (hl : args.length ≤ 0x200000) (s : State) (p : Nat) {a : Nat} (h : ¬ InSlot p { acc := false, ofs } args.length a) :
    (s.putArgs p ofs args).byte a = s.byte a :=
  State.byte_slotWrite_out s p { acc := false, ofs } 0 args a hl fun i hi he => h ⟨i, hi, by rwa [Nat.zero_add] at he⟩

theorem foldl_putArgs_byte (hl : args.length ≤ 0x200000) {a : Nat} (l : List Nat)
    (h : ∀ p ∈ l, ¬ InSlot p { acc := false, ofs } args.length a) (s : State) :
    (l.foldl (fun s p => s.putArgs p ofs args) s).byte a = s.byte a :=
  foldl_keeps (fun t : State => t.byte a = s.byte a) _ l
    (fun t p hp ht => (State.putArgs_byte hl t p (h p hp)).trans ht) s rfl

theorem foldl_putArgs_args (hl : args.length ≤ 0x200000) {l : List Nat} (hnd : l.Nodup) {p i : Nat} (hp : p ∈ l) (hi : i < args.length)
    (s : State) : (l.foldl (fun s p => s.putArgs p ofs args) s).byte (slotAddr p { acc := false, ofs } i) = args.getD i 0 := by
  refine foldl_each (P := fun p t => State.byte t (slotAddr p { acc := false, ofs } i) = args.getD i 0) l (fun q _ t => ?_) ?_ hp s
  · have h := State.byte_slotWrite_in t q { acc := false, ofs } 0 args i hl hi
    rwa [Nat.zero_add] at h
  · refine hnd.imp fun hne t ht => (State.putArgs_byte hl t _ ?_).trans ht
    rintro ⟨j, -, hj⟩
    exact slotAddr_store_ne (Ne.symm hne) _ _ _ _ hj

theorem foldl_putArgs_pans (l : List Nat) (s : State) : (l.foldl (fun s p => s.putArgs p ofs args) s).pans = s.pans :=
  foldl_keeps (fun t : State => t.pans = s.pans) (fun s p => s.putArgs p ofs args) l (fun _ _ _ ht => ht) s rfl

end

-- ## The pans at the first issue

theorem State.idleRun_other (s : State) (p : Nat) {q : Nat} (hq : q ≠ p) : (s.idleRun p).pan q = s.pan q := by
  unfold State.idleRun
  split
  · rfl
  · exact (State.setPan_pan ..).trans (if_neg hq)

theorem State.idleRun_own (s : State) (p : Nat) : ∃ x, (s.idleRun p).pan p = { s.pan p with cycles := x } := by
  unfold State.idleRun
  split
  · exact ⟨(s.pan p).cycles, rfl⟩
  · exact ⟨_, (State.setPan_pan ..).trans (if_pos rfl)⟩

theorem foldl_idleRun_frame (l : List Nat) (s : State) : ∃ x y, l.foldl State.idleRun s = { s with pans := x, drawn := y } := by
  refine foldl_keeps (fun t : State => ∃ x y, t = { s with pans := x, drawn := y }) State.idleRun l ?_ s ⟨_, _, rfl⟩
  rintro t p - ⟨x, y, rfl⟩
  unfold State.idleRun
  split
  · exact ⟨_, _, rfl⟩
  · exact ⟨_, _, rfl⟩

/-- What a pan of a set runs. -/
def Cmd.runOf (c : Cmd) (size k : Nat) : PanRun :=
  { seq := c.seq, race := false, slot := 0, part := c.part, rank := k, size, seqBase := c.f 10 2 % 4096 }

/-- The program stands in the instruction memories of the set, and its arguments in the stores. -/
def State.filled (s : State) (c : Cmd) (r : Region) (set : List Nat) : State :=
  let s := set.foldl (fun s p => s.loadPan p c.part (c.f 8 1) r) s
  if bitAt (c.f 12 4) 31 then set.foldl (fun s p => s.putArgs p (fld (c.f 12 4) 4 17 * 16) (slice c.bytes 24 32)) s else s

/-- The pans of a set have begun. -/
def State.panned (s : State) (c : Cmd) (r : Region) (set : List Nat) : State :=
  set.zipIdx.foldl (fun s pr => s.modPan pr.1 fun v => v.begin (c.runOf set.length pr.2)) (set.foldl State.idleRun (s.filled c r set))

section
variable {s : State} {c : Cmd} {r : Region} {set : List Nat}

theorem State.filled_pans : (s.filled c r set).pans = (set.foldl (fun s p => s.loadPan p c.part (c.f 8 1) r) s).pans := by
  unfold State.filled
  dsimp only
  split
  · exact foldl_putArgs_pans ..
  · rfl

theorem State.filled_frame (hw : r.words ≤ 8192) : ∃ m x l, s.filled c r set = { s with mem := m, poison := x, pans := l } := by
  have hload := foldl_keeps (fun t : State => ∃ m x l, t = { s with mem := m, poison := x, pans := l })
    (fun s p => s.loadPan p c.part (c.f 8 1) r) set (fun t p _ ht => by
      obtain ⟨m, x, l, rfl⟩ := ht
      obtain ⟨y, hy⟩ := State.loadPan_eq (part := c.part) (h := c.f 8 1) hw { s with mem := m, poison := x, pans := l } p
      rw [hy]
      split
      · exact ⟨_, _, _, rfl⟩
      · exact ⟨_, _, _, rfl⟩) s ⟨_, _, _, rfl⟩
  unfold State.filled
  dsimp only
  split
  · refine foldl_keeps (fun t : State => ∃ m x l, t = { s with mem := m, poison := x, pans := l })
      (fun s p => s.putArgs p (fld (c.f 12 4) 4 17 * 16) (slice c.bytes 24 32)) set ?_ _ hload
    rintro t p - ⟨m, x, l, rfl⟩
    exact ⟨_, _, _, rfl⟩
  · exact hload

/-- Beside the instruction memories and the arguments, memory stands. -/
theorem State.filled_byte (hw : r.words ≤ 8192) {a : Nat} (ha : ∀ p ∈ set, ¬ (imemBase p ≤ a ∧ a < imemBase p + 0x20000)
    ∧ ¬ InSlot p { acc := false, ofs := fld (c.f 12 4) 4 17 * 16 } 32 a) : (s.filled c r set).byte a = s.byte a := by
  have hload := foldl_loadPan_byte (part := c.part) (h := c.f 8 1) hw set (fun p hp => (ha p hp).1) s
  unfold State.filled
  dsimp only
  split
  · refine (foldl_putArgs_byte (by simp) set (fun p hp => ?_) _).trans hload
    rw [length_slice]
    exact (ha p hp).2
  · exact hload

theorem State.filled_read (hw : r.words ≤ 8192) (hr : r.base + 64 + 16 * r.words ≤ 8 * vaultSize) (hnd : set.Nodup)
    (hdev : ∀ p ∈ set, p < 64) {p : Nat} (hp : p ∈ set) (hh : (s.pan p).held ≠ some (c.part, c.f 8 1, r.loadSeq)) :
    (s.filled c r set).read (imemBase p) (16 * r.words) = s.read (r.base + 64) (16 * r.words) := by
  rw [← foldl_loadPan_read hw hr hnd hp hh]
  refine State.read_congr_byte fun i hi => ?_
  unfold State.filled
  dsimp only
  split
  · refine foldl_putArgs_byte (by simp) set (fun q hq => ?_) _
    rintro ⟨j, -, hj⟩
    refine store_apart_imem (q := p) (ofs := fld (c.f 12 4) 4 17 * 16) (i := j) (hdev q hq) ?_
    rw [hj]
    exact ⟨by omega, by omega⟩
  · rfl

theorem State.filled_args (hnd : set.Nodup) (hargs : bitAt (c.f 12 4) 31 = true) {p i : Nat} (hp : p ∈ set) (hi : i < 32) :
    (s.filled c r set).byte (slotAddr p { acc := false, ofs := fld (c.f 12 4) 4 17 * 16 } i) = c.bytes.getD (24 + i) 0 := by
  unfold State.filled
  dsimp only
  rw [if_pos hargs, foldl_putArgs_args (by simp) hnd hp (by simpa using hi), getD_slice _ _ _ _ hi]

theorem State.panned_frame : ∃ l y, s.panned c r set = { s.filled c r set with pans := l, drawn := y } := by
  refine foldl_keeps (fun t : State => ∃ l y, t = { s.filled c r set with pans := l, drawn := y })
    (fun s pr => s.modPan pr.1 fun v => v.begin (c.runOf set.length pr.2)) set.zipIdx ?_ _ (foldl_idleRun_frame set (s.filled c r set))
  rintro t pr - ⟨l, y, rfl⟩
  exact ⟨_, _, rfl⟩

/-- Each pan of the set holds the program and begins; what it has moved and how long it has idled are other numbers. -/
theorem State.panned_pan (hw : r.words ≤ 8192) (hnd : set.Nodup) :
    (∀ pr ∈ set.zipIdx, ∃ x y, (s.panned c r set).pan pr.1 =
      ({ (s.pan pr.1).holding r c.part (c.f 8 1) x with cycles := y } : Pan).begin (c.runOf set.length pr.2))
    ∧ ∀ p, p ∉ set → (s.panned c r set).pan p = s.pan p := by
  have hfilled (p : Nat) : (s.filled c r set).pan p = (set.foldl (fun s p => s.loadPan p c.part (c.f 8 1) r) s).pan p :=
    congrArg (·.look {} p) State.filled_pans
  obtain ⟨hload, hload'⟩ := foldl_ownPan (f := fun s p => s.loadPan p c.part (c.f 8 1) r)
    (R := fun v w => ∃ x, w = v.holding r c.part (c.f 8 1) x) (fun t _ _ hj => State.loadPan_other hw t _ hj) (State.loadPan_own hw) hnd s
  obtain ⟨hidle, hidle'⟩ := foldl_ownPan (f := State.idleRun) (R := fun v w => ∃ y, w = { v with cycles := y })
    (fun t _ _ hj => State.idleRun_other t _ hj) State.idleRun_own hnd (s.filled c r set)
  have hkeys : set.zipIdx.map Prod.fst = set := List.zipIdx_map_fst ..
  obtain ⟨hbegin, hbegin'⟩ := foldl_pans (key := Prod.fst) (f := fun s pr => s.modPan pr.1 fun v => v.begin (c.runOf set.length pr.2))
    (R := fun pr v w => w = v.begin (c.runOf set.length pr.2)) (fun t pr j hj => (State.setPan_pan ..).trans (if_neg hj))
    (fun t pr => (State.setPan_pan ..).trans (if_pos rfl)) set.zipIdx (by rwa [hkeys]) (set.foldl State.idleRun (s.filled c r set))
  rw [hkeys] at hbegin'
  refine ⟨fun pr hpr => ?_, fun p hp => ?_⟩
  · have hp : pr.1 ∈ set := hkeys ▸ List.mem_map_of_mem hpr
    obtain ⟨x, hx⟩ := hload _ hp
    obtain ⟨y, hy⟩ := hidle _ hp
    exact ⟨x, y, (hbegin pr hpr).trans (by rw [hy, hfilled, hx])⟩
  · exact (hbegin' p hp).trans ((hidle' p hp).trans ((hfilled p).trans (hload' p hp)))

end

end Sys2Proof.Machine

/-! SUPPORT. What starts with the pans of a RUN_PROGRAM: the groups' points, the tally entry, the command's record and its lock (R230, R232,
R267, R284). -/
namespace Sys2Proof.Machine

-- ## Groups that follow their targets

/-- `u` is `s` but for the groups' points, the race slots, and locks of commands that may have ended. -/
def GroupsMove (s u : State) : Prop :=
  u.besideGroups = s.besideGroups ∧ ∀ seq c, s.cmd? seq = some c → ∃ l k, u.cmd? seq = some { c with locked := l, cause := k }

theorem GroupsMove.trans {s t u : State} (h : GroupsMove s t) (h' : GroupsMove t u) : GroupsMove s u := by
  obtain ⟨hst, hc⟩ := h
  obtain ⟨htu, hc'⟩ := h'
  refine ⟨htu.trans hst, fun seq c hs => ?_⟩
  obtain ⟨l, k, hl⟩ := hc seq c hs
  obtain ⟨l', k', hl'⟩ := hc' seq _ hl
  exact ⟨l', k', hl'⟩

theorem LocksEnd.groupsMove {s u : State} (h : LocksEnd s u) : GroupsMove s u := by
  obtain ⟨⟨cs, x, rfl⟩, hc⟩ := h
  exact ⟨rfl, hc⟩

theorem State.modGroup_groupsMove (s : State) (g : Nat) (f : Group → Group) : GroupsMove s (s.modGroup g f) :=
  ⟨rfl, fun _ c h => ⟨c.locked, c.cause, h⟩⟩

theorem State.retarget_groupsMove (s : State) (g : Nat) (stay : Bool) : GroupsMove s (s.retarget g stay) := by
  unfold State.retarget
  dsimp only
  split
  · exact (LocksEnd.refl s).groupsMove
  · split
    · exact (State.modGroup_groupsMove ..).trans (State.lockWhere_locksEnd ..).groupsMove
    · split
      · exact State.modGroup_groupsMove ..
      · split
        · exact (LocksEnd.refl s).groupsMove
        · exact State.modGroup_groupsMove ..

theorem State.retargetAll_groupsMove (s : State) : GroupsMove s s.retargetAll :=
  foldl_keeps (GroupsMove s) (fun s g => s.retarget g true) (List.range 8) (fun t g _ h => h.trans (t.retarget_groupsMove g true)) s
    (LocksEnd.refl s).groupsMove

theorem State.freshRefresh_groupsMove (s : State) (set : List Nat) : GroupsMove s (s.freshRefresh set) :=
  ⟨rfl, fun _ c h => ⟨c.locked, c.cause, h⟩⟩

section
variable {s u : State}
theorem GroupsMove.mem (h : GroupsMove s u) : u.mem = s.mem := (congrArg State.mem h.1 :)
theorem GroupsMove.pans (h : GroupsMove s u) : u.pans = s.pans := (congrArg State.pans h.1 :)
theorem GroupsMove.parts (h : GroupsMove s u) : u.parts = s.parts := (congrArg State.parts h.1 :)
theorem GroupsMove.tally (h : GroupsMove s u) : u.tally = s.tally := (congrArg State.tally h.1 :)
end

-- ## The command's record

/-- The groups follow their targets; a lock that begins lets the refreshes owed take place. -/
def State.followed (s : State) (set : List Nat) (locked : Bool) : State := (if locked then s.freshRefresh set else s).retargetAll
/-- The tally entry takes the pan set. -/
def State.noteSet (s : State) (c : Cmd) (set : List Nat) : State :=
  s.tallyMod c.seq fun e => { e with pans := BitVec.ofNat 8 set.length, panFirst := BitVec.ofNat 8 (set.headD 0) }
/-- The groups follow, and the tally entry and the command's record take the pan set. -/
def State.launched (s : State) (c : Cmd) (set : List Nat) (locked : Bool) : State :=
  let s := (s.followed set locked).noteSet c set
  s.modCmd c.seq fun d => { d with pans := set, ended := [], arrived := [], stepBase := (s.part c.part).stepCount, locked, wasLocked := locked }

section
variable {s : State} {c : Cmd} {set : List Nat} {locked : Bool}

theorem State.followed_moves : GroupsMove s (s.followed set locked) := by
  unfold State.followed
  cases locked
  · exact s.retargetAll_groupsMove
  · exact (s.freshRefresh_groupsMove set).trans (State.retargetAll_groupsMove _)

theorem State.noteSet_byte {a : Nat} (ha : ¬ InSpill s a) : (s.noteSet c set).byte a = s.byte a := State.tallyMod_byte s _ _ a ha

theorem State.launched_pan (p : Nat) : (s.launched c set locked).pan p = s.pan p := by
  have h := State.followed_moves (s := s) (set := set) (locked := locked)
  rw [State.launched, State.modCmd_pan, State.noteSet, State.tallyMod_pan, State.pan, h.pans]
  rfl

theorem State.launched_byte {a : Nat} (ha : ¬ InSpill s a) : (s.launched c set locked).byte a = s.byte a := by
  have h := State.followed_moves (s := s) (set := set) (locked := locked)
  rw [State.launched, State.byte, State.modCmd_mem]
  refine (State.noteSet_byte (by rw [InSpill, h.tally]; exact ha)).trans ?_
  rw [State.byte, h.mem]
  rfl

theorem State.cmd?_launched {d : Cmd} (hd : s.cmd? c.seq = some d) : ∃ d', (s.launched c set locked).cmd? c.seq = some d' ∧ d'.pans = set
    ∧ d'.stepBase = (s.part c.part).stepCount ∧ d'.started = d.started := by
  have h := State.followed_moves (s := s) (set := set) (locked := locked)
  obtain ⟨l, k, hl⟩ := h.2 c.seq d hd
  have hnote : ((s.followed set locked).noteSet c set).cmd? c.seq = some { d with locked := l, cause := k } := hl
  have hpart : ((s.followed set locked).noteSet c set).part c.part = s.part c.part := congrArg (·.look {} c.part) h.parts
  rw [State.launched, State.cmd?_modCmd, hnote, hpart]
  · exact ⟨_, rfl, rfl, rfl, rfl⟩
  · exact fun _ => rfl

end

theorem State.lockStart_locksEnd (s : State) (c : Cmd) (set fetched : List Nat) (a n : Nat) : LocksEnd s (s.lockStart c set fetched a n) := by
  have hstretch : LocksEnd s (if set.any fun p => (s.group (p / 8)).stretching then s.lockCause c.seq 3 else s) := by
    split
    · exact State.lockCause_locksEnd ..
    · exact .refl s
  unfold State.lockStart
  dsimp only
  split
  · exact hstretch.trans (State.lockCause_locksEnd ..)
  · exact hstretch

/-- A lock that begins may end at once. -/
theorem State.launched_lockStart (s : State) (c : Cmd) (set fetched : List Nat) (locked : Bool) (a n : Nat) :
    LocksEnd (s.launched c set locked)
      (if locked then (s.launched c set locked).lockStart c set fetched a n else s.launched c set locked) := by
  split
  · exact State.lockStart_locksEnd ..
  · exact .refl _

-- ## The command

/-- The pan set that a RUN_PROGRAM chooses. -/
def State.setOf (s : State) (c : Cmd) (r : Region) : List Nat :=
  (choosePans (s.usable c.part) (c.f 16 8) (c.f 9 1) r.prog.pansMin r.prog.pansMax).1

/-- The checks of a RUN_PROGRAM pass. -/
structure MayRun (s : State) (c : Cmd) (r : Region) : Prop where
  region : s.region false c.part (c.f 8 1) = r
  loaded : r.loaded = true
  own : ∀ i ∈ maskList (c.f 16 8) 64, i ∈ s.pool c.part ∧ (s.pan i).bunded = false
  usable : s.usable c.part ≠ []
  open' : s.fencedAt r.base r.len = false
  enough : r.prog.pansMin ≤ (s.setOf c r).length
  clean : s.marked (r.base + 64) (16 * r.words) = false
  whole : r.words ≤ 8192

/-- What the checked command does, from the state in which its clamps are noted. -/
theorem MayRun.runs {s : State} {c : Cmd} {r : Region} (h : MayRun s c r) : ∃ m m' locked,
    LocksEnd ((((s.clampCmd c.seq m).clampCmd c.seq m').panned c r (s.setOf c r)).launched c (s.setOf c r) locked) (runProgramAct c s) := by
  obtain ⟨rfl, hloaded, hown, husable, hopen, henough, hclean, hwhole⟩ := h
  have hforeign : (maskList (c.f 16 8) 64).any (fun i => !(s.pool c.part).contains i) = false := by
    rw [List.any_eq_false]
    intro i hi
    simp [(hown i hi).1]
  have hbund : (maskList (c.f 16 8) 64).any (fun i => (s.pan i).bunded) = false := by
    rw [List.any_eq_false]
    intro i hi
    simp [(hown i hi).2]
  have hsize : ¬ 8192 < (s.region false c.part (c.f 8 1)).prog.nDesc + (s.region false c.part (c.f 8 1)).prog.nInstr := by
    unfold Region.words at hwhole
    omega
  unfold runProgramAct
  unfold State.setOf at henough ⊢
  dsimp only
  generalize choosePans (s.usable c.part) (c.f 16 8) (c.f 9 1) (s.region false c.part (c.f 8 1)).prog.pansMin
    (s.region false c.part (c.f 8 1)).prog.pansMax = chosen at henough ⊢
  obtain ⟨set, clamped⟩ := chosen
  dsimp only at henough ⊢
  generalize (if c.f 12 4 % 16 = 0 then (0 : BitVec 16) else cAlign) = m
  rw [checked_passes]
  · exact ⟨m, _, _, State.launched_lockStart (((s.clampCmd c.seq m).clampCmd c.seq _).panned c (s.region false c.part (c.f 8 1)) set)
      c set _ _ _ _⟩
  · have hloaded' : ((s.region false c.part (c.f 8 1)).used && (s.region false c.part (c.f 8 1)).closed) = true := hloaded
    have hclean' (m' : BitVec 16) : ((s.clampCmd c.seq m).clampCmd c.seq m').marked ((s.region false c.part (c.f 8 1)).base + 64)
        (16 * ((s.region false c.part (c.f 8 1)).prog.nDesc + (s.region false c.part (c.f 8 1)).prog.nInstr)) = false := hclean
    simp only [List.forall_mem_cons, hloaded', hforeign, hbund, hopen, hsize, if_false, hclean', Bool.not_true, Bool.or_self, Bool.false_or,
      Bool.false_and, decide_eq_false_iff_not, not_lt, henough, List.isEmpty_eq_false_iff, husable, true_and, ne_eq, not_false_eq_true]
    exact fun _ h => absurd h List.not_mem_nil

end Sys2Proof.Machine

/-! SUPPORT. RUN_PROGRAM as a whole (R75, R79, R81, R219, R230, R232, R259). -/
namespace Sys2Proof.Machine

/-- The spill ring lies below the pans' memories. -/
theorem InSpill.lt {s : State} {a : Nat} (h : InSpill s a) : a < 0x3000000000 := by
  have hd : s.tally.depth ≤ 2 ^ 26 := by
    unfold Tally.depth
    split
    · exact Nat.zero_le _
    · exact Nat.pow_le_pow_right (by omega) (by omega)
  obtain ⟨-, h⟩ := h
  simp only [reserveBase] at h
  omega

theorem not_inSpill_imem (s : State) (p : Nat) {a : Nat} (ha : imemBase p ≤ a) : ¬ InSpill s a := fun h => by
  have := h.lt
  simp only [imemBase, accBase] at ha
  omega

theorem not_inSpill_store (s : State) (p : Nat) (ofs i : Nat) : ¬ InSpill s (slotAddr p { acc := false, ofs } i) := fun h => by
  have := h.lt
  simp only [slotAddr, storeBase, Bool.false_eq_true, if_false] at this
  omega

/-- The pans of a set run the command. -/
def State.running (s : State) (c : Cmd) (r : Region) (set : List Nat) (locked : Bool) : State := (s.panned c r set).launched c set locked

section
variable {s : State} {c : Cmd} {r : Region} {set : List Nat} {locked : Bool}

theorem State.panned_beside (hw : r.words ≤ 8192) : ∃ m x l y, s.panned c r set = { s with mem := m, poison := x, pans := l, drawn := y } := by
  obtain ⟨l, y, h⟩ := State.panned_frame (s := s) (c := c) (r := r) (set := set)
  obtain ⟨m, x, l', h'⟩ := State.filled_frame (s := s) (c := c) (set := set) hw
  exact ⟨m, x, l, y, by rw [h, h']⟩

theorem State.running_byte (hw : r.words ≤ 8192) {a : Nat} (ha : ¬ InSpill s a) :
    (s.running c r set locked).byte a = (s.filled c r set).byte a := by
  have hspill : ¬ InSpill (s.panned c r set) a := by
    obtain ⟨m, x, l, y, h⟩ := State.panned_beside (s := s) (c := c) (set := set) hw
    rwa [h]
  obtain ⟨l, y, h⟩ := State.panned_frame (s := s) (c := c) (r := r) (set := set)
  rw [State.running, State.launched_byte hspill, h]
  rfl

theorem State.running_read (hw : r.words ≤ 8192) (hr : r.base + 64 + 16 * r.words ≤ 8 * vaultSize) (hnd : set.Nodup)
    (hdev : ∀ p ∈ set, p < 64) {p : Nat} (hp : p ∈ set) (hh : (s.pan p).held ≠ some (c.part, c.f 8 1, r.loadSeq)) :
    (s.running c r set locked).read (imemBase p) (16 * r.words) = s.read (r.base + 64) (16 * r.words) := by
  rw [← State.filled_read hw hr hnd hdev hp hh]
  exact State.read_congr_byte fun i _ => State.running_byte hw (not_inSpill_imem s p (by omega))

theorem State.cmd?_running (hw : r.words ≤ 8192) {d : Cmd} (hd : s.cmd? c.seq = some d) : ∃ d', (s.running c r set locked).cmd? c.seq = some d'
    ∧ d'.pans = set ∧ d'.stepBase = (s.part c.part).stepCount ∧ d'.started = d.started := by
  obtain ⟨m, x, l, y, h⟩ := State.panned_beside (s := s) (c := c) (set := set) hw
  rw [State.running, h]
  exact State.cmd?_launched hd

end

section
variable {s : State} {c : Cmd}

/-- A RUN_PROGRAM reads its command's words only. -/
theorem runProgramAct_begun : runProgramAct c.begun s = runProgramAct c s := by
  have hf (a n : Nat) : c.begun.f a n = c.f a n := rfl
  have hp : c.begun.part = c.part := rfl
  have hq : c.begun.seq = c.seq := rfl
  have hb : c.begun.bytes = c.bytes := rfl
  simp only [runProgramAct, checked, State.lockStart, hf, hp, hq, hb]

theorem exec_runProgram (h : Starts s c 1) (hw : s.runWaits c = false) :
    exec (.runProgram c.seq) s = .next (runProgramAct c (s.beginCmd c)).settled := by
  rw [← runProgramAct_begun, ← startRow_begun (sel := fun _ => true) h rfl]
  change Host.Outcome.next (match s.cmd? c.seq with | some c => _ | none => _) = _
  rw [h.1]
  exact congrArg Host.Outcome.next (if_neg (by simp [hw]))

theorem exec_runProgram_waits (h : s.cmd? c.seq = some c) (hw : s.runWaits c = true) : exec (.runProgram c.seq) s = .next s := by
  change Host.Outcome.next (match s.cmd? c.seq with | some c => _ | none => _) = _
  rw [h]
  exact congrArg Host.Outcome.next (if_pos hw)

end

/-- `t` is the state in which a command of `s` has started, and its clamps are noted. -/
structure Noted (s : State) (c : Cmd) (t : State) : Prop where
  pan : ∀ p, t.pan p = s.pan p
  part : ∀ p, t.part p = s.part p
  tally : t.tally.depth = s.tally.depth
  read : ∀ a n, t.read a n = (s.beginCmd c).read a n
  byte : ∀ a, ¬ InSpill s a → t.byte a = s.byte a
  cmd : ∃ d, t.cmd? c.seq = some d ∧ d.started = true

theorem State.noted_clampCmd {s : State} {c : Cmd} (h : s.cmd? c.seq = some c) (m m' : BitVec 16) :
    Noted s c (((s.beginCmd c).clampCmd c.seq m).clampCmd c.seq m') where
  pan _ := rfl
  part _ := rfl
  tally := rfl
  read _ _ := rfl
  byte a ha := by rw [State.clampCmd_byte, State.clampCmd_byte, State.beginCmd_byte s c ha]
  cmd := by
    rw [State.cmd?_clampCmd, State.cmd?_clampCmd, State.cmd?_beginCmd h]
    exact ⟨_, rfl, rfl⟩

section
variable {s t u : State} {c : Cmd} {r : Region} {set : List Nat} {locked : Bool}

/-- The pans of the set run the command, and the others stand. -/
theorem Noted.runs_pan (hn : Noted s c t) (hu : LocksEnd (t.running c r set locked) u) (hw : r.words ≤ 8192) (hnd : set.Nodup) :
    (∀ p k, (p, k) ∈ set.zipIdx → ∃ x y, u.pan p =
      ({ (s.pan p).holding r c.part (c.f 8 1) x with cycles := y } : Pan).begin (c.runOf set.length k))
    ∧ ∀ p, p ∉ set → u.pan p = s.pan p := by
  obtain ⟨hin, hout⟩ := State.panned_pan (s := t) (c := c) hw hnd
  have hlaunched (p : Nat) : u.pan p = (t.panned c r set).pan p := (hu.pan p).trans (State.launched_pan p)
  refine ⟨fun p k hp => ?_, fun p hp => ?_⟩
  · obtain ⟨x, y, h⟩ := hin (p, k) hp
    exact ⟨x, y, by rw [hlaunched, h, hn.pan]⟩
  · rw [hlaunched, hout p hp, hn.pan]

theorem Noted.runs_byte (hn : Noted s c t) (hu : LocksEnd (t.running c r set locked) u) (hw : r.words ≤ 8192) {a : Nat} (ha : ¬ InSpill s a) :
    u.byte a = (t.filled c r set).byte a :=
  (hu.byte a).trans (State.running_byte hw (by rw [InSpill, hn.tally]; exact ha))

theorem Noted.runs_read (hn : Noted s c t) (hu : LocksEnd (t.running c r set locked) u) (hw : r.words ≤ 8192) (hnd : set.Nodup)
    (hdev : ∀ p ∈ set, p < 64) (hin : r.base + 64 + 16 * r.words ≤ 8 * vaultSize) {p : Nat} (hp : p ∈ set)
    (hh : (s.pan p).held ≠ some (c.part, c.f 8 1, r.loadSeq)) :
    u.read (imemBase p) (16 * r.words) = (s.beginCmd c).read (r.base + 64) (16 * r.words) := by
  rw [hu.read, State.running_read hw hin hnd hdev hp (by rwa [hn.pan]), hn.read]

theorem Noted.runs_cmd (hn : Noted s c t) (hu : LocksEnd (t.running c r set locked) u) (hw : r.words ≤ 8192) :
    ∃ d, u.cmd? c.seq = some d ∧ d.pans = set ∧ d.stepBase = (s.part c.part).stepCount ∧ d.started = true := by
  obtain ⟨d, hd, hstarted⟩ := hn.cmd
  obtain ⟨d', hd', hpans, hbase, hs⟩ := State.cmd?_running (set := set) (locked := locked) hw hd
  obtain ⟨l, k, hl⟩ := hu.2 c.seq d' hd'
  exact ⟨_, hl, hpans, hbase.trans (congrArg Part.stepCount (hn.part c.part)), hs.trans hstarted⟩

end

/-- Settles O25: the checks pass, and each of the folds over the set changes its own pans and memories. -/
theorem runProgramStartsItsPans : Obligations.RunProgramStartsItsPans := by
  intro s c
  dsimp only
  refine ⟨exec_runProgram_waits, fun hst hwaits hloaded hown husable hopen henough hclean hw hin => ?_⟩
  have hmay : MayRun (s.beginCmd c) c (s.region false c.part (c.f 8 1)) := ⟨rfl, hloaded, hown, husable, hopen, henough, hclean, hw⟩
  obtain ⟨m, m', locked, hlocks⟩ := hmay.runs
  obtain ⟨hnd, hdev⟩ := choosePans_pans s c.part (c.f 16 8) (c.f 9 1) (s.region false c.part (c.f 8 1)).prog.pansMin
    (s.region false c.part (c.f 8 1)).prog.pansMax
  have hset : (s.beginCmd c).setOf c (s.region false c.part (c.f 8 1)) = (choosePans (s.usable c.part) (c.f 16 8) (c.f 9 1)
    (s.region false c.part (c.f 8 1)).prog.pansMin (s.region false c.part (c.f 8 1)).prog.pansMax).1 := rfl
  rw [hset] at hlocks
  have hnoted := State.noted_clampCmd hst.1 m m'
  refine ⟨_, exec_runProgram hst hwaits, ?_⟩
  clear hset hmay henough hown husable hopen hclean hst hwaits hloaded
  generalize (choosePans (s.usable c.part) (c.f 16 8) (c.f 9 1) (s.region false c.part (c.f 8 1)).prog.pansMin
    (s.region false c.part (c.f 8 1)).prog.pansMax).1 = set at *
  generalize s.region false c.part (c.f 8 1) = r at *
  generalize runProgramAct c (s.beginCmd c) = u at *
  generalize ((s.beginCmd c).clampCmd c.seq m).clampCmd c.seq m' = t at hlocks hnoted
  obtain ⟨hpans, hothers⟩ := hnoted.runs_pan hlocks hw hnd
  refine ⟨fun p k hp => ?_, hothers, fun a hspill ha => ?_, hnoted.runs_cmd hlocks hw⟩
  · have hmem : p ∈ set := List.fst_mem_of_mem_zipIdx hp
    obtain ⟨x, y, hx⟩ := hpans p k hp
    rw [hx]
    refine ⟨rfl, rfl, rfl, rfl, rfl, rfl, rfl, rfl, rfl, rfl, rfl, hnoted.runs_read hlocks hw hnd hdev hin hmem, fun hargs i hi => ?_⟩
    rw [hnoted.runs_byte hlocks hw (not_inSpill_store s p _ i), State.filled_args hnd hargs hmem hi]
  · rw [hnoted.runs_byte hlocks hw hspill, State.filled_byte hw ha, hnoted.byte a hspill]

end Sys2Proof.Machine

/-! SUPPORT. The canonical form of memory (R112): how it passes through choices, pairs and folds, and what keeps it in the shared operations
and in the instructions that compute and move. An operation that leaves memory alone says so as an equation of `mem`. -/
namespace Sys2Proof.Machine

theorem Memory.wf_of_mem {s t : State} (e : t.mem = s.mem) (hw : Memory.wf s.mem) : Memory.wf t.mem := e ▸ hw
/-- What a function that returns a pair says of the state in it, of the state a pattern names. -/
theorem Memory.wf_of_pair {α : Type} {r : α × State} {a : α} {t : State} (hr : r = (a, t)) (hw : Memory.wf r.2.mem) : Memory.wf t.mem := by
  rw [hr] at hw; exact hw
theorem Memory.wf_ite {c : Prop} [Decidable c] {s t : State} (hs : Memory.wf s.mem) (ht : Memory.wf t.mem) :
    Memory.wf (if c then s else t).mem := by split <;> assumption
theorem State.ite_mem {c : Prop} [Decidable c] {s t : State} {m : Tab Byte} (hs : s.mem = m) (ht : t.mem = m) :
    (if c then s else t).mem = m := by split <;> assumption
theorem Memory.wf_foldl {α : Type} {f : State → α → State} (l : List α) (s : State) (hf : ∀ u a, Memory.wf u.mem → Memory.wf (f u a).mem)
    (hw : Memory.wf s.mem) : Memory.wf (l.foldl f s).mem :=
  foldl_keeps (fun u : State => Memory.wf u.mem) f l (fun u a _ => hf u a) s hw
theorem State.foldl_mem {α : Type} {f : State → α → State} (l : List α) (s : State) (hf : ∀ u a, (f u a).mem = u.mem) :
    (l.foldl f s).mem = s.mem :=
  foldl_keeps (fun u : State => u.mem = s.mem) f l (fun u a _ hu => (hf u a).trans hu) s rfl
theorem Memory.wf_ite_snd {α : Type} {c : Prop} [Decidable c] {p q : α × State} (hp : Memory.wf p.2.mem) (hq : Memory.wf q.2.mem) :
    Memory.wf (if c then p else q).2.mem := by split <;> assumption
theorem Memory.wf_ite_done {c : Prop} [Decidable c] {p q : Done} (hp : Memory.wf p.s.mem) (hq : Memory.wf q.s.mem) :
    Memory.wf (if c then p else q).s.mem := by split <;> assumption
@[simp] theorem State.modPart_mem (s : State) (p : Nat) (f : Machine.Part → Machine.Part) : (s.modPart p f).mem = s.mem := rfl
@[simp] theorem State.modPan_mem (s : State) (p : Nat) (f : Pan → Pan) : (s.modPan p f).mem = s.mem := State.setPan_mem _ _ _
@[simp] theorem State.modSlot_mem (s : State) (i : Nat) (f : Slot → Slot) : (s.modSlot i f).mem = s.mem := State.setSlot_mem _ _ _
@[simp] theorem State.modCtx_mem (s : State) (q : Nat) (f : Ctx → Ctx) : (s.modCtx q f).mem = s.mem := State.setCtx_mem _ _ _
@[simp] theorem State.clampCmd_mem (s : State) (seq : DWord) (m : BitVec 16) : (s.clampCmd seq m).mem = s.mem := State.modCmd_mem _ _ _
@[simp] theorem State.freeBytes_mem (s : State) (n : Nat) : (s.freeBytes n).2.mem = s.mem := rfl
@[simp] theorem State.forget_mem (s : State) (a n : Nat) : (s.forget a n).mem = s.mem := rfl
theorem Memory.wf_writeKnown {s : State} (a : Nat) (bs : List Byte) (hw : Memory.wf s.mem) : Memory.wf (s.writeKnown a bs).mem := by
  unfold State.writeKnown
  dsimp only
  rw [State.forget_mem]
  exact Memory.wf_write _ _ hw
@[simp] theorem State.looseBytes_mem (s : State) (a n : Nat) : (s.looseBytes a n).2.mem = s.mem := rfl
@[simp] theorem State.panBytes_mem (s : State) (a n : Nat) : (s.panBytes a n).2.mem = s.mem := by
  fun_cases State.panBytes s a n <;> rfl
theorem Memory.wf_putPage {s : State} (p i : Nat) (hw : Memory.wf s.mem) : Memory.wf (s.putPage p i).mem :=
  Memory.wf_of_mem (State.modPart_mem _ _ _) (Memory.wf_engineWrite _ _ hw)
theorem Memory.wf_fillPool {s : State} (p n : Nat) (hw : Memory.wf s.mem) : Memory.wf (s.fillPool p n).mem :=
  Memory.wf_of_mem (State.modPart_mem _ _ _) (Memory.wf_ite hw (Memory.wf_write _ _ hw))
theorem Memory.wf_tallyAdd {s : State} (e : TEntry) (hw : Memory.wf s.mem) : Memory.wf (s.tallyAdd e).mem :=
  Memory.wf_ite hw (Memory.wf_tallyPut _ hw)
@[simp] theorem State.fatal_mem (s : State) (cause src unit : Nat) : (s.fatal cause src unit).mem = s.mem := State.record_mem _ _ _ _ _ _
@[simp] theorem State.freshRefresh_mem (s : State) (pans : List Nat) : (s.freshRefresh pans).mem = s.mem := rfl
@[simp] theorem State.lockPan_mem (s : State) (p : Nat) (cause : BitVec 4) : (s.lockPan p cause).mem = s.mem := State.lockWhere_mem _ _ _
@[simp] theorem State.racePath_mem (s : State) (y1 y2 : Nat) : (s.racePath y1 y2).mem = s.mem := State.lockWhere_mem _ _ _
theorem Memory.wf_finishCommits {s : State} (hw : Memory.wf s.mem) : Memory.wf s.finishCommits.mem := by
  unfold State.finishCommits
  refine foldl_keeps (fun u : State => Memory.wf u.mem) _ _ (fun u a _ hu => ?_) _ ?_
  · split
    · dsimp only
      split
      · refine Memory.wf_complete _ _ ?_
        dsimp only
        exact hu
      · dsimp only
        exact hu
    · exact hu
  · exact hw
theorem Memory.wf_stopCmd {s : State} (seq : DWord) (status : Byte) (hw : Memory.wf s.mem) : Memory.wf (s.stopCmd seq status).mem :=
  Memory.wf_complete _ _ hw
@[simp] theorem State.raceCut_mem (s : State) (i : Nat) (st : SlotState) (result : BitVec 4) : (s.raceCut i st result).mem = s.mem := rfl
theorem Memory.wf_bundVault {s : State} (v src addr : Nat) (met : Met) (hw : Memory.wf s.mem) :
    Memory.wf (s.bundVault v src addr met).mem := by
  fun_cases State.bundVault s v src addr met
  case case1 => exact hw
  case case2 => exact Memory.wf_of_mem (State.fatal_mem _ _ _ _) (Memory.wf_of_mem (State.lockWhere_mem _ _ _) (Memory.wf_foldl _ _
      (fun _ _ hu => Memory.wf_event _ _ _ _ _ _ hu) (Memory.wf_of_mem (State.record_mem _ _ _ _ _ _) hw)))
  case case3 => exact Memory.wf_of_mem (State.lockWhere_mem _ _ _) (Memory.wf_foldl _ _ (fun _ _ hu => Memory.wf_event _ _ _ _ _ _ hu)
      (Memory.wf_of_mem (State.record_mem _ _ _ _ _ _) hw))
theorem Memory.wf_poisonUnit {s : State} (src addr : Nat) (met : Met) (hw : Memory.wf s.mem) :
    Memory.wf (s.poisonUnit src addr met).mem := by
  unfold State.poisonUnit
  extract_lets u seen unit t
  have ht : t.mem = s.mem := (State.mark_mem _ _).trans (State.record_mem _ _ _ _ _ _)
  split
  · extract_lets n t'
    exact Memory.wf_ite (ht ▸ hw) (Memory.wf_ite (Memory.wf_bundVault _ _ _ _ (ht ▸ hw)) (ht ▸ hw))
  · exact ht ▸ hw
theorem Memory.wf_detect {s : State} (pan : Option Nat) (met : Met) (d : Detection) (hw : Memory.wf s.mem) :
    Memory.wf (s.detect pan met d).mem := by
  fun_cases State.detect s pan met d
  case case1 | case3 | case5 => exact Memory.wf_bundPan _ _ _ hw
  case case2 | case4 | case6 | case8 | case9 | case10 | case12 | case14 | case18 => exact hw
  case case7 | case13 => exact Memory.wf_poisonUnit _ _ _ hw
  case case11 => exact Memory.wf_bundVault _ _ _ _ hw
  case case15 | case16 => exact Memory.wf_of_mem (State.record_mem _ _ _ _ _ _) hw
  case case17 => exact Memory.wf_of_mem (State.fatal_mem _ _ _ _) hw
theorem Memory.wf_detectAll {s : State} (pan : Option Nat) (met : Met) (ds : List Detection) (hw : Memory.wf s.mem) :
    Memory.wf (s.detectAll pan met ds).mem := Memory.wf_foldl _ _ (fun _ _ hu => Memory.wf_detect _ _ _ hu) hw
@[simp] theorem State.zeroiseSlot_mem (s : State) (n : Nat) : (s.zeroiseSlot n).mem = s.mem := rfl
@[simp] theorem State.zeroiseWhere_mem (s : State) (f : KeySlot → Bool) : (s.zeroiseWhere f).mem = s.mem :=
  State.foldl_mem _ _ (fun _ _ => State.zeroiseSlot_mem _ _)
theorem Memory.wf_putElems {s : State} (p : Nat) (sl : Slot22) (k : Nat) (f : Fmt) (cs : List Nat) (hw : Memory.wf s.mem) :
    Memory.wf (s.putElems p sl k f cs).mem := Memory.wf_slotWrite _ _ _ _ hw
theorem Memory.wf_endPan {s : State} (p : Nat) (hw : Memory.wf s.mem) : Memory.wf (s.endPan p).mem := by
  fun_cases State.endPan s p
  case case1 => exact hw
  case case2 => exact Memory.wf_of_mem (State.modSlot_mem _ _ _) (Memory.wf_of_mem (State.modPan_mem _ _ _) hw)
  case case3 | case6 => exact Memory.wf_of_mem (State.modCmd_mem _ _ _) (Memory.wf_of_mem (State.modPan_mem _ _ _) hw)
  case case4 => exact Memory.wf_stopCmd _ _ (Memory.wf_of_mem (State.modCmd_mem _ _ _) (Memory.wf_of_mem (State.modPan_mem _ _ _) hw))
  case case5 => exact Memory.wf_complete _ _ (Memory.wf_of_mem (State.modCmd_mem _ _ _) (Memory.wf_of_mem (State.modPan_mem _ _ _) hw))
theorem Memory.wf_advance {s : State} (p : Nat) (hw : Memory.wf s.mem) : Memory.wf (s.advance p).mem :=
  Memory.wf_ite (Memory.wf_of_mem (State.modPan_mem _ _ _) hw) (Memory.wf_endPan _ (Memory.wf_of_mem (State.modPan_mem _ _ _) hw))
theorem Memory.wf_stopPan {s : State} (e : PEnv) (status : Byte) (hw : Memory.wf s.mem) : Memory.wf (s.stopPan e status).mem :=
  Memory.wf_ite (Memory.wf_of_mem (State.modPan_mem _ _ _) (Memory.wf_of_mem (State.raceFail_mem _ _) hw)) (Memory.wf_stopCmd _ _ hw)
@[simp] theorem State.idleRun_mem (s : State) (p : Nat) : (s.idleRun p).mem = s.mem := by
  unfold State.idleRun
  split
  · rfl
  · dsimp only
    rw [State.modPan_mem, State.draw_mem]
theorem Memory.wf_panRow {cls : Nat} {func : Nat → Bool} {act : PEnv → State → Done} {s : State} (p : BitVec 6) (ds : List Detection)
    (ha : ∀ e t, Memory.wf t.mem → Memory.wf (act e t).s.mem) (hw : Memory.wf s.mem) : Memory.wf (panRow cls func act p ds s).mem := by
  unfold panRow
  split
  · exact hw
  · split
    · exact hw
    · rename_i e _ _
      have hd := Memory.wf_detectAll (some e.p) e.met ds hw
      dsimp only
      split
      · exact hd
      · split
        · exact Memory.wf_stopPan _ _ hd
        · split
          · exact Memory.wf_stopPan _ _ (ha _ _ hd)
          · split
            · exact ha _ _ hd
            · exact Memory.wf_advance _ (ha _ _ hd)
@[simp] theorem plain_mem (s : State) (cost : Cost) : (plain s cost).s.mem = s.mem := rfl
theorem Memory.wf_mmRow {s : State} (e : PEnv) (fa fb : Fmt) (qa qb : Option QDesc) (load : Bool) (rows cols k b m : Nat)
    (hw : Memory.wf s.mem) :
    Memory.wf (mmRow e fa fb qa qb load rows cols k s b m).mem := Memory.wf_of_mem (State.addFlags_mem _ _ _)
        (Memory.wf_putElems _ _ _ _ _ hw)
theorem Memory.wf_mmAct {s : State} (e : PEnv) (hw : Memory.wf s.mem) : Memory.wf (mmAct e s).s.mem := by
  unfold mmAct
  dsimp only
  split
  · rw [plain_mem]
    split
    · rw [State.modPan_mem]
      refine foldl_keeps (fun u : State => Memory.wf u.mem) _ _ (fun u a _ hu => ?_) _ ?_
      · exact Memory.wf_mmRow _ _ _ _ _ _ _ _ _ _ _ hu
      · exact hw
    · refine foldl_keeps (fun u : State => Memory.wf u.mem) _ _ (fun u a _ hu => ?_) _ ?_
      · exact Memory.wf_mmRow _ _ _ _ _ _ _ _ _ _ _ hu
      · exact hw
  · rw [plain_mem]
    exact hw
theorem Memory.wf_putMeta {s : State} (p : Nat) (q : QDesc) (k m g : Nat) (sz : Nat × ℤ) (hw : Memory.wf s.mem) :
    Memory.wf (putMeta s p q k m g sz).mem :=
  Memory.wf_ite (Memory.wf_slotWrite _ _ _ _ (Memory.wf_slotWrite _ _ _ _ hw)) (Memory.wf_slotWrite _ _ _ _ hw)
theorem Memory.wf_quantAct {s : State} (learned : Bool) (e : PEnv) (hw : Memory.wf s.mem) : Memory.wf (quantAct learned e s).s.mem := by
  fun_cases quantAct learned e s
  case case1 => exact Memory.wf_of_mem (plain_mem _ _) hw
  case case2 => exact Memory.wf_of_mem (plain_mem _ _) (Memory.wf_ite (Memory.wf_of_mem (State.addFlags_mem _ _ _) (Memory.wf_foldl _ _
      (fun _ _ hu => Memory.wf_putElems _ _ _ _ _ hu) (Memory.wf_foldl _ _ (fun _ _ hu => Memory.wf_of_mem
      (State.addFlags_mem _ _ _) hu) hw))) (Memory.wf_putMeta _ _ _ _ _ _ (Memory.wf_of_mem (State.addFlags_mem _ _ _)
      (Memory.wf_foldl _ _ (fun _ _ hu => Memory.wf_putElems _ _ _ _ _ hu) (Memory.wf_foldl _ _ (fun _ _ hu => Memory.wf_of_mem
      (State.addFlags_mem _ _ _) hu) hw)))))
  case case3 => exact Memory.wf_of_mem (plain_mem _ _) (Memory.wf_foldl _ _ (fun _ _ hu => Memory.wf_foldl _ _
      (fun _ _ hu' => Memory.wf_ite (Memory.wf_of_mem (State.addFlags_mem _ _ _) hu') (Memory.wf_putMeta _ _ _ _ _ _ (Memory.wf_of_mem
      (State.addFlags_mem _ _ _) hu'))) (Memory.wf_putElems _ _ _ _ _ hu)) (Memory.wf_foldl _ _ (fun _ _ hu => Memory.wf_of_mem
      (State.addFlags_mem _ _ _) hu) hw))
theorem Memory.wf_dequantAct {s : State} (bf16 : Bool) (e : PEnv) (hw : Memory.wf s.mem) : Memory.wf (dequantAct bf16 e s).s.mem := by
  fun_cases dequantAct bf16 e s
  case case1 => exact Memory.wf_of_mem (plain_mem _ _) hw
  case case2 => exact Memory.wf_of_mem (plain_mem _ _) (Memory.wf_foldl _ _ (fun _ _ hu => Memory.wf_of_mem (State.addFlags_mem _ _ _)
      (Memory.wf_putElems _ _ _ _ _ hu)) hw)
@[simp] theorem State.lockAccess_mem (s : State) (e : PEnv) (a : Nat) : (s.lockAccess e a).mem = s.mem := by
  fun_cases State.lockAccess s e a <;> simp
@[simp] theorem State.lockSpan_mem (s : State) (e : PEnv) (a n : Nat) : (s.lockSpan e a n).mem = s.mem :=
  (State.lockAccess_mem _ _ _).trans (State.lockAccess_mem _ _ _)
theorem Memory.wf_copyRow {s : State} (e : PEnv) (toRemote : Bool) (loc : Slot22) (k remote n : Nat) (hw : Memory.wf s.mem) :
    Memory.wf (copyRow e toRemote loc k remote n s).1.mem := by
  fun_cases copyRow e toRemote loc k remote n s
  case case1 => exact Memory.wf_of_mem (State.modSlot_mem _ _ _) hw
  case case2 | case4 | case7 | case8 => exact hw
  case case3 | case6 => exact Memory.wf_slotWrite _ _ _ _ hw
  case case5 => exact Memory.wf_write _ _ hw
  case case9 => exact Memory.wf_write _ _ (Memory.wf_of_mem (State.lockSpan_mem _ _ _ _) hw)
  case case10 => exact Memory.wf_slotWrite _ _ _ _ (Memory.wf_of_mem (State.lockSpan_mem _ _ _ _) hw)
theorem Memory.wf_copyRows (e : PEnv) (toRemote : Bool) (loc : Slot22) (lstride remote rstride n : Nat) : ∀ (fuel i : Nat) {s : State},
    Memory.wf s.mem → Memory.wf (copyRows e toRemote loc lstride remote rstride n i fuel s).1.mem
  | 0, _, _, hw => hw
  | fuel + 1, i, s, hw => by
    have hr := Memory.wf_copyRow e toRemote loc (i * lstride) (remote + i * rstride) n hw
    unfold copyRows
    split
    · rename_i hx; rwa [hx] at hr
    · rename_i hx; rw [hx] at hr; exact Memory.wf_copyRows e toRemote loc lstride remote rstride n fuel (i + 1) hr
theorem Memory.wf_copyAct {s : State} (e : PEnv) (hw : Memory.wf s.mem) : Memory.wf (copyAct e s).s.mem :=
  Memory.wf_ite_done (Memory.wf_of_mem (plain_mem _ _) hw) (Memory.wf_copyRows _ _ _ _ _ _ _ _ _ hw)
theorem Memory.wf_fillAct {s : State} (e : PEnv) (hw : Memory.wf s.mem) : Memory.wf (fillAct e s).s.mem := by
  unfold fillAct
  exact Memory.wf_ite_done (Memory.wf_of_mem (plain_mem _ _) hw) (Memory.wf_of_mem (plain_mem _ _) (Memory.wf_foldl _ _
      (fun _ _ hu => Memory.wf_slotWrite _ _ _ _ hu) hw))
theorem Memory.wf_cycleAct {s : State} (e : PEnv) (hw : Memory.wf s.mem) : Memory.wf (cycleAct e s).s.mem :=
  Memory.wf_ite_done (Memory.wf_of_mem (plain_mem _ _) hw) (Memory.wf_of_mem (plain_mem _ _) (Memory.wf_slotWrite _ _ _ _ hw))
@[simp] theorem loopAct_mem (e : PEnv) (s : State) : (loopAct e s).s.mem = s.mem := State.modPan_mem _ _ _
@[simp] theorem waitAct_mem (e : PEnv) (s : State) : (waitAct e s).s.mem = s.mem := rfl
@[simp] theorem stepAct_mem (e : PEnv) (s : State) : (stepAct e s).s.mem = s.mem := (plain_mem _ _).trans (State.modPan_mem _ _ _)
theorem Memory.wf_endAct {s : State} (e : PEnv) (hw : Memory.wf s.mem) : Memory.wf (endAct e s).s.mem := Memory.wf_endPan _ hw
theorem Memory.wf_fetchBlock {s : State} (p : Nat) (r : Region) (nDesc nInstr j : Nat) (hw : Memory.wf s.mem) :
    Memory.wf (fetchBlock s p r nDesc nInstr j).mem := Memory.wf_write _ _ hw
theorem Memory.wf_fetchNext {s : State} (p : Nat) (ds : List Detection) (hw : Memory.wf s.mem) : Memory.wf (fetchNext p ds s).mem := by
  fun_cases fetchNext p ds s
  case case1 | case6 => exact hw
  case case2 => exact Memory.wf_detectAll _ _ _ hw
  case case3 | case4 => exact Memory.wf_stopPan _ _ (Memory.wf_detectAll _ _ _ hw)
  case case5 => exact Memory.wf_of_mem (State.modPan_mem _ _ _) (Memory.wf_of_mem (State.lockSpan_mem _ _ _ _)
      (Memory.wf_fetchBlock _ _ _ _ _ (Memory.wf_detectAll _ _ _ hw)))

end Sys2Proof.Machine

/-! SUPPORT. The canonical form of memory and the queues: key-value streams (R145, R155), acceptance (R229), loads, clears and measurements
(R133, R137, R401). -/
namespace Sys2Proof.Machine

@[simp] theorem State.sample_mem (s : State) (seq : DWord) (handle stream : Nat) : (s.sample seq handle stream).2.mem = s.mem := by
  fun_cases State.sample s seq handle stream <;> rfl
theorem Memory.wf_andThen {r : State × Option Byte} {f : State → State × Option Byte} (hf : ∀ t, Memory.wf t.mem → Memory.wf (f t).1.mem)
    (hw : Memory.wf r.1.mem) : Memory.wf (andThen r f).1.mem := by
  unfold andThen
  split
  · exact hw
  · exact hf _ hw
theorem Memory.wf_runAll {α : Type} {f : α → State → State × Option Byte} (hf : ∀ x t, Memory.wf t.mem → Memory.wf (f x t).1.mem) :
    ∀ (l : List α) {s : State}, Memory.wf s.mem → Memory.wf (runAll f l s).1.mem
  | [], _, hw => hw
  | x :: xs, _, hw => Memory.wf_andThen (fun _ ht => Memory.wf_runAll hf xs ht) (hf x _ hw)
@[simp] theorem State.takePage_mem (s : State) (part : Nat) : (s.takePage part).2.mem = s.mem := by
  fun_cases State.takePage s part <;> rfl
theorem Memory.wf_mergeUnit {s : State} (a : Nat) (full : Bool) (bs : List Byte) (hw : Memory.wf s.mem) :
    Memory.wf (mergeUnit s a full bs).mem := Memory.wf_ite hw (Memory.wf_write _ _ hw)
theorem Memory.wf_putCodes {s : State} (f : Fmt) (hd a : Nat) (codes : List (Nat × Nat)) (hw : Memory.wf s.mem) :
    Memory.wf (putCodes s f hd a codes).mem := Memory.wf_foldl _ _ (fun _ _ hu => Memory.wf_ite hu (Memory.wf_mergeUnit _ _ _ hu)) hw
theorem Memory.wf_pageOrTaken {s : State} (c : Prop) [Decidable c] (x : Option Nat) (p : Nat) (hw : Memory.wf s.mem) :
    Memory.wf (if c then (x, s) else s.takePage p).2.mem := by
  split
  · exact hw
  · rw [State.takePage_mem]; exact hw
theorem Memory.wf_writeIf {s : State} (c : Prop) [Decidable c] (a : Nat) (bs : List Byte) (hw : Memory.wf s.mem) :
    Memory.wf (if c then s.write a bs else s).mem := by
  split
  · exact Memory.wf_write _ _ hw
  · exact hw
theorem Memory.wf_appendStream {s : State} (e : PEnv) (a : AppendPlan) (job : AppendJob) (m : Nat) (h : Nat) (cols :
    List (Nat × Nat)) (hw : Memory.wf s.mem) : Memory.wf (appendStream e a job m h cols s).1.mem := by
  have hs {u t} (hx : s.sample e.run.seq a.handle h = (u, t)) : Memory.wf t.mem := Memory.wf_of_pair hx (by rw [State.sample_mem]; exact hw)
  have hl {t : State} (hd : Nat) (bs : List Byte) (f : Cmd → Cmd) (ht : Memory.wf t.mem) :
      Memory.wf (((t.write (hd + 11) bs).modCmd e.run.seq f).lockAccess e hd).mem := by
    rw [State.lockAccess_mem, State.modCmd_mem]; exact Memory.wf_write _ _ ht
  have hf {t : State} (c : Prop) [Decidable c] (ent : Nat) (bs : List Byte) (fl : AFlags) (ht : Memory.wf t.mem) :
      Memory.wf (if c then (t.addFlags e.p fl).write ent bs else t.addFlags e.p fl).mem :=
    Memory.wf_writeIf c ent bs (by rw [State.addFlags_mem]; exact ht)
  fun_cases appendStream e a job m h cols s
  case case1 | case2 => exact hs ‹_›
  all_goals have h0 := hs ‹State.sample _ _ _ _ = _›
  case case3 | case4 => exact hl _ _ _ h0
  all_goals have hp := Memory.wf_of_pair ‹(if _ = true then _ else State.takePage _ _) = _› (Memory.wf_pageOrTaken _ _ _ (hl _ _ _ h0))
  case case5 => exact hp
  case case6 | case7 => exact hf _ _ _ _ hp
  case case8 => 
    rw [State.modCmd_mem, State.lockAccess_mem, State.addFlags_mem]
    exact Memory.wf_putCodes _ _ _ _ (hf _ _ _ _ hp)
theorem Memory.wf_appendRun {s : State} (e : PEnv) (job : AppendJob) (hw : Memory.wf s.mem) : Memory.wf (appendRun e job s).1.mem := by
  unfold appendRun
  dsimp only
  split
  · dsimp only
    exact hw
  · split
    · dsimp only
      split
      · rw [State.clampCmd_mem]
        exact hw
      · exact hw
    · refine Memory.wf_runAll (fun x t ht => ?_) _ ?_
      · refine Memory.wf_runAll (fun x t ht => ?_) _ ?_
        · exact Memory.wf_appendStream _ _ _ _ _ _ ht
        · exact ht
      · split
        · rw [State.clampCmd_mem]
          exact hw
        · exact hw
theorem Memory.wf_appendPending {s : State} (p : Nat) (ds : List Detection) (hw : Memory.wf s.mem) :
    Memory.wf (appendPending p ds s).mem := by
  fun_cases appendPending p ds s
  case case1 | case6 => exact hw
  case case2 => exact Memory.wf_detectAll _ _ _ hw
  case case3 => exact Memory.wf_stopPan _ _ (Memory.wf_detectAll _ _ _ hw)
  case case4 => exact Memory.wf_stopPan _ _ (Memory.wf_appendRun _ _ (Memory.wf_detectAll _ _ _ hw))
  case case5 => exact Memory.wf_of_mem (State.modPan_mem _ _ _) (Memory.wf_appendRun _ _ (Memory.wf_detectAll _ _ _ hw))
theorem Memory.wf_gatherAct {s : State} (values : Bool) (e : PEnv) (hw : Memory.wf s.mem) : Memory.wf (gatherAct values e s).s.mem := by
  have hs {hd st u t} (hx : s.sample e.run.seq hd st = (u, t)) (h : Nat) : Memory.wf (t.lockAccess e h).mem := by
    rw [State.lockAccess_mem]
    exact Memory.wf_of_pair hx (by rw [State.sample_mem]; exact hw)
  have hc {t : State} (c : Prop) [Decidable c] (f : Part → Part) (ht : Memory.wf t.mem) :
      Memory.wf (if c then (t.clampCmd e.run.seq cGather).modPart e.run.part f else t).mem := by
    split
    · rw [State.modPart_mem, State.clampCmd_mem]; exact ht
    · exact ht
  have hl {t : State} (g : State → Nat → State) (hg : ∀ u i, (g u i).mem = u.mem) (l : List Nat) (ht : Memory.wf t.mem) :
      Memory.wf (l.foldl g t).mem :=
    foldl_keeps (fun u : State => Memory.wf u.mem) _ _ (fun u i _ hu => hg u i ▸ hu) _ ht
  fun_cases gatherAct values e s
  case case1 | case2 | case3 => exact hw
  all_goals have h0 := hs ‹State.sample _ _ _ _ = _›
  case case4 => exact hl _ (fun u pos => by dsimp only; split <;> simp) _ (hc _ _ (h0 _))
  case case5 =>
    rw [plain_mem, State.modPan_mem]
    refine Memory.wf_slotWrite _ _ _ _ (Memory.wf_slotWrite _ _ _ _ ?_)
    exact hl _ (fun u pos => by dsimp only; split <;> simp) _ (hc _ _ (h0 _))
@[simp] theorem State.newRound_mem (s : State) : s.newRound.mem = s.mem := by
  fun_cases State.newRound s
  exact (State.foldl_mem _ _ (fun _ _ => State.ite_mem rfl (State.modCtx_mem _ _ _))).trans
      (State.foldl_mem _ _ (fun _ _ => State.modCtx_mem _ _ _))
theorem Memory.wf_accept {s : State} (p q : Nat) (hw : Memory.wf s.mem) : Memory.wf (s.accept p q).mem := by
  unfold State.accept
  dsimp only
  rw [State.setCtx_mem]
  dsimp only
  refine Memory.wf_tallyAdd _ ?_
  rw [State.draw_mem]
  exact hw
theorem Memory.wf_acceptNext {s : State} (hw : Memory.wf s.mem) : Memory.wf (acceptNext s).mem := by
  unfold acceptNext
  extract_lets go t _
  have hgo (u : State) (pu : Nat × Nat) (hu : Memory.wf u.mem) : Memory.wf (go u pu).mem := by
    unfold go
    dsimp only
    split
    · exact Memory.wf_ite hu hu
    · exact Memory.wf_settle _ (Memory.wf_accept _ _ (Memory.wf_ite hu hu))
  have ht : Memory.wf t.mem := Memory.wf_finishCommits (Memory.wf_of_mem (State.newRound_mem _) hw)
  split
  · exact hgo _ _ hw
  · split
    · exact hgo _ _ ht
    · exact ht
theorem Memory.wf_checked {act : State → State} (l : List (Bool × Byte)) (c : Cmd) {s : State} (ha :
    ∀ t, Memory.wf t.mem → Memory.wf (act t).mem)
    (hw : Memory.wf s.mem) : Memory.wf (checked l act c s).mem := by
  unfold checked
  split
  · exact Memory.wf_complete _ _ hw
  · exact ha s hw
@[simp] theorem fenceAct_mem (c : Cmd) (s : State) : (fenceAct c s).mem = s.mem := State.modCmd_mem _ _ _
theorem Memory.wf_abortOne {s : State} (d : Cmd) (hw : Memory.wf s.mem) : Memory.wf (abortOne s d).mem := by
  fun_cases abortOne s d
  case case1 | case4 => exact hw
  case case2 | case3 => exact Memory.wf_completeOne _ _ hw
theorem Memory.wf_abortAct {s : State} (pick : Cmd → Cmd → Bool) (ok : Cmd → State → Bool) (c : Cmd) (hw : Memory.wf s.mem) :
    Memory.wf (abortAct pick ok c s).mem := by
  unfold abortAct
  exact Memory.wf_ite (Memory.wf_complete _ _ hw) (Memory.wf_of_mem (State.modCmd_mem _ _ _) (Memory.wf_foldl _ _
      (fun _ _ hu => Memory.wf_abortOne _ hu) hw))
theorem Memory.wf_setSeedAct {s : State} (c : Cmd) (hw : Memory.wf s.mem) : Memory.wf (setSeedAct c s).mem :=
  Memory.wf_complete _ _ (Memory.wf_of_mem (State.modPart_mem _ _ _) hw)
theorem Memory.wf_kvBindAct {s : State} (c : Cmd) (hw : Memory.wf s.mem) : Memory.wf (kvBindAct c s).mem := by
  fun_cases kvBindAct c s
  case case1 | case2 => exact Memory.wf_complete _ _ hw
  case case3 => exact Memory.wf_checked _ _ (fun _ h0 => Memory.wf_complete _ _ (Memory.wf_of_mem (State.setSeq_mem _ _ _)
      (Memory.wf_zero _ _ (Memory.wf_write _ _ h0)))) (Memory.wf_of_mem (State.clampCmd_mem _ _ _) hw)
theorem Memory.wf_releaseSeq {s : State} (h : Nat) (hw : Memory.wf s.mem) : Memory.wf (s.releaseSeq h).mem :=
  Memory.wf_of_mem (State.setSeq_mem _ _ _) (Memory.wf_zero _ _ (Memory.wf_foldl _ _ (fun _ _ hu => Memory.wf_putPage _ _ hu) hw))
theorem Memory.wf_kvReleaseAct {s : State} (c : Cmd) (hw : Memory.wf s.mem) : Memory.wf (kvReleaseAct c s).mem :=
  Memory.wf_checked _ _ (fun _ h0 => Memory.wf_complete _ _ (Memory.wf_releaseSeq _ h0)) hw
theorem Memory.wf_serve {s : State} (r : Req) {early : State → State} {act : State → BitVec 4 × State}
    (he : ∀ t, Memory.wf t.mem → Memory.wf (early t).mem) (ha : ∀ t, Memory.wf t.mem → Memory.wf (act t).2.mem) (hw : Memory.wf s.mem) :
    Memory.wf (s.serve r early act).mem := by
  unfold State.serve
  dsimp only
  split
  · exact hw
  · split
    · exact hw
    · split
      · exact he s hw
      · split
        · exact hw
        · exact ha s hw
theorem Memory.wf_serveRace {s : State} (r : Req) {early : State → State} {act : State → BitVec 4 × State}
    (he : ∀ t, Memory.wf t.mem → Memory.wf (early t).mem) (ha : ∀ t, Memory.wf t.mem → Memory.wf (act t).2.mem) (hw : Memory.wf s.mem) :
    Memory.wf (s.serveRace r early act).mem := by
  unfold State.serveRace
  dsimp only
  split
  · exact hw
  · split
    · exact hw
    · split
      · exact he s hw
      · exact ha _ (by rw [State.racePath_mem]; exact hw)
theorem Memory.wf_logAdd {s : State} (e : LogEntry) (hw : Memory.wf s.mem) : Memory.wf (s.logAdd e).mem :=
  Memory.wf_ite hw (Memory.wf_ite (Memory.wf_write _ _ hw) hw)
theorem Memory.wf_extend {s : State} (mr kind : Nat) (handle : Byte) (v : Option (List Byte)) (seq : Option DWord) (mismatch : Bool)
    (hw : Memory.wf s.mem) :
    Memory.wf (s.extend mr kind handle v seq mismatch).mem := Memory.wf_logAdd _ hw
theorem Memory.wf_resetMr {s : State} (k : Nat) (hw : Memory.wf s.mem) : Memory.wf (s.resetMr k).mem := Memory.wf_logAdd _ hw
@[simp] theorem State.countShort_mem (s : State) : s.countShort.mem = s.mem := rfl
@[simp] theorem State.countTrunc_mem (s : State) : s.countTrunc.mem = s.mem := rfl
@[simp] theorem State.setRegion_mem (s : State) (weights : Bool) (p h : Nat) (r : Region) : (s.setRegion weights p h r).mem = s.mem := rfl
theorem Memory.wf_loadFailed {s : State} (weights : Bool) (c : Cmd) (hw : Memory.wf s.mem) : Memory.wf (s.loadFailed weights c).mem :=
  Memory.wf_complete _ _ (Memory.wf_extend _ _ _ _ _ _ (Memory.wf_ite (Memory.wf_of_mem (State.setRegion_mem _ _ _ _ _) hw) hw))
@[simp] theorem State.startClear_mem (s : State) (c : Cmd) (a n : Nat) : (s.startClear c a n).mem = s.mem := State.modCmd_mem _ _ _
theorem Memory.wf_loadShort {s : State} (weights : Bool) (c : Cmd) (hw : Memory.wf s.mem) : Memory.wf (s.loadShort weights c).mem := by
  unfold State.loadShort
  exact Memory.wf_ite (Memory.wf_of_mem (State.startClear_mem _ _ _ _) (Memory.wf_of_mem (State.countShort_mem _) hw))
      (Memory.wf_loadFailed _ _ (Memory.wf_of_mem (State.countShort_mem _) hw))
@[simp] theorem State.openRegion_mem (s : State) (weights : Bool) (c : Cmd) (len plen : Nat) (prog : ProgInfo) (status : Byte) :
    (s.openRegion weights c len plen prog status).mem = s.mem := (State.modCmd_mem _ _ _).trans (State.setRegion_mem _ _ _ _ _)
theorem Memory.wf_loadProgramAct {s : State} (c : Cmd) (hw : Memory.wf s.mem) : Memory.wf (loadProgramAct c s).mem := by
  unfold loadProgramAct
  dsimp only
  refine Memory.wf_checked _ _ (fun t ht => ?_) ?_
  · split
    · exact Memory.wf_loadShort _ _ ht
    · split
      · exact Memory.wf_complete _ _ ht
      · split
        · exact Memory.wf_loadShort _ _ ht
        · split
          · exact Memory.wf_complete _ _ ht
          · rw [State.openRegion_mem, State.clampCmd_mem]
            exact ht
  · rw [State.clampCmd_mem]
    exact hw
theorem Memory.wf_loadWeightsAct {s : State} (c : Cmd) (hw : Memory.wf s.mem) : Memory.wf (loadWeightsAct c s).mem := by
  fun_cases loadWeightsAct c s
  exact Memory.wf_checked _ _ (fun _ h0 => Memory.wf_of_mem (State.openRegion_mem _ _ _ _ _ _ _) h0)
      (Memory.wf_of_mem (State.clampCmd_mem _ _ _) hw)
theorem Memory.wf_copyDone {s : State} (seq : DWord) (ds : List Detection) (hw : Memory.wf s.mem) : Memory.wf
    (copyDone seq ds s).mem := by
  fun_cases copyDone seq ds s
  case case1 | case2 | case3 => exact hw
  case case4 => exact Memory.wf_detectAll _ _ _ hw
  case case5 => exact Memory.wf_loadShort _ _ (Memory.wf_detectAll _ _ _ hw)
  case case6 => exact Memory.wf_complete _ _ (Memory.wf_of_mem (State.setRegion_mem _ _ _ _ _) (Memory.wf_detectAll _ _ _ hw))
  case case7 => exact Memory.wf_complete _ _ (Memory.wf_extend _ _ _ _ _ _ (Memory.wf_ite (Memory.wf_of_mem (State.countTrunc_mem _)
      (Memory.wf_of_mem (State.setRegion_mem _ _ _ _ _) (Memory.wf_zero _ _ (Memory.wf_write _ _ (Memory.wf_detectAll _ _ _ hw)))))
      (Memory.wf_of_mem (State.setRegion_mem _ _ _ _ _) (Memory.wf_zero _ _ (Memory.wf_write _ _ (Memory.wf_detectAll _ _ _ hw))))))
theorem Memory.wf_measureAct {s : State} (weights : Bool) (c : Cmd) (hw : Memory.wf s.mem) : Memory.wf (measureAct weights c s).mem := by
  fun_cases measureAct weights c s
  exact Memory.wf_checked _ _ (fun _ h0 => Memory.wf_ite (Memory.wf_complete _ _
      (Memory.wf_extend _ _ _ _ _ _ (Memory.wf_of_mem (State.countShort_mem _) (Memory.wf_of_mem (State.setRegion_mem _ _ _ _ _) h0))))
      (Memory.wf_complete _ _ (Memory.wf_extend _ _ _ _ _ _ (Memory.wf_of_mem (State.setRegion_mem _ _ _ _ _)
      (Memory.wf_engineWrite _ _ h0))))) hw
theorem Memory.wf_measureOwnerAct {s : State} (c : Cmd) (hw : Memory.wf s.mem) : Memory.wf (measureOwnerAct c s).mem := by
  unfold measureOwnerAct
  exact Memory.wf_checked _ _ (fun _ h0 => Memory.wf_ite (Memory.wf_complete _ _ (Memory.wf_extend _ _ _ _ _ _ (Memory.wf_of_mem
      (State.countShort_mem _) h0))) (Memory.wf_complete _ _ (Memory.wf_extend _ _ _ _ _ _ (Memory.wf_engineWrite _ _ h0)))) hw
theorem Memory.wf_clearHandleAct {s : State} (weights : Bool) (c : Cmd) (hw : Memory.wf s.mem) :
    Memory.wf (clearHandleAct weights c s).mem := Memory.wf_checked _ _ (fun _ h0 => Memory.wf_of_mem
        (State.startClear_mem _ _ _ _) h0) hw
theorem Memory.wf_clearRangeAct {s : State} (c : Cmd) (hw : Memory.wf s.mem) : Memory.wf (clearRangeAct c s).mem :=
  Memory.wf_checked _ _ (fun _ h0 => Memory.wf_of_mem (State.startClear_mem _ _ _ _) h0) (Memory.wf_of_mem (State.clampCmd_mem _ _ _) hw)
@[simp] theorem State.withhold_mem (s : State) (port src : Nat) (r : Nat × Nat) (met : Met) : (s.withhold port src r met).mem = s.mem :=
  State.record_mem _ _ _ _ _ _
@[simp] theorem State.drawPositions_mem (s : State) : s.drawPositions.mem = s.mem := by
  unfold State.drawPositions
  split
  · rfl
  · dsimp only
    rw [State.draw_mem, State.freeBytes_mem]
theorem Memory.wf_verify {s : State} (v : ClearVerdict) (rs : List (Nat × Nat)) (pans : List Nat) (met : Met) (hw : Memory.wf s.mem) :
    Memory.wf (s.verify v rs pans met).2.mem := by
  fun_cases State.verify s v rs pans met
  exact Memory.wf_foldl _ _ (fun _ _ hu => Memory.wf_foldl _ _
      (fun _ _ hu' => Memory.wf_of_mem (State.withhold_mem _ _ _ _ _) hu') hu) (Memory.wf_foldl _ _
      (fun _ _ hu => Memory.wf_bundVault _ _ _ _ hu) (Memory.wf_foldl _ _ (fun _ _ hu => Memory.wf_bundPan _ _ _ hu)
      (Memory.wf_foldl _ _ (fun _ _ hu => Memory.wf_zero _ _ (Memory.wf_zero _ _ (Memory.wf_zero _ _ hu))) (Memory.wf_foldl _ _
      (fun _ _ hu => Memory.wf_zero _ _ hu) (Memory.wf_ite hw (Memory.wf_of_mem (State.drawPositions_mem _) hw))))))
theorem Memory.wf_clearRegionDone {s : State} (seq : DWord) (v : ClearVerdict) (hw : Memory.wf s.mem) :
    Memory.wf (clearRegionDone seq v s).mem := by
  unfold clearRegionDone
  dsimp only
  split
  · split
    · exact hw
    · split
      · exact Memory.wf_verify _ _ _ _ hw
      · split
        · refine Memory.wf_complete _ _ ?_
          split
          · rw [State.setRegion_mem]
            dsimp only
            exact Memory.wf_verify _ _ _ _ hw
          · dsimp only
            exact Memory.wf_verify _ _ _ _ hw
        · refine Memory.wf_loadFailed _ _ ?_
          dsimp only
          exact Memory.wf_verify _ _ _ _ hw
  · exact hw

end Sys2Proof.Machine

/-! SUPPORT. The canonical form of memory and Saltern's engines: mailboxes, OTP, the DRBG, keys, digest descriptors and the public-key
engine. -/
namespace Sys2Proof.Machine

@[simp] theorem State.reply_mem (s : State) (c : Nat) (tag : BitVec 16) (status : Nat) (clamp : Bool) (ws : List Word) :
    (s.reply c tag status clamp ws).mem = s.mem := State.modChan_mem _ _ _
@[simp] theorem mbxRead_mem (c : Nat) (b : Bool) (off n : Nat) (s : State) : (mbxRead c b off n s).2.mem = s.mem := by
  unfold mbxRead
  dsimp only
  split
  · dsimp only
    rw [State.modChan_mem]
  · dsimp only
@[simp] theorem mbxWrite_mem (c : Nat) (b data first : Bool) (bs : List (Nat × Byte)) (s : State) :
    (mbxWrite c b data first bs s).mem = s.mem := by
  unfold mbxWrite
  dsimp only
  rw [State.settleMbx_mem]
  split
  · split
    · rw [State.modChan_mem]
      split
      · rw [State.modChan_mem]
        split
        · rw [State.modChan_mem]
        · rfl
      · split
        · rw [State.modChan_mem]
        · rfl
    · split
      · rw [State.modChan_mem]
        split
        · rw [State.modChan_mem]
        · rfl
      · split
        · rw [State.modChan_mem]
        · rfl
  · split
    · rw [State.modChan_mem]
      split
      · rw [State.modChan_mem]
      · rfl
    · split
      · rw [State.modChan_mem]
      · rfl
@[simp] theorem bootRead_mem (env : BootEnv) (s : State) : (bootRead env s).mem = s.mem := rfl
@[simp] theorem State.endJob_mem (s : State) (j : OtpJob) (status : Nat) : (s.endJob j status).mem = s.mem := by
  fun_cases State.endJob s j status <;> rfl
@[simp] theorem State.denyJob_mem (s : State) (j : OtpJob) (status : Nat) : (s.denyJob j status).mem = s.mem := by
  fun_cases State.denyJob s j status <;> rfl
@[simp] theorem State.startJob_mem (s : State) (j : OtpJob) : (s.startJob j).mem = s.mem := by
  fun_cases State.startJob s j <;> simp
@[simp] theorem State.jobNext_mem (s : State) (j : OtpJob) : (s.jobNext j).mem = s.mem := by
  fun_cases State.jobNext s j <;> simp
@[simp] theorem State.settleOtp_mem : ∀ (fuel : Nat) (s : State), (s.settleOtp fuel).mem = s.mem
  | 0, _ => rfl
  | fuel + 1, s => by
    unfold State.settleOtp
    split
    · split
      · rw [State.settleOtp_mem, State.jobNext_mem]
      · rfl
    · rw [State.settleOtp_mem, State.startJob_mem]
    · rfl
@[simp] theorem State.addJob_mem (s : State) (j : OtpJob) : (s.addJob j).mem = s.mem := State.settleOtp_mem _ _
@[simp] theorem otpPulse_mem (left : FuseOutcome) (s : State) : (otpPulse left s).mem = s.mem := by
  fun_cases otpPulse left s
  case case1 | case2 | case3 => exact rfl
  case case4 => exact (State.settleMbx_mem _).trans ((State.settleOtp_mem _ _).trans (State.endJob_mem _ _ _))
  case case5 => exact (State.settleMbx_mem _).trans ((State.settleOtp_mem _ _).trans (State.ite_mem (State.jobNext_mem _ _)
      (State.ite_mem rfl (State.endJob_mem _ _ _))))
@[simp] theorem State.stopJobs_mem (s : State) (left : FuseOutcome) (status : Nat) : (s.stopJobs left status).mem = s.mem := by
  unfold State.stopJobs
  dsimp only
  refine foldl_keeps (fun u : State => u.mem = s.mem) _ _ (fun u a _ hu => ?_) _ ?_
  · rw [State.endJob_mem]
    exact hu
  · dsimp only
    split
    · split
      · rw [State.endJob_mem]
      · rw [State.endJob_mem]
    · rfl
@[simp] theorem vppLoss_mem (left : FuseOutcome) (s : State) : (vppLoss left s).mem = s.mem := by
  unfold vppLoss
  dsimp only
  split
  · dsimp only
  · rw [State.settleMbx_mem, State.settleOtp_mem]
    split
    · rw [State.endJob_mem]
    · rw [State.endJob_mem]
theorem State.drbgTake_mem {s t : State} {n : Nat} {bs : List Byte} (h : s.drbgTake n = some (bs, t)) : t.mem = s.mem := by
  unfold State.drbgTake at h
  split at h
  · exact absurd h (by simp)
  · simp only [Option.some.injEq, Prod.mk.injEq] at h
    rw [← h.2]
theorem State.entropyWords_mem : ∀ {n : Nat} {s t : State} {ws : List Nat}, s.entropyWords n = some (ws, t) → t.mem = s.mem := by
  intro n s
  fun_induction State.entropyWords s n with
  | case1 => rintro t ws ⟨⟩; rfl
  | case2 | case3 => exact nofun
  | case4 s n filled u hu x r =>
    rename_i hr ih
    rintro t ws ⟨⟩
    rw [ih hr]
    replace hu : (if s.eng.entropy.isEmpty then _ else some s) = some u := hu
    split at hu
    · obtain ⟨g, hg, rfl⟩ := Option.map_eq_some_iff.mp hu
      exact State.drbgTake_mem (bs := g.1) (t := g.2) hg
    · cases hu; rfl
theorem Memory.wf_putSample {s : State} (e : PEnv) (best : Nat × Nat) (fl : AFlags) (cost : Nat) (hw : Memory.wf s.mem) :
    Memory.wf (putSample e s best fl cost).s.mem :=
  Memory.wf_of_mem (plain_mem _ _) (Memory.wf_of_mem (State.addFlags_mem _ _ _) (Memory.wf_slotWrite _ _ _ _ hw))
theorem Memory.wf_greedyAct {s : State} (e : PEnv) (hw : Memory.wf s.mem) : Memory.wf (greedyAct e s).s.mem :=
  Memory.wf_putSample _ _ _ _ hw
theorem Memory.wf_categoricalAct {s : State} (e : PEnv) (hw : Memory.wf s.mem) : Memory.wf (categoricalAct e s).s.mem := by
  fun_cases categoricalAct e s
  · exact hw
  case case2 words rs t hx r => 
    unfold words at hx
    refine Memory.wf_putSample _ _ _ _ ?_
    split at hx
    · rw [State.entropyWords_mem hx]; exact hw
    · cases hx; exact hw
@[simp] theorem State.setLocks_mem (s : State) (bits : List Nat) : (s.setLocks bits).mem = s.mem := rfl
@[simp] theorem State.fillSlot_mem (s : State) (n type usage world initMask origin : Nat) (material : List Byte) :
    (s.fillSlot n type usage world initMask origin material).mem = s.mem := State.ite_mem rfl rfl
@[simp] theorem State.fillFixed_mem (s : State) (n type usage origin : Nat) (bits : List Byte) :
    (s.fillFixed n type usage origin bits).mem = s.mem := State.fillSlot_mem _ _ _ _ _ _ _ _
@[simp] theorem State.deriveDevice_mem (s : State) : s.deriveDevice.mem = s.mem := by
  unfold State.deriveDevice
  exact State.ite_mem rfl ((State.fillFixed_mem _ _ _ _ _ _).trans ((State.fillFixed_mem _ _ _ _ _ _).trans
      ((State.fillFixed_mem _ _ _ _ _ _).trans (State.fillFixed_mem _ _ _ _ _ _))))
@[simp] theorem State.deriveCdi_mem (s : State) : s.deriveCdi.mem = s.mem := State.ite_mem rfl (State.fillFixed_mem _ _ _ _ _ _)
@[simp] theorem State.deriveAlias_mem (s : State) : s.deriveAlias.mem = s.mem :=
  State.ite_mem rfl ((State.fillFixed_mem _ _ _ _ _ _).trans ((State.fillFixed_mem _ _ _ _ _ _).trans (State.fillFixed_mem _ _ _ _ _ _)))
@[simp] theorem State.pkeEnd_mem (s : State) (code : Nat) (clamp : Bool) (outs : List (List DWord)) :
    (s.pkeEnd code clamp outs).mem = s.mem := rfl
@[simp] theorem State.pkePublic_mem (s : State) (q : List Byte) : (s.pkePublic q).mem = s.mem := State.pkeEnd_mem _ _ _ _
theorem ecdsaSign_mem (c : Curve) (d e : Nat) : ∀ {fuel : Nat} {s t : State} {rs :
    Nat × Nat}, ecdsaSign c fuel d e s = some (rs, t) → t.mem = s.mem
  | 0, _, _, _, h => by simp [ecdsaSign] at h
  | fuel + 1, s, t, rs, h => by
    unfold ecdsaSign at h
    split at h
    · exact absurd h (by simp)
    · rename_i hd
      split at h
      · simp only [Option.some.injEq, Prod.mk.injEq] at h
        rw [← h.2, State.drbgTake_mem hd]
      · rw [ecdsaSign_mem c d e h, State.drbgTake_mem hd]
theorem ecBytes_mem {c : Curve} {r : Option ((Nat × Nat) × State)} {s t : State} {bs : List Byte} (hr :
    ∀ rs u, r = some (rs, u) → u.mem = s.mem)
    (h : ecBytes c r = some (bs, t)) : t.mem = s.mem := by
  obtain ⟨x, hx, he⟩ := Option.map_eq_some_iff.mp h
  rw [← (Prod.mk.inj he).2, State.pkeEnd_mem, hr x.1 x.2 hx]
theorem signMsg_mem {type : Nat} {m msg bs : List Byte} {s t : State} (h : signMsg type m msg s = some (bs, t)) : t.mem = s.mem := by
  unfold signMsg at h
  split at h
  · exact ecBytes_mem (fun _ _ => ecdsaSign_mem _ _ _) h
  · split at h
    · exact ecBytes_mem (fun _ _ => ecdsaSign_mem _ _ _) h
    · split at h
      · exact absurd h (by simp)
      · rename_i hd
        obtain ⟨g, -, he⟩ := Option.map_eq_some_iff.mp h
        rw [← (Prod.mk.inj he).2, State.pkeEnd_mem, State.drbgTake_mem hd]
@[simp] theorem State.coreRead_mem (s : State) (a n : Nat) : (s.coreRead a n).2.mem = s.mem := by
  fun_cases State.coreRead s a n <;> rfl
theorem Memory.wf_coreWrite {s : State} (a : Nat) (bs : List Byte) (hw : Memory.wf s.mem) : Memory.wf (s.coreWrite a bs).mem :=
  Memory.wf_ite (Memory.wf_writeKnown _ _ hw) (Memory.wf_ite (Memory.wf_engineWrite _ _ hw) hw)
@[simp] theorem State.setDctx_mem (s : State) (i : Nat) (c : DigestCtx) : (s.setDctx i c).mem = s.mem := rfl
theorem Memory.wf_descStatus {s : State} (at32 code : Nat) (trunc : Bool) (ctx : Nat) (hw : Memory.wf s.mem) :
    Memory.wf (s.descStatus at32 code trunc ctx).mem := Memory.wf_coreWrite _ _ hw
@[simp] theorem State.sayAborted_mem (s : State) (op slot : Nat) : (s.sayAborted op slot).mem = s.mem := rfl
theorem Memory.wf_descExtend {s : State} (mr : Nat) (v : Option (List Byte)) (hw : Memory.wf s.mem) :
    Memory.wf (s.descExtend mr v).mem := by
  fun_cases State.descExtend s mr v
  exact Memory.wf_extend _ _ _ _ _ _ (Memory.wf_of_pair ‹State.draw _ = _› (Memory.wf_of_mem
      (State.draw_mem _) hw))
@[simp] theorem State.descInput_mem (s : State) (desc stream : List Byte) (n : Nat) : (s.descInput desc stream n).2.mem = s.mem := by
  fun_cases State.descInput s desc stream n <;> simp
theorem Memory.wf_descShort {s : State} (at32 i : Nat) (ext : Option Nat) (hw : Memory.wf s.mem) :
    Memory.wf (s.descShort at32 i ext).mem := by
  unfold State.descShort
  dsimp only
  refine Memory.wf_descStatus _ _ _ _ ?_
  split
  · refine Memory.wf_descExtend _ _ ?_
    rw [State.countShort_mem, State.setDctx_mem]
    exact hw
  · rw [State.countShort_mem, State.setDctx_mem]
    exact hw
theorem Memory.wf_descRun {s t : State} {at32 : Nat} {stream : List Byte} (h : s.descRun at32 stream = some t) (hw : Memory.wf s.mem) :
    Memory.wf t.mem := by
  revert h
  fun_cases State.descRun s at32 stream
  · exact nofun
  · rintro ⟨⟩
    exact Memory.wf_descStatus _ _ _ _ (by simpa)
  · rintro ⟨⟩
    have ht (c : Bool) (op slot : Nat) : Memory.wf (if c then s.sayAborted op slot else s).mem := by
      split
      · rw [State.sayAborted_mem]; exact hw
      · exact hw
    split
    next hx => exact Memory.wf_descShort _ _ _ (Memory.wf_of_pair hx (by rw [State.descInput_mem]; exact ht _ _ _))
    next input u hx =>
      have hu : Memory.wf u.mem := Memory.wf_of_pair hx (by rw [State.descInput_mem]; exact ht _ _ _)
      have hc (c : Prop) [Decidable c] : Memory.wf (if c then u.countTrunc else u).mem := by
        split
        · rw [State.countTrunc_mem]; exact hu
        · exact hu
      split
      · exact Memory.wf_descShort _ _ _ hu
      · dsimp only
        split
        · exact Memory.wf_descStatus _ _ _ _ (by rw [State.setDctx_mem]; exact hc _)
        · refine Memory.wf_descStatus _ _ _ _ ?_
          split
          · exact Memory.wf_descExtend _ _ (Memory.wf_coreWrite _ _ (by rw [State.setDctx_mem]; exact hc _))
          · exact Memory.wf_coreWrite _ _ (by rw [State.setDctx_mem]; exact hc _)
theorem Memory.wf_descTry {s : State} (w : Nat × List Byte) (hw : Memory.wf s.mem) : Memory.wf (s.descTry w).mem := by
  fun_cases State.descTry s w
  case case1 => exact Memory.wf_descRun ‹State.descRun _ _ _ = _› hw
  case case2 => exact hw
theorem Memory.wf_settleDigests {s : State} (hw : Memory.wf s.mem) : Memory.wf s.settleDigests.mem :=
  Memory.wf_foldl _ _ (fun _ _ hu => Memory.wf_descTry _ hu) hw
@[simp] theorem State.loadCode_mem (s : State) (full : Bool) : (s.loadCode full).mem = s.mem := by
  unfold State.loadCode
  split
  · rfl
  · dsimp only
    rw [State.draw_mem]
@[simp] theorem State.pkeBegin_mem (s : State) (r : PkeReq) : (s.pkeBegin r).mem = s.mem := rfl
theorem State.ecSign_mem {s t : State} {c : Curve} {w : Nat} (h : s.ecSign c w = some t) : t.mem = s.mem := by
  obtain ⟨x, hx, rfl⟩ := Option.map_eq_some_iff.mp h
  rw [State.pkeEnd_mem, ecdsaSign_mem _ _ _ hx]
@[simp] theorem State.ecVerify_mem (s : State) (c : Curve) (w : Nat) : (s.ecVerify c w).mem = s.mem := State.pkeEnd_mem _ _ _ _
@[simp] theorem State.ecPublic_mem (s : State) (c : Curve) (w : Nat) : (s.ecPublic c w).mem = s.mem := State.pkeEnd_mem _ _ _ _
@[simp] theorem State.ecdhRun_mem (s : State) : s.ecdhRun.mem = s.mem := by
  fun_cases State.ecdhRun s <;> rfl
theorem State.mlSignRun_mem {s t : State} {msg : List Byte} (h : s.mlSignRun msg = some t) : t.mem = s.mem := by
  unfold State.mlSignRun at h
  split at h
  · exact absurd h (by simp)
  · rename_i hd
    obtain ⟨g, -, rfl⟩ := Option.map_eq_some_iff.mp h
    rw [State.pkeEnd_mem, State.drbgTake_mem hd]
@[simp] theorem State.mlVerifyRun_mem (s : State) (pub msg sig : List Byte) : (s.mlVerifyRun pub msg sig).mem = s.mem := rfl
@[simp] theorem State.rsaRun_mem (s : State) (bits : Nat) : (s.rsaRun bits).mem = s.mem := by
  fun_cases State.rsaRun s bits <;> rfl
theorem State.pkeProgram_mem {s t : State} {r : PkeReq} (h : s.pkeProgram r = some t) : t.mem = s.mem := by
  unfold State.pkeProgram at h
  split at h
  case h_1 | h_4 => exact State.ecSign_mem h
  case h_9 => exact State.mlSignRun_mem h
  all_goals rw [← Option.some.inj h]; simp
theorem State.pkeRun_mem {s t : State} {r : PkeReq} (h : s.pkeRun r = some t) : t.mem = s.mem := by
  unfold State.pkeRun at h
  split at h
  · rw [← Option.some.inj h, State.pkeEnd_mem]
  · split at h
    · rw [← Option.some.inj h]
    · split at h
      · rw [← Option.some.inj h, State.pkeEnd_mem]
      · split at h
        · exact absurd h (by simp)
        · rw [State.pkeProgram_mem h, State.pkeBegin_mem]
@[simp] theorem State.settlePke_mem : ∀ (fuel : Nat) (s : State), (s.settlePke fuel).mem = s.mem
  | 0, s => by unfold State.settlePke; rfl
  | fuel + 1, s => by
    unfold State.settlePke
    split
    · rfl
    · rfl
    · split
      · rw [State.pkeBegin_mem]
      · rename_i hr
        rw [State.settlePke_mem, State.pkeRun_mem hr]
theorem Memory.wf_settleEngines {s : State} (hw : Memory.wf s.mem) : Memory.wf s.settleEngines.mem :=
  Memory.wf_settleDigests (Memory.wf_of_mem (State.settlePke_mem _ _) hw)
@[simp] theorem State.pkeIssue_mem (s : State) (r : PkeReq) : (s.pkeIssue r).mem = s.mem := State.settlePke_mem _ _

end Sys2Proof.Machine

/-! SUPPORT. The canonical form of memory, the vector unit, operating points, RUN_PROGRAM and the race lane (R81, R187, R192, R196). -/
namespace Sys2Proof.Machine

theorem Memory.wf_vecPut {s : State} (e : PEnv) (f : Fmt) (r : List Nat × AFlags) (hw : Memory.wf s.mem) :
    Memory.wf (vecPut e s f r).s.mem :=
  Memory.wf_of_mem (plain_mem _ _) (Memory.wf_of_mem (State.addFlags_mem _ _ _) (Memory.wf_putElems _ _ _ _ _ hw))
theorem Memory.wf_vecUn {s : State} (f : Nat → Arith Nat) (e : PEnv) (hw : Memory.wf s.mem) : Memory.wf (vecUn f e s).s.mem :=
  Memory.wf_vecPut _ _ _ hw
theorem Memory.wf_vecBin {s : State} (f : Nat → Nat → Arith Nat) (e : PEnv) (hw : Memory.wf s.mem) : Memory.wf (vecBin f e s).s.mem :=
  Memory.wf_vecPut _ _ _ hw
theorem Memory.wf_vecFma {s : State} (e : PEnv) (hw : Memory.wf s.mem) : Memory.wf (vecFma e s).s.mem := Memory.wf_vecPut _ _ _ hw
theorem Memory.wf_vecConvert {s : State} (e : PEnv) (hw : Memory.wf s.mem) : Memory.wf (vecConvert e s).s.mem := by
  unfold vecConvert
  split
  · exact Memory.wf_vecPut _ _ _ hw
  · rw [plain_mem]
    exact hw
theorem Memory.wf_vecShr {s : State} (e : PEnv) (hw : Memory.wf s.mem) : Memory.wf (vecShr e s).s.mem := Memory.wf_vecUn _ _ hw
theorem Memory.wf_reduceAct {s : State} (first : Nat → Arith Nat) (op : Nat → Nat → Arith Nat) (e : PEnv) (hw : Memory.wf s.mem) :
    Memory.wf (reduceAct first op e s).s.mem :=
  Memory.wf_of_mem (plain_mem _ _) (Memory.wf_of_mem (State.addFlags_mem _ _ _) (Memory.wf_putElems _ _ _ _ _ hw))
theorem Memory.wf_reduceAddAct {s : State} (e : PEnv) (hw : Memory.wf s.mem) : Memory.wf (reduceAddAct e s).s.mem :=
  Memory.wf_ite_done (Memory.wf_reduceAct _ _ _ hw) (Memory.wf_reduceAct _ _ _ hw)
@[simp] theorem State.setPoint_mem (s : State) (g k : Nat) : (s.setPoint g k).mem = s.mem := State.modGroup_mem _ _ _
@[simp] theorem State.powerGroups_mem (s : State) : s.powerGroups.mem = s.mem := State.foldl_mem _ _ (fun _ _ => State.setPoint_mem _ _ _)
@[simp] theorem State.setMargin_mem (s : State) (monitored : Bool) : (s.setMargin monitored).mem = s.mem :=
  State.ite_mem rfl (State.foldl_mem _ _ (fun _ _ => (State.setPoint_mem _ _ _).trans (State.modGroup_mem _ _ _)))
@[simp] theorem State.lockGroup_mem (s : State) (g : Nat) (cause : BitVec 4) : (s.lockGroup g cause).mem = s.mem :=
  State.lockWhere_mem _ _ _
@[simp] theorem State.meetRace_mem (s : State) : s.meetRace.mem = s.mem :=
  State.foldl_mem _ _ (fun _ _ => State.ite_mem (State.modSlot_mem _ _ _) rfl)
@[simp] theorem State.retarget_mem (s : State) (g : Nat) (stay : Bool) : (s.retarget g stay).mem = s.mem := by
  fun_cases State.retarget s g stay <;> simp
@[simp] theorem State.retargetAll_mem (s : State) (stay : Bool) : (s.retargetAll stay).mem = s.mem :=
  State.foldl_mem _ _ (fun _ _ => State.retarget_mem _ _ _)
theorem Memory.wf_loadPan {s : State} (p part h : Nat) (r : Region) (hw : Memory.wf s.mem) : Memory.wf (s.loadPan p part h r).mem := by
  fun_cases State.loadPan s p part h r
  exact Memory.wf_of_mem (State.modPan_mem _ _ _) (Memory.wf_ite hw (Memory.wf_ite
      (Memory.wf_fetchBlock _ _ _ _ _ (Memory.wf_fetchBlock _ _ _ _ _ (Memory.wf_write _ _ hw))) (Memory.wf_write _ _ hw)))
theorem Memory.wf_putArgs {s : State} (p ofs : Nat) (args : List Byte) (hw : Memory.wf s.mem) : Memory.wf (s.putArgs p ofs args).mem :=
  Memory.wf_slotWrite _ _ _ _ hw
@[simp] theorem State.lockStart_mem (s : State) (c : Cmd) (set fetched : List Nat) (a n : Nat) :
    (s.lockStart c set fetched a n).mem = s.mem := by
  unfold State.lockStart
  exact State.ite_mem ((State.lockCause_mem _ _ _).trans (State.ite_mem (State.lockCause_mem _ _ _) rfl)) (State.ite_mem
      (State.lockCause_mem _ _ _) rfl)
theorem Memory.wf_runProgramAct {s : State} (c : Cmd) (hw : Memory.wf s.mem) : Memory.wf (runProgramAct c s).mem := by
  fun_cases runProgramAct c s
  exact Memory.wf_checked _ _ (fun _ h0 => Memory.wf_ite (Memory.wf_of_mem
      (State.lockStart_mem _ _ _ _ _ _) (Memory.wf_of_mem (State.modCmd_mem _ _ _) (Memory.wf_tallyMod _ _ (Memory.wf_of_mem
      (State.retargetAll_mem _ _) (Memory.wf_ite (Memory.wf_of_mem (State.freshRefresh_mem _ _) (Memory.wf_foldl _ _
      (fun _ _ hu' => Memory.wf_of_mem (State.modPan_mem _ _ _) hu') (Memory.wf_foldl _ _ (fun _ _ hu' => Memory.wf_of_mem
      (State.idleRun_mem _ _) hu') (Memory.wf_ite (Memory.wf_foldl _ _ (fun _ _ hu' => Memory.wf_putArgs _ _ _ hu') (Memory.wf_foldl _ _
      (fun _ _ hu' => Memory.wf_loadPan _ _ _ _ hu') h0)) (Memory.wf_foldl _ _ (fun _ _ hu' => Memory.wf_loadPan _ _ _ _ hu') h0)))))
      (Memory.wf_foldl _ _ (fun _ _ hu' => Memory.wf_of_mem (State.modPan_mem _ _ _) hu') (Memory.wf_foldl _ _
      (fun _ _ hu' => Memory.wf_of_mem (State.idleRun_mem _ _) hu') (Memory.wf_ite (Memory.wf_foldl _ _
      (fun _ _ hu' => Memory.wf_putArgs _ _ _ hu') (Memory.wf_foldl _ _ (fun _ _ hu' => Memory.wf_loadPan _ _ _ _ hu') h0))
      (Memory.wf_foldl _ _ (fun _ _ hu' => Memory.wf_loadPan _ _ _ _ hu') h0))))))))) (Memory.wf_of_mem (State.modCmd_mem _ _ _)
      (Memory.wf_tallyMod _ _ (Memory.wf_of_mem (State.retargetAll_mem _ _) (Memory.wf_ite (Memory.wf_of_mem
      (State.freshRefresh_mem _ _) (Memory.wf_foldl _ _ (fun _ _ hu' => Memory.wf_of_mem (State.modPan_mem _ _ _) hu')
      (Memory.wf_foldl _ _ (fun _ _ hu' => Memory.wf_of_mem (State.idleRun_mem _ _) hu') (Memory.wf_ite (Memory.wf_foldl _ _
      (fun _ _ hu' => Memory.wf_putArgs _ _ _ hu') (Memory.wf_foldl _ _ (fun _ _ hu' => Memory.wf_loadPan _ _ _ _ hu') h0))
      (Memory.wf_foldl _ _ (fun _ _ hu' => Memory.wf_loadPan _ _ _ _ hu') h0))))) (Memory.wf_foldl _ _ (fun _ _ hu' => Memory.wf_of_mem
      (State.modPan_mem _ _ _) hu') (Memory.wf_foldl _ _ (fun _ _ hu' => Memory.wf_of_mem (State.idleRun_mem _ _) hu') (Memory.wf_ite
      (Memory.wf_foldl _ _ (fun _ _ hu' => Memory.wf_putArgs _ _ _ hu') (Memory.wf_foldl _ _
      (fun _ _ hu' => Memory.wf_loadPan _ _ _ _ hu') h0)) (Memory.wf_foldl _ _
      (fun _ _ hu' => Memory.wf_loadPan _ _ _ _ hu') h0))))))))) (Memory.wf_of_mem (State.clampCmd_mem _ _ _) (Memory.wf_of_mem
      (State.clampCmd_mem _ _ _) hw))
@[simp] theorem State.setRaceCfg_mem (s : State) (i : Nat) (f : Nat → Nat) : (s.setRaceCfg i f).mem = s.mem := rfl
@[simp] theorem State.setArm_mem (s : State) (i : Nat) (on : Bool) : (s.setArm i on).mem = s.mem := State.setRaceCfg_mem _ _ _
@[simp] theorem State.startArm_mem (s : State) (i : Nat) : (s.startArm i).2.mem = s.mem := by
  fun_cases State.startArm s i <;> rfl
@[simp] theorem State.startDisarm_mem (s : State) (i pan : Nat) (rearm : Bool) : (s.startDisarm i pan rearm).mem = s.mem := by
  unfold State.startDisarm
  exact State.ite_mem ((State.retarget_mem _ _ _).trans ((State.setSlot_mem _ _ _).trans (State.setArm_mem _ _ _)))
      ((State.modPan_mem _ _ _).trans ((State.retarget_mem _ _ _).trans ((State.setSlot_mem _ _ _).trans (State.setArm_mem _ _ _))))
theorem Memory.wf_slotDone {s : State} (i : Nat) (status : Option Byte) (hw : Memory.wf s.mem) : Memory.wf (s.slotDone i status).mem :=
  Memory.wf_finishCommits hw
theorem Memory.wf_raceDisarm {s : State} (i : Nat) (c : ClearVerdict) (hw : Memory.wf s.mem) : Memory.wf (raceDisarm i c s).mem := by
  fun_cases raceDisarm i c s
  case case1 => exact hw
  case case2 => exact Memory.wf_slotDone _ _ (Memory.wf_of_pair ‹State.startArm _ _ = _› (Memory.wf_of_mem (State.startArm_mem _ _)
      (Memory.wf_of_mem (State.modSlot_mem _ _ _) (Memory.wf_wipePan _ (Memory.wf_of_pair ‹State.verify _ _ _ _ _ = _›
      (Memory.wf_verify _ _ _ _ hw))))))
  case case3 => exact Memory.wf_of_pair ‹State.startArm _ _ = _› (Memory.wf_of_mem (State.startArm_mem _ _) (Memory.wf_of_mem
      (State.modSlot_mem _ _ _) (Memory.wf_wipePan _ (Memory.wf_of_pair ‹State.verify _ _ _ _ _ = _› (Memory.wf_verify _ _ _ _ hw)))))
  case case4 => exact Memory.wf_slotDone _ _ (Memory.wf_of_mem (State.modSlot_mem _ _ _) (Memory.wf_wipePan _
      (Memory.wf_of_pair ‹State.verify _ _ _ _ _ = _› (Memory.wf_verify _ _ _ _ hw))))
theorem Memory.wf_raceArmDone {s : State} (i : Nat) (hw : Memory.wf s.mem) : Memory.wf (raceArmDone i s).mem := by
  fun_cases raceArmDone i s
  case case1 | case3 | case4 => exact hw
  case case2 => exact Memory.wf_slotDone _ _ hw
  case case5 => exact Memory.wf_slotDone _ _ (Memory.wf_of_mem (State.modSlot_mem _ _ _) (Memory.wf_of_mem (State.racePath_mem _ _ _)
      (Memory.wf_of_mem (State.racePath_mem _ _ _) hw)))
  case case6 => exact Memory.wf_slotDone _ _ (Memory.wf_of_mem (State.retarget_mem _ _ _) (Memory.wf_of_mem (State.modSlot_mem _ _ _)
      (Memory.wf_of_mem (State.setArm_mem _ _ _) (Memory.wf_of_mem (State.modPan_mem _ _ _) (Memory.wf_write _ _ (Memory.wf_write _ _
      (Memory.wf_of_mem (State.racePath_mem _ _ _) (Memory.wf_of_mem (State.racePath_mem _ _ _) hw))))))))
@[simp] theorem State.raceStart_mem (s : State) (i : Nat) (tag : BitVec 16) : (s.raceStart i tag).mem = s.mem :=
  (State.modPan_mem _ _ _).trans ((State.modSlot_mem _ _ _).trans (State.idleRun_mem _ _))
@[simp] theorem raceDoorbell_mem (i : Nat) (ini : Ini) (value : DWord) (s : State) : (raceDoorbell i ini value s).2.mem = s.mem := by
  fun_cases raceDoorbell i ini value s <;> simp
@[simp] theorem raceIn_mem (i : Nat) (ini : Ini) (bs : List (Nat × Byte)) (s : State) : (raceIn i ini bs s).2.mem = s.mem := by
  fun_cases raceIn i ini bs s <;> rfl
@[simp] theorem raceComplete_mem (i late fabric : Nat) (s : State) : (raceComplete i late fabric s).mem = s.mem := by
  unfold raceComplete
  exact State.ite_mem rfl (State.ite_mem ((State.modPan_mem _ _ _).trans ((State.retarget_mem _ _ _).trans (State.setSlot_mem _ _ _)))
      ((State.retarget_mem _ _ _).trans (State.setSlot_mem _ _ _)))
@[simp] theorem State.raceAbort_mem (s : State) (i : Nat) : (s.raceAbort i).mem = s.mem :=
  State.ite_mem ((State.raceCut_mem _ _ _ _).trans (State.modPan_mem _ _ _)) rfl

end Sys2Proof.Machine

/-! SUPPORT. The canonical form of memory and the commits of partitions and of the device (R247 to R256). -/
namespace Sys2Proof.Machine

@[simp] theorem applyCtx_mem (p : Nat) (target : DevCfg) (a : Applied) (q : Nat) : (applyCtx p target a q).s.mem = a.s.mem := by
  unfold applyCtx
  extract_lets want now c b
  split
  · rfl
  · split
    · rfl
    · exact State.settleCtx_mem _ q
theorem Memory.wf_applyPool (enters : Bool) (p : Nat) (target : DevCfg) {a : Applied} (hw : Memory.wf a.s.mem) :
    Memory.wf (applyPool enters p target a).s.mem := by
  unfold applyPool
  dsimp only
  split
  · exact hw
  · split
    · exact hw
    · exact Memory.wf_fillPool _ _ hw
@[simp] theorem applySlot_mem (target : DevCfg) (a : Applied) (i : Nat) : (applySlot target a i).s.mem = a.s.mem := by
  unfold applySlot
  dsimp only
  split
  · split <;> rfl
  · split
    · split <;> exact State.startArm_mem _ _
    · split <;> simp
theorem Memory.wf_applyPart {s : State} (enters : Bool) (p : Nat) (target : DevCfg) (hw : Memory.wf s.mem) :
    Memory.wf (s.applyPart enters p target).s.mem := by
  unfold State.applyPart
  dsimp only
  rw [State.retargetAll_mem]
  dsimp only
  refine foldl_keeps (fun u : Applied => Memory.wf u.s.mem) _ _ (fun u a _ hu => ?_) _ ?_
  · rw [applySlot_mem]
    exact hu
  · refine Memory.wf_applyPool _ _ _ ?_
    refine foldl_keeps (fun u : Applied => Memory.wf u.s.mem) _ _ (fun u a _ hu => ?_) _ ?_
    · rw [applyCtx_mem]
      exact hu
    · dsimp only
      exact hw
theorem Memory.wf_epochEvent {s : State} (p : Nat) (ini : Ini) (mask : BitVec 16) (changed : Bool) (hw : Memory.wf s.mem) :
    Memory.wf (s.epochEvent p ini mask changed).mem := Memory.wf_event _ _ _ _ _ _ (Memory.wf_ite (Memory.wf_of_mem
        (State.modPart_mem _ _ _) hw) hw)
@[simp] theorem State.noteCommit_mem (s : State) (old new : Commit) (mask : BitVec 16) : (s.noteCommit old new mask).mem = s.mem := by
  fun_cases State.noteCommit s old new mask <;> rfl
@[simp] theorem State.kickClear_mem (s : State) : s.kickClear.mem = s.mem := by
  fun_cases State.kickClear s
  case case1 => exact rfl
  case case2 => exact State.foldl_mem _ _ (fun _ _ => State.modPan_mem _ _ _)
@[simp] theorem State.flushChans_mem (s : State) (p : Nat) : (s.flushChans p).mem = s.mem :=
  State.foldl_mem _ _ (fun _ _ => State.ite_mem (State.modChan_mem _ _ _) rfl)
theorem Memory.wf_dropOperatorKeys {s : State} (old new : DevCfg) (hw : Memory.wf s.mem) : Memory.wf (s.dropOperatorKeys old new).mem :=
  Memory.wf_settleEngines (Memory.wf_of_mem (State.zeroiseWhere_mem _ _) hw)
theorem Memory.wf_tearDown {s : State} (p : Nat) (hw : Memory.wf s.mem) : Memory.wf (s.tearDown p).mem := by
  unfold State.tearDown
  dsimp only
  refine Memory.wf_settle _ ?_
  dsimp only
  rw [State.modPart_mem, State.flushChans_mem]
  refine Memory.wf_settleEngines ?_
  rw [State.zeroiseWhere_mem]
  refine foldl_keeps (fun u : State => Memory.wf u.mem) _ _ (fun u a _ hu => ?_) _ ?_
  · exact Memory.wf_releaseSeq _ hu
  · refine foldl_keeps (fun u : State => Memory.wf u.mem) _ _ (fun u a _ hu => ?_) _ ?_
    · rw [State.startDisarm_mem, State.raceAbort_mem]
      exact hu
    · dsimp only
      refine foldl_keeps (fun u : State => Memory.wf u.mem) _ _ (fun u a _ hu => ?_) _ ?_
      · exact Memory.wf_completeOne _ _ hu
      · refine foldl_keeps (fun u : State => Memory.wf u.mem) _ _ (fun u a _ hu => ?_) _ ?_
        · rw [State.modPan_mem]
          exact hu
        · rw [State.modPart_mem]
          exact hw
theorem State.mapQueues_mem {s : State} {p : Nat} {f : State → Nat → State} (hf : ∀ t q, (f t q).mem = t.mem) :
    (s.mapQueues p f).mem = s.mem := by
  unfold State.mapQueues
  exact foldl_keeps (fun u : State => u.mem = s.mem) _ _ (fun u a _ hu => by rw [hf, hu]) _ rfl
theorem Memory.wf_resetPart {s : State} (p : Nat) (pans : List Nat) (slots : List Nat) (hw : Memory.wf s.mem) :
    Memory.wf (s.resetPart p pans slots).mem := by
  unfold State.resetPart
  extract_lets s1 s2 s3 s4 noKv s5
  have h1 : s1.mem = s.mem := State.mapQueues_mem fun _ _ => rfl
  have h2 : s2.mem = s1.mem := foldl_keeps (fun u : State => u.mem = s1.mem) _ _ (fun u i _ hu => by exact hu) _ rfl
  have h3 : s3.mem = s2.mem := foldl_keeps (fun u : State => u.mem = s2.mem) _ _ (fun u i _ hu => by exact hu) _ rfl
  have h5 : s5.mem = s.mem := h3.trans (h2.trans h1)
  exact Memory.wf_resetMr _ (by rw [h5]; exact hw)
theorem Memory.wf_enterPart {s : State} (m : Commit) (p : Nat) (hw : Memory.wf s.mem) : Memory.wf (s.enterPart m p).mem := by
  unfold State.enterPart
  dsimp only
  rw [State.noteCommit_mem]
  refine Memory.wf_epochEvent _ _ _ _ ?_
  rw [State.retargetAll_mem]
  refine foldl_keeps (fun u : Applied => Memory.wf u.s.mem) _ _ (fun u a _ hu => ?_) _ ?_
  · rw [applySlot_mem]
    exact hu
  · split
    · refine foldl_keeps (fun u : Applied => Memory.wf u.s.mem) _ _ (fun u a _ hu => ?_) _ ?_
      · rw [applyCtx_mem]
        exact hu
      · dsimp only
        rw [State.modPart_mem]
        exact hw
    · dsimp only
      rw [State.modPart_mem]
      exact hw
@[simp] theorem State.commitIdle_mem (s : State) (target : DevCfg) (p : Nat) : (s.commitIdle target p).2.mem = s.mem := rfl
theorem Memory.wf_beginDevice {s : State} (m : Commit) (hw : Memory.wf s.mem) : Memory.wf (s.beginDevice m).mem := by
  unfold State.beginDevice
  dsimp only
  refine Memory.wf_finishCommits ?_
  rw [State.kickClear_mem, State.noteCommit_mem]
  refine foldl_keeps (fun u : State => Memory.wf u.mem) _ _ (fun u a _ hu => ?_) _ ?_
  · split
    · exact Memory.wf_epochEvent _ _ _ _ hu
    · exact hu
  · refine foldl_keeps (fun u : Applied => Memory.wf u.s.mem) _ _ (fun u a _ hu => ?_) _ ?_
    · rw [applySlot_mem]
      exact hu
    · refine foldl_keeps (fun u : Applied => Memory.wf u.s.mem) _ _ (fun u a _ hu => ?_) _ ?_
      · rw [applyCtx_mem]
        exact hu
      · dsimp only
        refine foldl_keeps (fun u : State × Tab (BitVec 16) => Memory.wf u.1.mem) _ _ (fun u a _ hu => ?_) _ ?_
        · dsimp only
          rw [State.commitIdle_mem]
          exact hu
        · dsimp only
          refine Memory.wf_dropOperatorKeys _ _ ?_
          dsimp only
          refine foldl_keeps (fun u : State => Memory.wf u.mem) _ _ (fun u a _ hu => ?_) _ ?_
          · exact Memory.wf_tearDown _ hu
          · refine foldl_keeps (fun u : State => Memory.wf u.mem) _ _ (fun u a _ hu => ?_) _ ?_
            · rw [State.startDisarm_mem]
              exact hu
            · exact hw
theorem Memory.wf_nextDevice {s : State} (hw : Memory.wf s.mem) : Memory.wf s.nextDevice.mem := by
  fun_cases State.nextDevice s
  case case1 | case2 => exact hw
  case case3 => exact Memory.wf_beginDevice _ hw
theorem Memory.wf_askCommit {s : State} (m : Commit) (hw : Memory.wf s.mem) : Memory.wf (s.askCommit m).mem := Memory.wf_nextDevice hw
theorem Memory.wf_commitHere {s : State} (m : Commit) (p : Nat) (hw : Memory.wf s.mem) : Memory.wf (s.commitHere m p).mem :=
  Memory.wf_finishCommits (Memory.wf_of_mem (State.noteCommit_mem _ _ _ _) (Memory.wf_epochEvent _ _ _ _ (Memory.wf_applyPart _ _ _ hw)))
theorem Memory.wf_gainHere {s : State} (m : Commit) (p : Nat) (hw : Memory.wf s.mem) : Memory.wf (s.gainHere m p).mem :=
  Memory.wf_finishCommits (Memory.wf_of_mem (State.noteCommit_mem _ _ _ _) (Memory.wf_epochEvent _ _ _ _ (Memory.wf_applyPart _ _ _ hw)))
theorem Memory.wf_epochBoundary {s : State} (p : Nat) (hw : Memory.wf s.mem) : Memory.wf (epochBoundary p s).mem := by
  fun_cases epochBoundary p s
  case case1 | case2 | case4 | case5 | case8 => exact hw
  case case3 => exact Memory.wf_nextDevice (Memory.wf_commitHere _ _ hw)
  case case6 => exact Memory.wf_nextDevice (Memory.wf_finishCommits (Memory.wf_enterPart _ _ hw))
  case case7 => exact Memory.wf_nextDevice (Memory.wf_gainHere _ _ hw)
theorem Memory.wf_partitionClearDone {s : State} (p : Nat) (v : ClearVerdict) (hw : Memory.wf s.mem) :
    Memory.wf (partitionClearDone p v s).mem := by
  fun_cases partitionClearDone p v s
  case case1 | case2 => exact hw
  case case3 => exact Memory.wf_of_pair ‹State.verify _ _ _ _ _ = _› (Memory.wf_verify _ _ _ _ hw)
  case case4 | case5 => exact Memory.wf_of_mem (State.kickClear_mem _) (Memory.wf_of_mem (State.modPart_mem _ _ _)
      (Memory.wf_event _ _ _ _ _ _ (Memory.wf_resetPart _ _ _ (Memory.wf_foldl _ _ (fun _ _ hu => Memory.wf_wipePan _ hu)
      (Memory.wf_of_pair ‹State.verify _ _ _ _ _ = _› (Memory.wf_verify _ _ _ _ hw))))))
  case case6 => exact Memory.wf_nextDevice (Memory.wf_finishCommits (Memory.wf_enterPart _ _ (Memory.wf_of_mem (State.kickClear_mem _)
      (Memory.wf_of_mem (State.modPart_mem _ _ _) (Memory.wf_event _ _ _ _ _ _ (Memory.wf_resetPart _ _ _ (Memory.wf_foldl _ _
      (fun _ _ hu => Memory.wf_wipePan _ hu) (Memory.wf_of_pair ‹State.verify _ _ _ _ _ = _› (Memory.wf_verify _ _ _ _ hw)))))))))
theorem Memory.wf_commitPartAct {s : State} (c : Cmd) (hw : Memory.wf s.mem) : Memory.wf (commitPartAct c s).mem := by
  unfold commitPartAct
  dsimp only
  refine Memory.wf_commitHere _ _ ?_
  dsimp only
  rw [State.modCmd_mem]
  exact hw
theorem Memory.wf_commitDeviceAct {s : State} (c : Cmd) (hw : Memory.wf s.mem) : Memory.wf (commitDeviceAct c s).mem :=
  Memory.wf_ite (Memory.wf_complete _ _ hw) (Memory.wf_askCommit _ (Memory.wf_of_mem (State.modCmd_mem _ _ _) hw))
@[simp] theorem State.cancelSleep_mem (s : State) : s.cancelSleep.mem = s.mem := State.ite_mem rfl rfl
theorem Memory.wf_prtCommit {s : State} (p : Nat) (ini : Ini) (go discard : Bool) (hw : Memory.wf s.mem) :
    Memory.wf (prtCommit p ini go discard s).2.mem := by
  fun_cases prtCommit p ini go discard s
  case case1 | case4 => exact hw
  case case2 keep now s1 s2 => 
    have h1 : s2.mem = s.mem := foldl_keeps (fun u : State => u.mem = s.mem) _ _ (fun u i _ hu => by exact hu) _ rfl
    have h2 := State.mapQueues_mem (s := s2) (p := p) (f := fun s q => { s with shadow := s.shadow.setCtx q (s.cfg.ctx q) }) fun _ _ => rfl
    exact (h2.trans h1) ▸ hw
  case case3 => exact Memory.wf_askCommit _ (by rw [State.cancelSleep_mem]; exact hw)
theorem Memory.wf_glbCommit {s : State} (ini : Ini) (go discard : Bool) (hw : Memory.wf s.mem) :
    Memory.wf (glbCommit ini go discard s).2.mem := by
  unfold glbCommit
  exact Memory.wf_ite_snd hw (Memory.wf_ite_snd hw (Memory.wf_ite_snd (Memory.wf_askCommit _ (Memory.wf_of_mem
      (State.cancelSleep_mem _) hw)) hw))
@[simp] theorem latchedLow_mem (ini : Ini) (off : Nat) (s : State) : (latchedLow ini off s).mem = s.mem := by
  fun_cases latchedLow ini off s <;> rfl
@[simp] theorem latchedHigh_mem (ini : Ini) (off : Nat) (s : State) : (latchedHigh ini off s).mem = s.mem := by
  fun_cases latchedHigh ini off s <;> rfl

end Sys2Proof.Machine

/-! SUPPORT. The canonical form of memory, Saltern's services and attestation (R318, R401). -/
namespace Sys2Proof.Machine

@[simp] theorem State.answer_mem (s : State) (c : Nat) (r : SvcReq) (status : Nat) (ws : List Nat) (clamp : Bool) :
    (s.answer c r status ws clamp).mem = s.mem := State.reply_mem _ _ _ _ _ _
@[simp] theorem State.svcFail_mem (s : State) (c : Nat) (r : SvcReq) (st : Nat) (clamp hashed : Bool) :
    (s.svcFail c r st clamp hashed).mem = s.mem := (State.answer_mem _ _ _ _ _ _).trans (State.ite_mem (State.countShort_mem _) rfl)
@[simp] theorem State.svcFill_mem (s : State) (a : Ini) (n world type usage origin : Nat) (m : List Byte) :
    (s.svcFill a n world type usage origin m).mem = s.mem := State.fillSlot_mem _ _ _ _ _ _ _ _
@[simp] theorem keyInfoAct_mem (c : Nat) (a : Ini) (r : SvcReq) (s : State) : (keyInfoAct c a r s).mem = s.mem := by
  fun_cases keyInfoAct c a r s <;> rfl
@[simp] theorem keyDeriveAct_mem (c : Nat) (a : Ini) (r : SvcReq) (s : State) : (keyDeriveAct c a r s).mem = s.mem := by
  fun_cases keyDeriveAct c a r s <;> simp
theorem Memory.wf_keyGenerateAct {s : State} (c : Nat) (a : Ini) (r : SvcReq) (hw : Memory.wf s.mem) :
    Memory.wf (keyGenerateAct c a r s).mem := by
  have ha {t : State} (st : Nat) (l : List Nat) (ht : Memory.wf t.mem) : Memory.wf (t.answer c r st l).mem :=
    Memory.wf_of_mem (State.answer_mem _ _ _ _ _ _) ht
  unfold keyGenerateAct
  extract_lets type dest len
  clear_value type dest len
  split
  · exact ha _ _ hw
  · split
    · exact ha _ _ hw
    · split
      · exact ha _ _ hw
      · split
        · exact ha _ _ hw
        · split
          · exact ha _ _ hw
          · split
            · exact ha _ _ hw
            · split
              · exact ha _ _ hw
              · rename_i hd
                have ht (n world type usage : Nat) (m : List Byte) :=
                  Memory.wf_of_mem (State.svcFill_mem _ a n world type usage 2 m) (Memory.wf_of_mem (State.drbgTake_mem hd) hw)
                dsimp only
                refine ha _ _ ?_
                split
                · exact ht _ _ _ _ _
                · split
                  · exact Memory.wf_engineWrite _ _ (Memory.wf_of_mem (State.pkePublic_mem _ _) (ht _ _ _ _ _))
                  · exact ht _ _ _ _ _
@[simp] theorem keyImportAct_mem (c : Nat) (a : Ini) (r : SvcReq) (s : State) : (keyImportAct c a r s).mem = s.mem := by
  fun_cases keyImportAct c a r s <;> simp
theorem Memory.wf_keyHmacAct {s : State} (c : Nat) (a : Ini) (r : SvcReq) (hw : Memory.wf s.mem) : Memory.wf
    (keyHmacAct c a r s).mem := by
  fun_cases keyHmacAct c a r s
  case case1 | case2 => exact Memory.wf_of_mem (State.answer_mem _ _ _ _ _ _) hw
  case case3 => exact Memory.wf_of_mem (State.svcFail_mem _ _ _ _ _ _) hw
  case case4 => exact Memory.wf_of_mem (State.answer_mem _ _ _ _ _ _) (Memory.wf_engineWrite _ _ hw)
theorem Memory.wf_keySignAct {s : State} (c : Nat) (a : Ini) (r : SvcReq) (hw : Memory.wf s.mem) : Memory.wf
    (keySignAct c a r s).mem := by
  fun_cases keySignAct c a r s
  case case1 | case2 | case3 | case4 | case6 => exact Memory.wf_of_mem (State.answer_mem _ _ _ _ _ _) hw
  case case5 => exact Memory.wf_of_mem (State.svcFail_mem _ _ _ _ _ _) hw
  case case7 => exact Memory.wf_of_mem (State.answer_mem _ _ _ _ _ _) (Memory.wf_engineWrite _ _ (Memory.wf_of_mem
      (signMsg_mem ‹signMsg _ _ _ _ = _›) hw))
@[simp] theorem keyEcdhAct_mem (c : Nat) (a : Ini) (r : SvcReq) (s : State) : (keyEcdhAct c a r s).mem = s.mem := by
  fun_cases keyEcdhAct c a r s <;> simp
theorem Memory.wf_keyZeroiseAct {s : State} (c : Nat) (a : Ini) (r : SvcReq) (hw : Memory.wf s.mem) :
    Memory.wf (keyZeroiseAct c a r s).mem := by
  fun_cases keyZeroiseAct c a r s
  case case1 | case2 | case3 => exact Memory.wf_of_mem (State.answer_mem _ _ _ _ _ _) hw
  case case4 => exact Memory.wf_of_mem (State.answer_mem _ _ _ _ _ _) (Memory.wf_settleEngines (Memory.wf_of_mem
      (State.zeroiseSlot_mem _ _) hw))
theorem Memory.wf_keyPublicAct {s : State} (c : Nat) (a : Ini) (r : SvcReq) (hw : Memory.wf s.mem) :
    Memory.wf (keyPublicAct c a r s).mem := by
  fun_cases keyPublicAct c a r s
  case case1 | case2 | case3 | case4 | case5 => exact Memory.wf_of_mem (State.answer_mem _ _ _ _ _ _) hw
  case case6 => exact Memory.wf_of_mem (State.answer_mem _ _ _ _ _ _) (Memory.wf_engineWrite _ _ (Memory.wf_of_mem
      (State.pkePublic_mem _ _) hw))
@[simp] theorem otpReadAct_mem (c : Nat) (x : Ini) (r : SvcReq) (s : State) : (otpReadAct c x r s).mem = s.mem :=
  State.ite_mem (State.answer_mem _ _ _ _ _ _) (State.answer_mem _ _ _ _ _ _)
@[simp] theorem otpProgramAct_mem (c : Nat) (a : Ini) (r : SvcReq) (s : State) : (otpProgramAct c a r s).mem = s.mem := by
  fun_cases otpProgramAct c a r s <;> simp
@[simp] theorem otpLockAct_mem (c : Nat) (a : Ini) (r : SvcReq) (s : State) : (otpLockAct c a r s).mem = s.mem := by
  fun_cases otpLockAct c a r s <;> simp
theorem Memory.wf_digestAct {s : State} (c : Nat) (a : Ini) (r : SvcReq) (hw : Memory.wf s.mem) : Memory.wf (digestAct c a r s).mem := by
  fun_cases digestAct c a r s
  case case1 | case2 => exact Memory.wf_of_mem (State.answer_mem _ _ _ _ _ _) hw
  case case3 => exact Memory.wf_of_mem (State.svcFail_mem _ _ _ _ _ _) hw
  case case4 => exact Memory.wf_of_mem (State.answer_mem _ _ _ _ _ _) (Memory.wf_engineWrite _ _ hw)
@[simp] theorem hmacVerifyAct_mem (c : Nat) (a : Ini) (r : SvcReq) (s : State) : (hmacVerifyAct c a r s).mem = s.mem := by
  fun_cases hmacVerifyAct c a r s <;> rfl
@[simp] theorem randomAct_mem (c : Nat) (x : Ini) (r : SvcReq) (s : State) : (randomAct c x r s).mem = s.mem := by
  unfold randomAct
  dsimp only
  split
  · rw [State.answer_mem]
  · rw [State.answer_mem]
    rename_i hu
    rw [State.drbgTake_mem hu]
@[simp] theorem serviceTimeout_mem (c : Nat) (s : State) : (serviceTimeout c s).mem = s.mem := by
  fun_cases serviceTimeout c s
  case case1 | case2 | case3 => exact rfl
  case case4 => exact (State.settleMbx_mem _).trans ((State.reply_mem _ _ _ _ _ _).trans (State.modChan_mem _ _ _))
theorem State.aliasCert_mem {s t : State} {dev subj : Nat} {bs : List Byte} (h : s.aliasCert dev subj = some (bs, t)) : t.mem = s.mem := by
  unfold State.aliasCert at h
  dsimp only at h
  split at h
  · split at h
    · exact absurd h (by simp)
    · rename_i hg
      simp only [Option.some.injEq, Prod.mk.injEq] at h
      rw [← h.2, signMsg_mem hg]
  · exact absurd h (by simp)
theorem State.boot_update_mem (s : State) (b : Boot) : ({ s with boot := b } : State).mem = s.mem := rfl
@[simp] theorem State.issueCerts_mem (s : State) : s.issueCerts.mem = s.mem := by
  fun_cases State.issueCerts s
  case case1 => rfl
  case case2 a t ha _ => exact State.aliasCert_mem ha
  case case3 a t ha b u hb => rw [State.boot_update_mem, State.aliasCert_mem hb, State.aliasCert_mem ha]
theorem linkRecord_mem {body eccKey mlKey bs : List Byte} {s t : State} (h : linkRecord body eccKey mlKey s = some (bs, t)) :
    t.mem = s.mem := by
  unfold linkRecord at h
  split at h
  · exact absurd h (by simp)
  · rename_i ha
    split at h
    · exact absurd h (by simp)
    · rename_i hb
      simp only [Option.some.injEq, Prod.mk.injEq] at h
      rw [← h.2, signMsg_mem hb, signMsg_mem ha]
theorem State.attest_update_mem (s : State) (a : Attest) : ({ s with attest := a } : State).mem = s.mem := rfl
theorem Memory.wf_attestReportAct {s : State} (c : Nat) (a : Ini) (r : SvcReq) (hw : Memory.wf s.mem) :
    Memory.wf (attestReportAct c a r s).mem := by
  fun_cases attestReportAct c a r s
  case case9 => rw [State.answer_mem, signMsg_mem ‹signMsg kP384 _ _ _ = _›]; exact hw
  case case10 =>
    rw [State.answer_mem]
    refine Memory.wf_engineWrite _ _ ?_
    rw [State.attest_update_mem, signMsg_mem ‹signMsg kMldsa _ _ _ = _›, signMsg_mem ‹signMsg kP384 _ _ _ = _›]
    exact hw
  case case1 | case2 | case3 | case5 | case6 | case7 | case8 => rw [State.answer_mem]; exact hw
  case case4 => rw [State.svcFail_mem]; exact hw
theorem Memory.wf_attestLogAct {s : State} (c : Nat) (a : Ini) (r : SvcReq) (hw : Memory.wf s.mem) :
    Memory.wf (attestLogAct c a r s).mem := by
  unfold attestLogAct
  exact Memory.wf_ite (Memory.wf_of_mem (State.answer_mem _ _ _ _ _ _) hw) (Memory.wf_of_mem (State.answer_mem _ _ _ _ _ _)
      (Memory.wf_engineWrite _ _ hw))
theorem Memory.wf_attestChainAct {s : State} (c : Nat) (a : Ini) (r : SvcReq) (hw : Memory.wf s.mem) :
    Memory.wf (attestChainAct c a r s).mem := by
  fun_cases attestChainAct c a r s
  case case1 | case2 | case3 => exact Memory.wf_of_mem (State.answer_mem _ _ _ _ _ _) hw
  case case4 => exact Memory.wf_of_mem (State.answer_mem _ _ _ _ _ _) (Memory.wf_engineWrite _ _ hw)
@[simp] theorem attestMrAct_mem (c : Nat) (a : Ini) (r : SvcReq) (s : State) : (attestMrAct c a r s).mem = s.mem :=
  State.ite_mem (State.answer_mem _ _ _ _ _ _) (State.answer_mem _ _ _ _ _ _)
theorem Memory.wf_extendOtp {s : State} (hw : Memory.wf s.mem) : Memory.wf s.extendOtp.mem := Memory.wf_extend _ _ _ _ _ _ hw
theorem Memory.wf_extendLc {s : State} (hw : Memory.wf s.mem) : Memory.wf s.extendLc.mem := Memory.wf_extend _ _ _ _ _ _ hw
theorem Memory.wf_extendDebug {s : State} (x : Session) (hw : Memory.wf s.mem) : Memory.wf (s.extendDebug x).mem :=
  Memory.wf_extend _ _ _ _ _ _ hw

end Sys2Proof.Machine

/-! SUPPORT. The canonical form of memory, images, the boot and confluences (R107, R312, R316, R423). -/
namespace Sys2Proof.Machine

@[simp] theorem PEnv.clamp_mem (e : PEnv) (s : State) (b : Bool) (m : BitVec 16) : (e.clamp s b m).mem = s.mem :=
  State.ite_mem (State.clampCmd_mem _ _ _) rfl
theorem Memory.wf_scoreAct {s : State} (e : PEnv) (hw : Memory.wf s.mem) : Memory.wf (scoreAct e s).s.mem := by
  unfold scoreAct
  dsimp only
  split
  · dsimp only
    exact hw
  · rw [plain_mem]
    refine foldl_keeps (fun u : State => Memory.wf u.mem) _ _ (fun u a _ hu => ?_) _ ?_
    · rw [State.addFlags_mem]
      refine foldl_keeps (fun u : State => Memory.wf u.mem) _ _ (fun u a _ hu => ?_) _ ?_
      · exact Memory.wf_putElems _ _ _ _ _ hu
      · exact hu
    · rw [PEnv.clamp_mem]
      exact hw
theorem Memory.wf_softmaxAct {s : State} (e : PEnv) (hw : Memory.wf s.mem) : Memory.wf (softmaxAct e s).s.mem := by
  fun_cases softmaxAct e s
  exact Memory.wf_of_mem (plain_mem _ _) (Memory.wf_foldl _ _ (fun _ _ hu => Memory.wf_of_mem
      (State.addFlags_mem _ _ _) (Memory.wf_slotWrite _ _ _ _ hu)) hw)
theorem Memory.wf_valueAct {s : State} (e : PEnv) (hw : Memory.wf s.mem) : Memory.wf (valueAct e s).s.mem := by
  unfold valueAct
  dsimp only
  split
  · dsimp only
    exact hw
  · rw [plain_mem]
    refine foldl_keeps (fun u : State => Memory.wf u.mem) _ _ (fun u a _ hu => ?_) _ ?_
    · rw [State.addFlags_mem]
      exact Memory.wf_slotWrite _ _ _ _ hu
    · rw [PEnv.clamp_mem]
      exact hw
@[simp] theorem State.flashErase_mem (s : State) (a n : Nat) : (s.flashErase a n).mem = s.mem := rfl
@[simp] theorem State.flashProg_mem (s : State) (a : Nat) (bs : List Byte) : (s.flashProg a bs).mem = s.mem := rfl
theorem Memory.wf_land {s : State} (k : ImgKind) (off : Nat) (bs : List Byte) (hw : Memory.wf s.mem) : Memory.wf
    (s.land k off bs).mem := by
  fun_cases State.land s k off bs
  case case1 | case4 | case6 => exact hw
  case case2 => exact Memory.wf_writeKnown _ _ hw
  case case3 | case5 => exact Memory.wf_write _ _ hw
@[simp] theorem State.writeBind_mem (s : State) : s.writeBind.mem = s.mem :=
  State.ite_mem rfl (State.ite_mem (State.flashProg_mem _ _ _) ((State.flashProg_mem _ _ _).trans (State.flashErase_mem _ _ _)))
@[simp] theorem State.burn_mem (s : State) (l : List (Nat × Nat)) : (s.burn l).2.mem = s.mem := rfl
@[simp] theorem State.advanceSvn_mem (s : State) (k : ImgKind) (img : List Byte) : (s.advanceSvn k img).mem = s.mem := by
  unfold State.advanceSvn
  dsimp only
  split
  · rfl
  · split
    · dsimp only
    · dsimp only
      rw [State.burn_mem]
@[simp] theorem State.revokeKey_mem (s : State) (img : List Byte) (k : Nat) : (s.revokeKey img k).mem = s.mem := by
  unfold State.revokeKey
  dsimp only
  split
  · rfl
  · dsimp only
    rw [State.burn_mem]
theorem Memory.wf_commitSvns {s : State} (hw : Memory.wf s.mem) : Memory.wf s.commitSvns.mem := by
  unfold State.commitSvns
  extract_lets before go s1 s2
  have hgo (t : State) (k : ImgKind) (img : Option (List Byte)) : (go t k img).mem = t.mem := by
    cases img with
    | none => rfl
    | some i => exact State.advanceSvn_mem t k i
  have h1 : s1.mem = s.mem := (hgo _ _ _).trans ((hgo _ _ _).trans (hgo s _ _))
  have h2 : s2.mem = s1.mem := by
    unfold s2
    split
    · exact foldl_keeps (fun u : State => u.mem = s1.mem) _ _ (fun u k _ hu => (State.revokeKey_mem u _ _).trans hu) _ rfl
    · rfl
  have hs : Memory.wf s2.mem := (h2.trans h1) ▸ hw
  split
  · exact hs
  · exact Memory.wf_extendOtp hs
theorem Memory.wf_applyDevice {s : State} (r : CfgRec) (hw : Memory.wf s.mem) : Memory.wf (s.applyDevice r).mem :=
  Memory.wf_of_mem (State.setMargin_mem _ _) hw
@[simp] theorem State.applyMbx_mem (s : State) (r : CfgRec) : (s.applyMbx r).mem = s.mem := State.ite_mem rfl (State.modChan_mem _ _ _)
@[simp] theorem State.trainPorts_mem (s : State) : s.trainPorts.mem = s.mem :=
  State.foldl_mem _ _ (fun _ _ => State.ite_mem rfl (State.withhold_mem _ _ _ _ _))
@[simp] theorem bootCtx_mem (p : Nat) (want : DevCfg) (a : Applied) (q : Nat) : (bootCtx p want a q).s.mem = a.s.mem :=
  State.settleCtx_mem _ _
theorem Memory.wf_applyConfig {s : State} (rs : List CfgRec) (hw : Memory.wf s.mem) : Memory.wf (s.applyConfig rs).mem := by
  unfold State.applyConfig
  dsimp only
  refine foldl_keeps (fun u : State => Memory.wf u.mem) _ _ (fun u a _ hu => ?_) _ ?_
  · rw [State.applyMbx_mem]
    exact hu
  · rw [State.newRound_mem]
    refine foldl_keeps (fun u : State => Memory.wf u.mem) _ _ (fun u a _ hu => ?_) _ ?_
    · split
      · rw [State.modPart_mem]
        exact hu
      · exact hu
    · refine foldl_keeps (fun u : State × Tab (BitVec 16) => Memory.wf u.1.mem) _ _ (fun u a _ hu => ?_) _ ?_
      · dsimp only
        rw [State.commitIdle_mem]
        exact hu
      · dsimp only
        refine foldl_keeps (fun u : State × Tab (BitVec 16) => Memory.wf u.1.mem) _ _ (fun u a _ hu => ?_) _ ?_
        · dsimp only
          refine Memory.wf_applyPool _ _ _ ?_
          refine foldl_keeps (fun u : Applied => Memory.wf u.s.mem) _ _ (fun u a _ hu => ?_) _ ?_
          · rw [bootCtx_mem]
            exact hu
          · dsimp only
            exact hu
        · dsimp only
          exact hw
theorem Memory.wf_vddAonLoss {s : State} (hw : Memory.wf s.mem) : Memory.wf (vddAonLoss s).mem := by
  unfold vddAonLoss
  split
  · exact hw
  · dsimp only
    refine Memory.wf_porReset _ ?_
    rw [State.draw_mem]
    exact hw
@[simp] theorem i3cSample_mem (a b c : BitVec 3) (s : State) : (i3cSample a b c s).mem = s.mem :=
  State.ite_mem rfl (State.ite_mem rfl rfl)
theorem Memory.wf_goDark {s : State} (hw : Memory.wf s.mem) : Memory.wf s.goDark.mem := Tab.wf_filter _ hw
@[simp] theorem State.scanCkpt_mem (s : State) : s.scanCkpt.mem = s.mem := by
  fun_cases State.scanCkpt s
  rfl
@[simp] theorem State.choosePath_mem (s : State) : s.choosePath.mem = s.mem := rfl
@[simp] theorem State.setPhase_mem (s : State) (p : Phase) : (s.setPhase p).mem = s.mem := rfl
@[simp] theorem State.setStage_mem (s : State) (b : BootStage) : (s.setStage b).mem = s.mem := rfl
@[simp] theorem State.setNeed_mem (s : State) (n : BitVec 3) : (s.setNeed n).mem = s.mem := rfl
@[simp] theorem State.setTrans_mem (s : State) (c : BitVec 4) : (s.setTrans c).mem = s.mem := rfl
@[simp] theorem State.stopScrapped_mem (s : State) : s.stopScrapped.mem = s.mem := (State.setStage_mem _ _).trans (State.setPhase_mem _ _)
theorem Memory.wf_afterExamine {s : State} (hw : Memory.wf s.mem) : Memory.wf s.afterExamine.mem := by
  fun_cases State.afterExamine s
  case case1 => exact Memory.wf_of_mem (State.stopScrapped_mem _) (Memory.wf_of_mem (State.setPhase_mem _ _) (Memory.wf_of_mem
      (State.deriveDevice_mem _) (Memory.wf_extendLc hw)))
  case case2 => exact Memory.wf_of_mem (State.setStage_mem _ _) (Memory.wf_of_mem (State.setPhase_mem _ _) (Memory.wf_of_mem
      (State.deriveDevice_mem _) (Memory.wf_extendLc hw)))
theorem State.edgeBoot_update_mem (s : State) (e : Edge) (b : Boot) : ({ s with edge := e, boot := b } : State).mem = s.mem := rfl
theorem Memory.wf_romStart {s : State} (env : BootEnv) (hw : Memory.wf s.mem) : Memory.wf (s.romStart env).mem := by
  unfold State.romStart
  extract_lets s1 s2 _ _ s3 s4 _ s5 s6 s7 _ s8
  have h1 : Memory.wf s1.mem := Memory.wf_of_mem (State.powerGroups_mem _) (Memory.wf_of_mem (bootRead_mem _ _) hw)
  split
  · exact Memory.wf_of_mem (State.stopScrapped_mem _) h1
  · have h3 : s3.mem = s1.mem := (State.edgeBoot_update_mem s2 _ _).trans (State.choosePath_mem s1)
    have h4 : s4.mem = s1.mem := (State.loadCode_mem s3 _).trans h3
    have h5 : Memory.wf s5.mem := h4 ▸ h1
    have h6 : Memory.wf s6.mem := Memory.wf_ite (Memory.wf_of_mem (State.scanCkpt_mem _) h5) h5
    have h7 : Memory.wf s7.mem := Memory.wf_foldl _ _ (fun _ _ hu => Memory.wf_extendDebug _ hu) (Memory.wf_extendOtp h6)
    split
    · exact h7
    · exact Memory.wf_afterExamine (Memory.wf_ite (Memory.wf_of_mem (State.setTrans_mem _ _) h7) h7)
@[simp] theorem State.noteSlot_mem (s : State) (i code : Nat) : (s.noteSlot i code).mem = s.mem := rfl
@[simp] theorem State.recover_mem (s : State) (cause : Option (BitVec 4)) (need : BitVec 3) : (s.recover cause need).mem = s.mem := rfl
@[simp] theorem State.takeBundle_mem (s : State) (src : BitVec 4) (sfw pfw : List Byte) : (s.takeBundle src sfw pfw).mem = s.mem := rfl
theorem Memory.wf_tryBundles : ∀ (l : List (Nat × Nat × Nat)) {s : State}, Memory.wf s.mem → Memory.wf (s.tryBundles l).mem
  | [], s, hw => by unfold State.tryBundles; rw [State.recover_mem]; exact hw
  | (src, a, slot) :: l, s, hw => by
    have hn (k : State) (c : Nat) (hk : Memory.wf k.mem) : Memory.wf (k.noteSlot slot c).mem := by rw [State.noteSlot_mem]; exact hk
    unfold State.tryBundles
    dsimp only
    split
    · rw [State.takeBundle_mem]; exact hn _ _ (Memory.wf_land _ _ _ hw)
    · exact Memory.wf_tryBundles l (hn _ _ (Memory.wf_land _ _ _ hw))
theorem Memory.wf_selectFirmware {s : State} (hw : Memory.wf s.mem) : Memory.wf s.selectFirmware.mem := by
  fun_cases State.selectFirmware s
  case case1 | case2 => exact Memory.wf_of_mem (State.recover_mem _ _ _) hw
  case case3 | case4 | case6 | case7 => exact Memory.wf_tryBundles _ hw
  case case5 => exact Memory.wf_of_mem (State.recover_mem _ _ _) (Memory.wf_tryBundles _ hw)
theorem Memory.wf_beginTally {s : State} (hw : Memory.wf s.mem) : Memory.wf s.beginTally.mem := Memory.wf_tallyPut _ hw
theorem Memory.wf_handOver {s : State} (sfw pfw : List Byte) (hw : Memory.wf s.mem) : Memory.wf (s.handOver sfw pfw).mem := by
  unfold State.handOver
  dsimp only
  refine Memory.wf_beginTally ?_
  dsimp only
  rw [State.setLocks_mem]
  refine Memory.wf_settleEngines ?_
  rw [State.zeroiseSlot_mem, State.loadCode_mem]
  refine Memory.wf_extend _ _ _ _ _ _ ?_
  rw [State.deriveCdi_mem]
  refine Memory.wf_extend _ _ _ _ _ _ ?_
  refine Memory.wf_extend _ _ _ _ _ _ ?_
  refine Memory.wf_write _ _ ?_
  refine Memory.wf_write _ _ ?_
  rw [State.forget_mem]
  exact Memory.wf_writeKnown _ _ hw
theorem Memory.wf_takeConfig {s : State} (src : BitVec 4) (img : List Byte) (hw : Memory.wf s.mem) :
    Memory.wf (s.takeConfig src img).mem := by
  fun_cases State.takeConfig s src img
  exact Memory.wf_of_mem (State.deriveAlias_mem _) (Memory.wf_commitSvns (Memory.wf_of_mem
      (State.writeBind_mem _) (Memory.wf_extend _ _ _ _ _ _ (Memory.wf_write _ _ hw))))
theorem Memory.wf_tryConfigs : ∀ (l : List (Nat × Nat × Nat)) (refused : Bool) {s :
    State}, Memory.wf s.mem → Memory.wf (s.tryConfigs refused l).mem
  | [], _, s, hw => by unfold State.tryConfigs; rw [State.recover_mem]; exact hw
  | (src, a, slot) :: l, refused, s, hw => by
    have hn (c : Nat) : Memory.wf ((s.land .cfg 0 (s.flashImage .cfg a)).noteSlot slot c).mem := by
      rw [State.noteSlot_mem]; exact Memory.wf_land _ _ _ hw
    unfold State.tryConfigs
    extract_lets img code t
    split
    · exact Memory.wf_tryConfigs l _ (hn _)
    · split
      · exact Memory.wf_tryConfigs l _ (by rw [State.boot_update_mem]; exact hn _)
      · exact Memory.wf_takeConfig _ _ (hn _)
theorem Memory.wf_selectConfig {s : State} (hw : Memory.wf s.mem) : Memory.wf s.selectConfig.mem :=
  Memory.wf_ite (Memory.wf_of_mem (State.recover_mem _ _ _) hw) (Memory.wf_tryConfigs _ _ hw)
theorem Memory.wf_applyFirst {s : State} (hw : Memory.wf s.mem) : Memory.wf s.applyFirst.mem := by
  fun_cases State.applyFirst s
  exact Memory.wf_of_mem (State.trainPorts_mem _) (Memory.wf_foldl _ _
      (fun _ _ hu => Memory.wf_applyDevice _ hu) hw)
theorem Memory.wf_applyRest {s : State} (hw : Memory.wf s.mem) : Memory.wf s.applyRest.mem := by
  fun_cases State.applyRest s
  exact Memory.wf_tallyMod _ _ (Memory.wf_of_mem (State.setLocks_mem _ _) (Memory.wf_applyConfig _ hw))
theorem Memory.wf_bootStep {s t : State} (h : s.bootStep = some t) (hw : Memory.wf s.mem) : Memory.wf t.mem := by
  unfold State.bootStep at h
  split at h
  · exact absurd h (by simp)
  · split at h
    · obtain ⟨e, -, rfl⟩ := Option.map_eq_some_iff.mp h
      exact Memory.wf_romStart _ hw
    · split at h
      · split at h
        · rw [← Option.some.inj h]; exact Memory.wf_handOver _ _ hw
        · exact absurd h (by simp)
      · split at h
        · exact absurd h (by simp)
        · rw [← Option.some.inj h]; exact Memory.wf_selectFirmware hw
    · split at h
      · exact absurd h (by simp)
      · rw [← Option.some.inj h]; exact Memory.wf_selectConfig hw
    · split at h
      · rw [← Option.some.inj h]; exact Memory.wf_applyFirst hw
      · split at h
        · exact absurd h (by simp)
        · rw [← Option.some.inj h]; exact Memory.wf_applyFirst (by rw [State.issueCerts_mem]; exact hw)
    · rw [← Option.some.inj h]; exact Memory.wf_applyRest hw
    all_goals exact absurd h (by simp)
theorem Memory.wf_boots {s : State} (hw : Memory.wf s.mem) : Memory.wf s.boots.mem :=
  State.boots_keeps (fun u => Memory.wf u.mem) (fun _ _ h => Memory.wf_bootStep h) s hw
@[simp] theorem porstRise_mem (env : BootEnv) (s : State) : (porstRise env s).mem = s.mem := State.ite_mem rfl rfl
theorem Memory.wf_strapSample {s : State} (a b c : StrapPins) (hw : Memory.wf s.mem) : Memory.wf (strapSample a b c s).mem :=
  Memory.wf_ite hw (Memory.wf_ite (Memory.wf_boots hw) hw)
theorem Memory.wf_bootClearDone {s : State} (v : ClearVerdict) (hw : Memory.wf s.mem) : Memory.wf (bootClearDone v s).mem := by
  unfold bootClearDone
  split
  · exact hw
  · split
    · dsimp only
      refine Memory.wf_boots ?_
      refine foldl_keeps (fun u : State => Memory.wf u.mem) _ _ (fun u a _ hu => ?_) _ ?_
      · exact Memory.wf_write _ _ hu
      · split
        · refine Memory.wf_writeKnown _ _ ?_
          dsimp only
          exact Memory.wf_verify _ _ _ _ hw
        · dsimp only
          exact Memory.wf_verify _ _ _ _ hw
    · split
      · dsimp only
        refine Memory.wf_boots ?_
        rw [State.setStage_mem]
        exact Memory.wf_verify _ _ _ _ hw
      · exact hw
theorem Memory.wf_selfTestDone {s : State} (p : Nat) (pass : Bool) (hw : Memory.wf s.mem) : Memory.wf (selfTestDone p pass s).mem :=
  Memory.wf_ite hw (Memory.wf_ite (Memory.wf_wipePan _ hw) (Memory.wf_bundPan _ _ _ hw))
@[simp] theorem trainingDone_mem (m1 : Bool) (res : Training) (s : State) : (trainingDone m1 res s).mem = s.mem := by
  fun_cases trainingDone m1 res s
  case case1 => exact rfl
  case case2 | case3 => exact State.setLink_mem _ _ _
  case case4 => exact (State.setLink_mem _ _ _).trans (State.ite_mem (State.record_mem _ _ _ _ _ _) rfl)
@[simp] theorem moduleDrop_mem (m1 : Bool) (s : State) : (moduleDrop m1 s).mem = s.mem := State.ite_mem rfl (State.setLink_mem _ _ _)
theorem State.prepareLink_mem {s t : State} {q : List Byte} {lc epoch : Nat} {link : Option (List Byte)}
    (h : s.prepareLink q lc epoch = some (link, t)) : t.mem = s.mem := by
  unfold State.prepareLink at h
  split at h
  · simp only [Option.some.injEq, Prod.mk.injEq] at h
    rw [h.2]
  · obtain ⟨r, hr, he⟩ := Option.map_eq_some_iff.mp h
    rw [← (Prod.mk.inj he).2, linkRecord_mem (bs := r.1) hr]
theorem Memory.wf_transProgram {s : State} (q : List Byte) (lc epoch : Nat) (link : Option (List Byte)) (hw : Memory.wf s.mem) :
    Memory.wf (s.transProgram q lc epoch link).mem := by
  unfold State.transProgram
  dsimp only
  split
  · split
    · rw [State.setTrans_mem]
      dsimp only
      rw [State.burn_mem]
      exact hw
    · refine Memory.wf_extend _ _ _ _ _ _ ?_
      dsimp only
      rw [State.zeroiseWhere_mem]
      dsimp only
      rw [State.burn_mem]
      exact hw
  · split
    · rw [State.setTrans_mem]
      dsimp only
      exact hw
    · refine Memory.wf_extend _ _ _ _ _ _ ?_
      dsimp only
      rw [State.zeroiseWhere_mem]
      dsimp only
      exact hw
theorem Memory.wf_transitionExamine {s : State} (hw : Memory.wf s.mem) : Memory.wf (transitionExamine s).mem := by
  fun_cases transitionExamine s
  case case1 | case5 => exact hw
  case case2 => exact Memory.wf_boots (Memory.wf_afterExamine hw)
  case case3 | case4 => exact Memory.wf_boots (Memory.wf_afterExamine (Memory.wf_of_mem (State.setTrans_mem _ _) hw))
  case case6 => exact Memory.wf_boots (Memory.wf_afterExamine (Memory.wf_transProgram _ _ _ _ (Memory.wf_of_mem
      (State.prepareLink_mem ‹State.prepareLink _ _ _ _ = _›) hw)))
@[simp] theorem State.writeBundle_mem (s : State) (a : Nat) (sfw pfw : List Byte) : (s.writeBundle a sfw pfw).2.mem = s.mem := by
  fun_cases State.writeBundle s a sfw pfw <;> rfl
@[simp] theorem State.writeConfig_mem (s : State) (a : Nat) (img : List Byte) : (s.writeConfig a img).2.mem = s.mem := by
  fun_cases State.writeConfig s a img <;> rfl
@[simp] theorem State.pushDone_mem (s : State) (code : Nat) : (s.pushDone code).mem = s.mem := by
  unfold State.pushDone
  rw [State.noteSlot_mem, State.boot_update_mem]
theorem Memory.wf_pushImage {s : State} (k : ImgKind) (bytes : List Byte) (back second : Bool) (hw : Memory.wf s.mem) :
    Memory.wf (s.pushImage k bytes back second).mem := by
  unfold State.pushImage
  dsimp only
  split
  · rw [State.pushDone_mem]
    exact hw
  · split
    · split
      · rw [State.pushDone_mem]
        exact hw
      · dsimp only
        refine Memory.wf_boots ?_
        split
        · rw [State.pushDone_mem, State.writeBundle_mem, State.takeBundle_mem, State.setPhase_mem, State.setNeed_mem]
          exact hw
        · rw [State.pushDone_mem, State.takeBundle_mem, State.setPhase_mem, State.setNeed_mem]
          exact hw
    · split
      · rw [State.pushDone_mem]
        exact hw
      · split
        · rw [State.pushDone_mem]
          dsimp only
          exact hw
        · refine Memory.wf_boots ?_
          split
          · rw [State.pushDone_mem, State.writeBundle_mem, State.takeBundle_mem, State.setPhase_mem, State.setNeed_mem]
            exact hw
          · rw [State.pushDone_mem, State.takeBundle_mem, State.setPhase_mem, State.setNeed_mem]
            exact hw
        · split
          · rw [State.pushDone_mem]
            dsimp only
            exact hw
          · refine Memory.wf_boots ?_
            split
            · rw [State.pushDone_mem, State.writeConfig_mem]
              refine Memory.wf_takeConfig _ _ ?_
              rw [State.setNeed_mem]
              exact hw
            · rw [State.pushDone_mem]
              refine Memory.wf_takeConfig _ _ ?_
              rw [State.setNeed_mem]
              exact hw
@[simp] theorem State.ackPush_mem (s : State) (ctrl : QWord) : (s.ackPush ctrl).mem = s.mem := rfl
theorem Memory.wf_pushChunk {s : State} (ini : Ini) (ctrl : QWord) (hw : Memory.wf s.mem) : Memory.wf (s.pushChunk ini ctrl).mem := by
  fun_cases State.pushChunk s ini ctrl
  case case1 | case2 => exact Memory.wf_of_mem (State.ackPush_mem _ _) (Memory.wf_ite hw hw)
  case case3 => exact Memory.wf_of_mem (State.ackPush_mem _ _) (Memory.wf_pushImage _ _ _ _ (Memory.wf_land _ _ _ (Memory.wf_ite hw hw)))
  case case4 => exact Memory.wf_of_mem (State.ackPush_mem _ _) (Memory.wf_land _ _ _ (Memory.wf_ite hw hw))
@[simp] theorem State.abandonPush_mem (s : State) (ctrl : QWord) : (s.abandonPush ctrl).mem = s.mem :=
  (State.ackPush_mem _ _).trans (State.ite_mem rfl rfl)
theorem Memory.wf_pushCtrl {s : State} (ini : Ini) (ctrl : QWord) (hw : Memory.wf s.mem) : Memory.wf (pushCtrl ini ctrl s).2.mem := by
  unfold pushCtrl
  exact Memory.wf_ite_snd hw (Memory.wf_ite_snd hw (Memory.wf_ite (Memory.wf_of_mem (State.abandonPush_mem _ _) hw)
      (Memory.wf_pushChunk _ _ hw)))
theorem Memory.wf_pushRow {s : State} (abandon : Bool) (r : Req) (ctrl : QWord) (hw : Memory.wf s.mem) :
    Memory.wf (pushRow abandon r ctrl s).mem := by
  fun_cases pushRow abandon r ctrl s
  case case1 | case3 => exact hw
  case case2 | case4 | case5 => exact Memory.wf_of_mem (State.respond_mem _ _ _ _) hw
  case case6 => exact Memory.wf_of_mem (State.respond_mem _ _ _ _) (Memory.wf_of_pair ‹pushCtrl _ _ _ = _› (Memory.wf_pushCtrl _ _ hw))
theorem Memory.wf_bootWrite {s : State} (ini : Ini) (bs : List (Nat × Byte)) (hw : Memory.wf s.mem) :
    Memory.wf (bootWrite ini bs s).2.mem := by
  unfold bootWrite
  dsimp only
  split
  · dsimp only
    split
    · exact Memory.wf_pushCtrl _ _ hw
    · dsimp only
      exact hw
  · split
    · split
      · dsimp only
        split
        · exact Memory.wf_pushCtrl _ _ hw
        · dsimp only
          exact hw
      · dsimp only
        split
        · exact Memory.wf_pushCtrl _ _ hw
        · dsimp only
          exact hw
    · split
      · dsimp only
        split
        · exact Memory.wf_pushCtrl _ _ hw
        · dsimp only
          exact hw
      · dsimp only
        split
        · exact Memory.wf_pushCtrl _ _ hw
        · dsimp only
          exact hw
theorem State.mem_of_pair {α : Type} {r : α × State} {a : α} {t : State} {m : Tab Byte} (hr : r = (a, t)) (h : r.2.mem = m) : t.mem = m :=
    by
  rw [hr] at h; exact h
theorem Memory.wf_imageWriteAct {s : State} (c : Nat) (a : Ini) (r : SvcReq) (hw : Memory.wf s.mem) :
    Memory.wf (imageWriteAct c a r s).mem := by
  have ha (t : State) (st : Nat) (l : List Nat) (ht : t.mem = s.mem) : Memory.wf (t.answer c r st l).mem :=
    Memory.wf_of_mem ((State.answer_mem _ _ _ _ _ _).trans ht) hw
  have hb (n : Nat) (x y z : List Byte) : (match n with
      | 0 => s.writeBundle slotA x y
      | 1 => s.writeBundle slotB x y
      | 3 => s.writeConfig configA z
      | _ => s.writeConfig configB z : Bool × State).2.mem = s.mem := by split <;> simp
  fun_cases imageWriteAct c a r s
  case case4 => exact Memory.wf_of_mem (State.svcFail_mem _ _ _ _ _ _) hw
  case case6 => exact ha _ _ _ (State.mem_of_pair ‹_ = (_, _)› (hb _ _ _ _))
  all_goals exact ha _ _ _ rfl
@[simp] theorem arriveAct_mem (e : PEnv) (s : State) : (arriveAct e s).s.mem = s.mem := by
  fun_cases arriveAct e s
  case case1 | case2 => rfl
  case case3 =>
    exact (State.modCmd_mem _ _ _).trans (State.modPan_mem _ _ _)
theorem Memory.wf_confluenceGo {s : State} (seq : DWord) (skew : Word) (hw : Memory.wf s.mem) :
    Memory.wf (confluenceGo seq skew s).mem := by
  unfold confluenceGo
  dsimp only
  split
  · exact hw
  · split
    · exact hw
    · refine foldl_keeps (fun u : State => Memory.wf u.mem) _ _ (fun u a _ hu => ?_) _ ?_
      · split
        · exact Memory.wf_advance _ hu
        · exact hu
      · rw [State.modCmd_mem, State.modPart_mem]
        refine foldl_keeps (fun u : State => Memory.wf u.mem) _ _ (fun u a _ hu => ?_) _ ?_
        · rw [State.modPan_mem, State.draw_mem]
          exact hu
        · refine foldl_keeps (fun u : State => Memory.wf u.mem) _ _ (fun u a _ hu => ?_) _ ?_
          · rw [State.addFlags_mem]
            exact Memory.wf_slotWrite _ _ _ _ hu
          · rw [State.clampCmd_mem]
            split
            · rw [State.clampCmd_mem]
              exact hw
            · exact hw

end Sys2Proof.Machine

/-! SUPPORT. The canonical form of memory, debug sessions, sleep and power events (R278, R280). -/
namespace Sys2Proof.Machine

theorem Memory.wf_debugEvent {s : State} (hw : Memory.wf s.mem) : Memory.wf s.debugEvent.mem := Memory.wf_event _ _ _ _ _ _ hw
theorem Memory.wf_settleDebug {s : State} (hw : Memory.wf s.mem) : Memory.wf s.settleDebug.mem := by
  unfold State.settleDebug
  exact Memory.wf_ite hw (Memory.wf_ite (Memory.wf_foldl _ _ (fun _ _ hu => Memory.wf_extendDebug _ hu) hw) (Memory.wf_foldl _ _
      (fun _ _ hu => Memory.wf_debugEvent hu) (Memory.wf_foldl _ _ (fun _ _ hu => Memory.wf_extendDebug _ hu) hw)))
theorem Memory.wf_beginSession {s : State} (x : Session) (hw : Memory.wf s.mem) : Memory.wf (s.beginSession x).mem :=
  Memory.wf_ite hw (Memory.wf_settleDebug hw)
@[simp] theorem State.unhold_mem (s : State) (p : Nat) (x : Session) : (s.unhold p x).mem = s.mem :=
  State.ite_mem (State.modPan_mem _ _ _) rfl
@[simp] theorem State.endSession_mem (s : State) (x : Session) : (s.endSession x).mem = s.mem :=
  State.foldl_mem _ _ (fun _ _ => State.unhold_mem _ _ _)
theorem Memory.wf_bootEvents {s : State} (hw : Memory.wf s.mem) : Memory.wf s.bootEvents.mem := by
  fun_cases State.bootEvents s
  exact Memory.wf_foldl _ _ (fun _ _ hu => Memory.wf_debugEvent hu) (Memory.wf_foldl _ _
      (fun _ _ hu => Memory.wf_foldl _ _ (fun _ _ hu' => Memory.wf_event _ _ _ _ _ _ hu') hu) (Memory.wf_foldl _ _
      (fun _ _ hu => Memory.wf_event _ _ _ _ _ _ hu) (Memory.wf_foldl _ _ (fun _ _ hu => Memory.wf_ite hu
      (Memory.wf_event _ _ _ _ _ _ hu)) hw)))
theorem Memory.wf_readyRise {s : State} (hw : Memory.wf s.mem) : Memory.wf (readyRise s).mem := by
  unfold readyRise
  split
  · exact hw
  · dsimp only
    rw [State.retargetAll_mem]
    dsimp only
    rw [State.setLocks_mem]
    refine Memory.wf_bootEvents ?_
    rw [State.setStage_mem]
    exact hw
theorem Memory.wf_panSupplyFault {s : State} (g : Nat) (hw : Memory.wf s.mem) : Memory.wf (panSupplyFault g s).mem :=
  Memory.wf_ite hw (Memory.wf_ite hw (Memory.wf_foldl _ _ (fun _ _ hu => Memory.wf_bundPan _ _ _ hu) hw))
@[simp] theorem State.alertEngage_mem (s : State) : s.alertEngage.mem = s.mem := State.engage_mem _
@[simp] theorem ignorePeriodEnd_mem (pinLow : Bool) (s : State) : (ignorePeriodEnd pinLow s).mem = s.mem :=
  State.ite_mem rfl (State.ite_mem (State.alertEngage_mem _) rfl)
@[simp] theorem regAlertAssert_mem (s : State) : (regAlertAssert s).mem = s.mem :=
  State.ite_mem rfl (State.ite_mem (State.alertEngage_mem _) rfl)
@[simp] theorem thermTrip_mem (s : State) : (thermTrip s).mem = s.mem := State.ite_mem rfl (State.engage_mem _)
@[simp] theorem spillwayRelease_mem (s : State) : (spillwayRelease s).mem = s.mem :=
  State.ite_mem rfl (State.ite_mem rfl (State.foldl_mem _ _ (fun _ _ => State.modGroup_mem _ _ _)))
@[simp] theorem spillwayClimb_mem (g : Nat) (s : State) : (spillwayClimb g s).mem = s.mem :=
  State.ite_mem rfl ((State.retarget_mem _ _ _).trans (State.modGroup_mem _ _ _))
@[simp] theorem droopTrip_mem (g : Nat) (s : State) : (droopTrip g s).mem = s.mem := by
  unfold droopTrip
  exact State.ite_mem rfl (State.ite_mem ((State.meetRace_mem _).trans ((State.lockGroup_mem _ _ _).trans (State.modGroup_mem _ _ _)))
      ((State.lockGroup_mem _ _ _).trans (State.modGroup_mem _ _ _)))
@[simp] theorem opIncrease_mem (g : Nat) (clear : Bool) (s : State) : (opIncrease g clear s).mem = s.mem := by
  fun_cases opIncrease g clear s <;> simp
@[simp] theorem boostLeave_mem (g : Nat) (s : State) : (boostLeave g s).mem = s.mem :=
  State.ite_mem rfl ((State.retarget_mem _ _ _).trans (State.modGroup_mem _ _ _))
@[simp] theorem State.placeBubbles_mem (s : State) (pans : List Nat) (n d : Nat) : (s.placeBubbles pans n d).mem = s.mem :=
  (State.foldl_mem _ _ (fun _ _ => State.modPan_mem _ _ _)).trans (State.foldl_mem _ _ (fun _ _ => State.modPan_mem _ _ _))
@[simp] theorem State.sluice_mem (s : State) (w : WindowReport) : (s.sluice w).mem = s.mem := by
  unfold State.sluice
  dsimp only
  refine foldl_keeps (fun u : State => u.mem = s.mem) _ _ (fun u a _ hu => ?_) _ ?_
  · split
    · split
      · rw [State.modPart_mem]
        exact hu
      · rw [State.placeBubbles_mem, State.modPart_mem]
        exact hu
    · split
      · split
        · rw [State.modPart_mem]
          exact hu
        · rw [State.placeBubbles_mem, State.modPart_mem]
          exact hu
      · split
        · rw [State.modPart_mem]
          exact hu
        · rw [State.placeBubbles_mem, State.modPart_mem]
          exact hu
  · refine foldl_keeps (fun u : State => u.mem = s.mem) _ _ (fun u a _ hu => ?_) _ ?_
    · rw [State.modPan_mem]
      exact hu
    · dsimp only
@[simp] theorem State.countBubbles_mem (s : State) (w : WindowReport) : (s.countBubbles w).mem = s.mem := by
  unfold State.countBubbles
  refine foldl_keeps (fun u : State => u.mem = s.mem) _ _ (fun u a _ hu => ?_) _ ?_
  · dsimp only
    split
    · exact hu
    · split
      · rw [State.setPan_mem]
        exact hu
      · rw [State.lockPan_mem]
        split
        · rw [State.modPart_mem, State.setPan_mem]
          exact hu
        · rw [State.setPan_mem]
          exact hu
  · rfl
@[simp] theorem State.addEnergy_mem (s : State) (pJ : Nat) : (s.addEnergy pJ).mem = s.mem := rfl
@[simp] theorem State.moveOffset_mem (s : State) (g : Nat) (d : ℤ) : (s.moveOffset g d).mem = s.mem := rfl
@[simp] theorem State.slackReports_mem (s : State) (w : WindowReport) : (s.slackReports w).mem = s.mem := by
  unfold State.slackReports
  exact State.ite_mem rfl (State.foldl_mem _ _ (fun _ _ => State.ite_mem rfl (State.ite_mem ((State.moveOffset_mem _ _ _).trans
      (State.modGroup_mem _ _ _)) (State.modGroup_mem _ _ _))))
@[simp] theorem replanPoint_mem (s : State) : (replanPoint s).mem = s.mem := by
  unfold replanPoint
  split
  · rfl
  · refine foldl_keeps (fun u : State => u.mem = s.mem) _ _ (fun u a _ hu => ?_) _ ?_
    · dsimp only
      rw [State.modGroup_mem]
      split
      · split
        · rw [State.moveOffset_mem]
          exact hu
        · split
          · rw [State.moveOffset_mem]
            exact hu
          · exact hu
      · exact hu
    · rfl
@[simp] theorem State.takePower_mem (s : State) : s.takePower.mem = s.mem := rfl
@[simp] theorem State.noteCalm_mem (s : State) (w : WindowReport) : (s.noteCalm w).mem = s.mem :=
  State.foldl_mem _ _ (fun _ _ => State.modGroup_mem _ _ _)
@[simp] theorem State.noteSupplies_mem (s : State) (w : WindowReport) : (s.noteSupplies w).mem = s.mem := rfl
theorem Memory.wf_capWindow {s : State} (w : WindowReport) (hw : Memory.wf s.mem) : Memory.wf (capWindow w s).mem := by
  fun_cases capWindow w s
  case case1 => exact hw
  case case2 => exact Memory.wf_of_mem (State.takePower_mem _) (Memory.wf_of_mem (State.addEnergy_mem _ _) (Memory.wf_of_mem
      (State.noteSupplies_mem _ _) hw))
  case case3 => exact Memory.wf_finishCommits (Memory.wf_of_mem (State.retargetAll_mem _ _) (Memory.wf_of_mem (State.addEnergy_mem _ _)
      (Memory.wf_of_mem (State.slackReports_mem _ _) (Memory.wf_of_mem (State.noteCalm_mem _ _) (Memory.wf_of_mem (State.sluice_mem _ _)
      (Memory.wf_of_mem (State.takePower_mem _) (Memory.wf_of_mem (State.countBubbles_mem _ _) (Memory.wf_of_mem
      (State.noteSupplies_mem _ _) hw))))))))
@[simp] theorem energySlackTick_mem (s : State) : (energySlackTick s).mem = s.mem := State.ite_mem rfl (State.addEnergy_mem _ _)
theorem Memory.wf_ckptWrite {s : State} (hw : Memory.wf s.mem) : Memory.wf s.ckptWrite.mem := by
  unfold State.ckptWrite
  dsimp only
  split
  · exact hw
  · split
    · dsimp only
      exact hw
    · refine Memory.wf_event _ _ _ _ _ _ ?_
      dsimp only
      rw [State.flashProg_mem]
      split
      · dsimp only
        rw [State.flashErase_mem]
        exact hw
      · exact hw
theorem Memory.wf_checkpoint {s : State} (hw : Memory.wf s.mem) : Memory.wf (checkpoint s).mem :=
  Memory.wf_ite hw (Memory.wf_ckptWrite hw)
@[simp] theorem sleepReq_mem (slack : Bool) (ini : Ini) (s : State) : (sleepReq slack ini s).2.mem = s.mem := by
  fun_cases sleepReq slack ini s
  case case1 | case2 | case3 => exact rfl
  case case4 => exact State.foldl_mem _ _ (fun _ _ => State.ite_mem rfl (State.modPan_mem _ _ _))
@[simp] theorem State.gatePans_mem (s : State) (on : Bool) : (s.gatePans on).mem = s.mem :=
  State.foldl_mem _ _ (fun _ _ => State.modPan_mem _ _ _)
theorem Memory.wf_zeroPans {s : State} (hw : Memory.wf s.mem) : Memory.wf s.zeroPans.mem :=
  Memory.wf_foldl _ _ (fun _ _ hu => Memory.wf_wipePan _ hu) hw
theorem Memory.wf_dozeEntry {s : State} (hw : Memory.wf s.mem) : Memory.wf (dozeEntry s).mem := by
  unfold dozeEntry
  split
  · exact hw
  · dsimp only
    refine Memory.wf_zeroPans ?_
    rw [State.gatePans_mem]
    exact hw
@[simp] theorem State.wakeEvent_mem (s : State) : s.wakeEvent.mem = s.mem := by
  fun_cases State.wakeEvent s <;> rfl
@[simp] theorem State.bringUp_mem (s : State) : s.bringUp.mem = s.mem := by
  fun_cases State.bringUp s
  exact (State.foldl_mem _ _ (fun _ _ => (State.setPoint_mem _ _ _).trans
      (State.modGroup_mem _ _ _))).trans ((State.takePower_mem _).trans (State.gatePans_mem _ _))
theorem Memory.wf_dozeWake {s : State} (hw : Memory.wf s.mem) : Memory.wf (dozeWake s).mem := by
  unfold dozeWake
  split
  · exact hw
  · dsimp only
    rw [State.bringUp_mem]
    exact Memory.wf_zeroPans hw
theorem State.tally_update_mem (s : State) (t : Tally) : ({ s with tally := t } : State).mem = s.mem := rfl
theorem Memory.wf_spillAll {s : State} (hw : Memory.wf s.mem) : Memory.wf s.spillAll.mem := by
  unfold State.spillAll
  rw [State.tally_update_mem]
  exact foldl_keeps (fun u : State => Memory.wf u.mem) _ _ (fun u a _ hu => Memory.wf_spillEntry _ hu) _ hw
theorem State.asleep_mem (s : State) (b : Boot) (e : Edge) (g : Engines) (p : Power) :
    ({ s with boot := b, edge := e, eng := g, power := p } : State).mem = s.mem := rfl
theorem Memory.wf_slackEntry {s : State} (hw : Memory.wf s.mem) : Memory.wf (slackEntry s).mem := by
  unfold slackEntry
  split
  · exact hw
  · extract_lets s1 s2 s3 held link
    have h2 : Memory.wf s2.mem :=
      foldl_keeps (fun u : State => Memory.wf u.mem) _ _ (fun u a _ hu => by rw [State.modChan_mem]; exact hu) _
        (Memory.wf_spillAll (Memory.wf_ckptWrite (Memory.wf_spillAll hw)))
    have h3 : Memory.wf s3.mem := by
      unfold s3
      rw [State.forget_mem, State.forget_mem]
      exact Memory.wf_zeroPans (by rw [State.gatePans_mem]; exact h2)
    rw [State.asleep_mem]
    exact h3
@[simp] theorem slackWake_mem (s : State) : (slackWake s).mem = s.mem := by
  fun_cases slackWake s <;> simp
@[simp] theorem State.healthCheck_mem (s : State) (raw : List Byte) : (s.healthCheck raw).mem = s.mem := State.ite_mem rfl rfl
@[simp] theorem State.startupTest_mem (s : State) (startup : List Byte) : (s.startupTest startup).mem = s.mem :=
  State.ite_mem rfl (State.ite_mem (State.healthCheck_mem _ _) (State.healthCheck_mem _ _))
@[simp] theorem State.drbgInstantiate_mem (s : State) (raw : List Byte) : (s.drbgInstantiate raw).mem = s.mem :=
  State.ite_mem (State.healthCheck_mem _ _) (State.healthCheck_mem _ _)
@[simp] theorem State.drbgReseed_mem (s : State) (raw : List Byte) : (s.drbgReseed raw).mem = s.mem :=
  State.ite_mem (State.healthCheck_mem _ _) (State.healthCheck_mem _ _)
@[simp] theorem State.wakeSeed_mem (s : State) (raw : List Byte) : (s.wakeSeed raw).mem = s.mem := by
  fun_cases State.wakeSeed s raw <;> simp
theorem Memory.wf_coldAgain {s : State} (env : BootEnv) (hw : Memory.wf s.mem) : Memory.wf (s.coldAgain env).mem := by
  unfold State.coldAgain
  dsimp only
  refine Memory.wf_boots ?_
  split
  · rw [State.alertEngage_mem]
    dsimp only
    exact Memory.wf_porReset _ hw
  · dsimp only
    exact Memory.wf_porReset _ hw
@[simp] theorem State.refuseRequest_mem (s : State) : s.refuseRequest.mem = s.mem := State.ite_mem (State.setTrans_mem _ _) rfl
theorem Memory.wf_fastWake {s : State} (raw : List Byte) (env : BootEnv) (hw : Memory.wf s.mem) : Memory.wf (fastWake raw env s).mem := by
  unfold fastWake
  split
  · exact hw
  · split
    · exact Memory.wf_coldAgain _ hw
    · dsimp only
      refine Memory.wf_settleDebug ?_
      rw [State.bringUp_mem]
      split
      · rw [State.alertEngage_mem]
        dsimp only
        rw [State.wakeSeed_mem]
        refine Memory.wf_writeKnown _ _ ?_
        rw [State.refuseRequest_mem]
        exact hw
      · dsimp only
        rw [State.wakeSeed_mem]
        refine Memory.wf_writeKnown _ _ ?_
        rw [State.refuseRequest_mem]
        exact hw

end Sys2Proof.Machine

/-! SUPPORT. The canonical form of memory, the port and the debug path: each read and write of memory, registers and
windows (R112, R202). -/
namespace Sys2Proof.Machine

@[simp] theorem State.refuseBell_mem (s : State) : s.refuseBell.mem = s.mem := rfl
@[simp] theorem bellWrite_mem (q : Nat) (ini : Ini) (v : Nat) (s : State) : (bellWrite q ini v s).2.mem = s.mem := by
  unfold bellWrite
  split
  · dsimp only
    rw [State.refuseBell_mem]
  · dsimp only
    split
    · rw [State.modPart_mem, State.wakeEvent_mem, State.modCtx_mem]
    · rw [State.wakeEvent_mem, State.modCtx_mem]
@[simp] theorem State.earlyBell_mem (s : State) : s.earlyBell.mem = s.mem := rfl
@[simp] theorem State.countUnmapped_mem (s : State) : s.countUnmapped.mem = s.mem := rfl
@[simp] theorem State.countSealed_mem (s : State) : s.countSealed.mem = s.mem := rfl
@[simp] theorem stageWord_mem (r : Rws) (sub : Nat) (ini : Ini) (v : Nat) (be : Nat → Bool) (s : State) :
    (stageWord r sub ini v be s).2.mem = s.mem := by
  fun_cases stageWord r sub ini v be s <;> rfl
theorem Memory.wf_glbWrite {s : State} (off : Nat) (ini : Ini) (v : Nat) (be : Nat → Bool) (hw : Memory.wf s.mem) :
    Memory.wf (glbWrite off ini v be s).2.mem := by
  fun_cases glbWrite off ini v be s
  case case1 => exact Memory.wf_of_mem (stageWord_mem _ _ _ _ _ _) hw
  case case2 | case3 | case5 | case8 | case9 | case10 | case11 => exact hw
  case case4 => exact Memory.wf_glbCommit _ _ _ hw
  case case6 | case7 => exact Memory.wf_of_mem (sleepReq_mem _ _ _) hw
theorem Memory.wf_prtWrite {s : State} (p off : Nat) (ini : Ini) (v : Nat) (be : Nat → Bool) (hw : Memory.wf s.mem) :
    Memory.wf (prtWrite p off ini v be s).2.mem := by
  fun_cases prtWrite p off ini v be s
  case case1 => exact Memory.wf_of_mem (stageWord_mem _ _ _ _ _ _) hw
  case case2 => exact Memory.wf_prtCommit _ _ _ _ hw
  case case3 => exact hw
@[simp] theorem profWrite_mem (p : Nat) (ini : Ini) (freeze : Option Bool) (clear : Bool) (s : State) :
    (profWrite p ini freeze clear s).2.mem = s.mem := by
  fun_cases profWrite p ini freeze clear s <;> rfl
@[simp] theorem panWrite_mem (p off : Nat) (ini : Ini) (v : Nat) (be : Nat → Bool) (s : State) :
    (panWrite p off ini v be s).2.mem = s.mem := by
  fun_cases panWrite p off ini v be s <;> simp
@[simp] theorem raceRegWrite_mem (i off : Nat) (ini : Ini) (v : Nat) (be : Nat → Bool) (s : State) :
    (raceRegWrite i off ini v be s).2.mem = s.mem := by
  fun_cases raceRegWrite i off ini v be s <;> simp
theorem thenStatus_mem {x : BitVec 4 × State} {f : State → BitVec 4 × State} (hf : ∀ t, (f t).2.mem = t.mem) :
    (thenStatus x f).2.mem = x.2.mem := hf x.2
theorem Memory.wf_thenStatus {x : BitVec 4 × State} {f : State → BitVec 4 × State} (hf : ∀ t, Memory.wf t.mem → Memory.wf (f t).2.mem)
    (hw : Memory.wf x.2.mem) : Memory.wf (thenStatus x f).2.mem := hf x.2 hw
theorem eachWord_mem {f : Nat → Nat → (Nat → Bool) → State → BitVec 4 × State} (bs : List (Nat × Byte)) (s : State)
    (hf : ∀ o v be t, (f o v be t).2.mem = t.mem) : (eachWord bs f s).2.mem = s.mem :=
  foldl_keeps (fun u : BitVec 4 × State => u.2.mem = s.mem) _ _ (fun _ _ _ hu => (thenStatus_mem (hf _ _ _)).trans hu) _ rfl
theorem Memory.wf_eachWord {f : Nat → Nat → (Nat → Bool) → State → BitVec 4 × State} (bs : List (Nat × Byte)) {s : State}
    (hf : ∀ o v be t, Memory.wf t.mem → Memory.wf (f o v be t).2.mem) (hw : Memory.wf s.mem) : Memory.wf (eachWord bs f s).2.mem :=
  foldl_keeps (fun u : BitVec 4 × State => Memory.wf u.2.mem) _ _ (fun _ _ _ hu => Memory.wf_thenStatus (hf _ _ _) hu) _ hw
@[simp] theorem raceWrite_mem (ini : Ini) (bs : List (Nat × Byte)) (s : State) : (raceWrite ini bs s).2.mem = s.mem := by
  unfold raceWrite
  refine foldl_keeps (fun u : BitVec 4 × State => u.2.mem = s.mem) _ _ (fun u a _ hu => ?_) _ ?_
  · dsimp only
    refine (thenStatus_mem (fun t => ?_)).trans ?_
    · refine (eachWord_mem _ _ (fun o v be t => ?_)).trans ?_
      · rw [raceRegWrite_mem]
      · rfl
    · split
      · split
        · exact hu
        · refine (thenStatus_mem (fun t => ?_)).trans ?_
          · rw [raceIn_mem]
          · exact hu
      · refine (thenStatus_mem (fun t => ?_)).trans ?_
        · rw [raceDoorbell_mem]
        · split
          · exact hu
          · refine (thenStatus_mem (fun t => ?_)).trans ?_
            · rw [raceIn_mem]
            · exact hu
  · dsimp only
@[simp] theorem mbxWrites_mem (ini : Ini) (start n : Nat) (bs : List (Nat × Byte)) (s : State) :
    (mbxWrites ini start n bs s).2.mem = s.mem := by
  unfold mbxWrites
  refine foldl_keeps (fun u : BitVec 4 × State => u.2.mem = s.mem) _ _ (fun u a _ hu => ?_) _ ?_
  · dsimp only
    split
    · exact hu
    · refine (thenStatus_mem (fun t => ?_)).trans ?_
      · split
        · dsimp only
          split
          · rfl
          · rw [State.countUnmapped_mem]
        · dsimp only
          rw [mbxWrite_mem]
      · exact hu
  · dsimp only
theorem Memory.wf_earlyWrite {s : State} (ini : Ini) (bs : List (Nat × Byte)) (hw : Memory.wf s.mem) :
    Memory.wf (earlyWrite ini bs s).2.mem :=
  Memory.wf_ite_snd (Memory.wf_bootWrite _ _ hw) (Memory.wf_ite (Memory.wf_of_mem (State.earlyBell_mem _) hw) hw)
theorem Memory.wf_ctlWrite {s : State} (ini : Ini) (start n : Nat) (bs : List (Nat × Byte)) (bell : Bool) (hw : Memory.wf s.mem) :
    Memory.wf (ctlWrite ini start n bs bell s).2.mem := by
  fun_cases ctlWrite ini start n bs bell s
  case case1 => exact Memory.wf_eachWord _ (fun _ _ _ _ h0 => Memory.wf_glbWrite _ _ _ _ h0) hw
  case case2 | case4 => exact Memory.wf_of_mem (State.refuseBell_mem _) hw
  case case3 => exact Memory.wf_of_mem (bellWrite_mem _ _ _ _) hw
  case case5 => exact Memory.wf_of_mem (raceWrite_mem _ _ _) hw
  case case6 => exact Memory.wf_of_mem (mbxWrites_mem _ _ _ _ _) hw
  case case7 | case10 => exact hw
  case case8 => exact Memory.wf_eachWord _ (fun _ _ _ _ h0 => Memory.wf_prtWrite _ _ _ _ _ h0) hw
  case case9 => exact Memory.wf_of_mem (eachWord_mem _ _ (fun _ _ _ _ => panWrite_mem _ _ _ _ _ _)) hw
  case case11 => exact Memory.wf_of_mem (State.countUnmapped_mem _) hw
@[simp] theorem mbxReads_mem (ini : Ini) (start n : Nat) (s : State) : (mbxReads ini start n s).2.2.mem = s.mem := by
  unfold mbxReads
  refine foldl_keeps (fun u : BitVec 4 × List Byte × State => u.2.2.mem = s.mem) _ _ (fun u a _ hu => ?_) _ ?_
  · dsimp only
    split
    · exact hu
    · split
      · dsimp only
        split
        · exact hu
        · rw [State.countUnmapped_mem]
          exact hu
      · dsimp only
        rw [mbxRead_mem]
        exact hu
  · dsimp only
@[simp] theorem ctlRead_mem (ini : Ini) (start n : Nat) (s : State) : (ctlRead ini start n s).2.2.mem = s.mem := by
  fun_cases ctlRead ini start n s <;> simp
@[simp] theorem State.touchMemory_mem (s : State) (a : Nat) : (s.touchMemory a).mem = s.mem := State.ite_mem (State.wakeEvent_mem _) rfl
theorem Memory.wf_memRead {s : State} (ini : Ini) (a n : Nat) (ds : List Detection) (hw : Memory.wf s.mem) :
    Memory.wf (memRead ini a n ds s).2.2.mem := by
  fun_cases memRead ini a n ds s
  case case1 => exact Memory.wf_of_mem (State.countUnmapped_mem _) (Memory.wf_of_mem (State.touchMemory_mem _ _) hw)
  case case2 => exact Memory.wf_of_pair ‹_ = (_, _)› (Memory.wf_ite_snd (Memory.wf_of_mem (State.panBytes_mem _ _ _)
      (Memory.wf_detectAll _ _ _ (Memory.wf_of_mem (State.touchMemory_mem _ _) hw))) (Memory.wf_detectAll _ _ _ (Memory.wf_of_mem
      (State.touchMemory_mem _ _) hw)))
theorem Memory.wf_unitWrite {s : State} (u : Nat) (data : List (Option Byte)) (flit : Bool) (hw : Memory.wf s.mem) :
    Memory.wf (unitWrite u data flit s).2.mem := by
  fun_cases unitWrite u data flit s
  case case1 | case3 => exact hw
  case case2 | case4 => exact Memory.wf_ite (Memory.wf_of_mem (State.mark_mem _ _) (Memory.wf_write _ _ hw)) (Memory.wf_write _ _ hw)
theorem Memory.wf_memWrite {s : State} (ini : Ini) (a : Nat) (data : List (Option Byte)) (ds : List Detection) (hw : Memory.wf s.mem) :
    Memory.wf (memWrite ini a data ds s).2.mem := by
  have ht : Memory.wf (s.touchMemory a).mem := Memory.wf_of_mem (State.touchMemory_mem _ _) hw
  have hd := Memory.wf_detectAll (panOf a) { part := (s.touchMemory a).boundTo ini } (ds.filter (portSees a data.length)) ht
  unfold memWrite
  extract_lets n t race ds' t' gone
  split
  · exact Memory.wf_of_mem (State.countSealed_mem _) ht
  · split
    · exact Memory.wf_of_mem (State.countUnmapped_mem _) ht
    · split
      · exact Memory.wf_of_mem (State.countSealed_mem _) ht
      · split
        · exact ht
        · split
          · exact hd
          · exact foldl_keeps (fun x : BitVec 4 × State => Memory.wf x.2.mem) _ _
              (fun x i _ hx => Memory.wf_thenStatus (fun t ht => Memory.wf_unitWrite _ _ _ ht) hx) _ hd
theorem Memory.wf_rdServe {s : State} (ini : Ini) (a : Nat) (n : Nat) (ds : List Detection) (hw : Memory.wf s.mem) :
    Memory.wf (rdServe ini a n ds s).2.2.mem := by
  fun_cases rdServe ini a n ds s with
  | case1 | case2 => exact hw
  | case3 => exact Memory.wf_detectAll _ _ _ hw
  | case4 _ _ ds' t _ st d u hx =>
    have hm := ctlRead_mem ini (a - controlBase) n t
    rw [hx] at hm
    exact hm ▸ Memory.wf_detectAll _ _ _ hw
  | case5 => exact Memory.wf_memRead _ _ _ _ hw
@[simp] theorem State.portPath_mem (s : State) (module1 : Bool) (a : Nat) : (s.portPath module1 a).mem = s.mem :=
  State.ite_mem (State.racePath_mem _ _ _) rfl
theorem Memory.wf_rd {s : State} (module1 : Bool) (h : QWord) (ds : List Detection) (hw : Memory.wf s.mem) :
    Memory.wf (rd module1 h ds s).mem := by
  unfold rd
  dsimp only
  split
  · exact hw
  · split
    · rw [State.respond_mem]
      exact hw
    · split
      · exact hw
      · split
        · refine Memory.wf_rdServe _ _ _ _ ?_
          rw [State.portPath_mem]
          exact hw
        · rw [State.respond_mem]
          refine Memory.wf_rdServe _ _ _ _ ?_
          rw [State.portPath_mem]
          exact hw
theorem Memory.wf_wrServe {s : State} (ini : Ini) (h : QWord) (data : List Byte) (ds : List Detection) (hw : Memory.wf s.mem) :
    Memory.wf (wrServe ini h data ds s).2.mem := by
  fun_cases wrServe ini h data ds s
  case case1 => exact Memory.wf_earlyWrite _ _ hw
  case case2 => exact hw
  case case3 => exact Memory.wf_detectAll _ _ _ hw
  case case4 => exact Memory.wf_of_pair ‹_ = (_, _)› (Memory.wf_ite_snd (Memory.wf_detectAll _ _ _ hw) (Memory.wf_ctlWrite _ _ _ _ _
      (Memory.wf_detectAll _ _ _ hw)))
  case case5 => exact Memory.wf_ctlWrite _ _ _ _ _ (Memory.wf_detectAll _ _ _ hw)
  case case6 => exact Memory.wf_memWrite _ _ _ _ hw
theorem Memory.wf_wr {s : State} (module1 : Bool) (h : QWord) (data : List Byte) (ds : List Detection) (hw : Memory.wf s.mem) :
    Memory.wf (wr module1 h data ds s).mem := by
  fun_cases wr module1 h data ds s
  case case1 | case3 => exact hw
  case case2 => exact Memory.wf_of_mem (State.respond_mem _ _ _ _) hw
  case case4 => exact Memory.wf_of_pair ‹wrServe _ _ _ _ _ = _› (Memory.wf_wrServe _ _ _ _ (Memory.wf_of_mem
      (State.portPath_mem _ _ _) hw))
  case case5 => exact Memory.wf_of_mem (State.respond_mem _ _ _ _) (Memory.wf_of_pair ‹wrServe _ _ _ _ _ = _› (Memory.wf_wrServe _ _ _ _
      (Memory.wf_of_mem (State.portPath_mem _ _ _) hw)))
theorem Memory.wf_registerWrite {s : State} (r : Req) (off : BitVec 24) (value : DWord) (be : BitVec 8) (hw : Memory.wf s.mem) :
    Memory.wf (registerWrite r off value be s).mem := by
  fun_cases registerWrite r off value be s
  case case1 | case3 => exact hw
  case case2 => exact Memory.wf_of_mem (State.respond_mem _ _ _ _) hw
  case case4 => exact Memory.wf_of_mem (State.respond_mem _ _ _ _) (Memory.wf_of_pair ‹_ = (_, _)› (Memory.wf_ite_snd
      (Memory.wf_earlyWrite _ _ (Memory.wf_of_mem (State.portPath_mem _ _ _) hw)) (Memory.wf_ctlWrite _ _ _ _ _ (Memory.wf_of_mem
      (State.portPath_mem _ _ _) hw))))
theorem mbxAct_mem {act : Bool → State → State} (c : Nat) (ini : Ini) (s : State) (ha : ∀ b t, (act b t).mem = t.mem) :
    (mbxAct c ini act s).2.mem = s.mem := by
  unfold mbxAct
  split
  · exact State.countUnmapped_mem s
  · exact ha _ s
@[simp] theorem mbxPop_mem (r : Req) (c : Nat) (s : State) : (mbxPop r c s).mem = s.mem := by
  unfold mbxPop
  split
  · rfl
  · split
    · rw [State.respond_mem]
    · split
      · rw [State.respond_mem]
      · split
        · rfl
        · dsimp only
          rw [State.respond_mem, mbxReads_mem]
@[simp] theorem State.touchPan_mem (s : State) (p : Nat) : (s.touchPan p).mem = s.mem := State.lockPan_mem _ _ _
@[simp] theorem State.hold_mem (s : State) (p : Nat) (x : Session) : (s.hold p x).2.mem = s.mem := by
  unfold State.hold
  split
  · dsimp only
  · dsimp only
    split
    · split
      · split
        · rw [State.modSlot_mem, State.touchPan_mem]
        · rw [State.touchPan_mem]
      · split
        · rw [State.modSlot_mem, State.modPan_mem, State.touchPan_mem]
        · rw [State.modPan_mem, State.touchPan_mem]
    · split
      · rw [State.touchPan_mem]
      · rw [State.modPan_mem, State.touchPan_mem]
@[simp] theorem State.panRead_mem (s : State) (p a n : Nat) : (s.panRead p a n).2.2.mem = s.mem := by
  fun_cases State.panRead s p a n
  case case1 => exact rfl
  case case2 => exact State.touchPan_mem _ _
  case case3 => exact (State.touchPan_mem _ _).trans (State.panBytes_mem _ _ _)
@[simp] theorem dbgRead_mem (ini : Ini) (a : Nat) (n : Nat) (s : State) : (dbgRead ini a n s).2.2.mem = s.mem := by
  unfold dbgRead
  cases s.reach a with
  | none | refused => rfl
  | memory | free | pan p | imem p => simp
  | control =>
    have hm := ctlRead_mem ini (a - controlBase) n s
    generalize ctlRead ini (a - controlBase) n s = r at hm ⊢
    obtain ⟨st, d, t⟩ := r
    dsimp only
    split
    · exact hm
    · rfl
@[simp] theorem State.refuse_mem (s : State) : s.refuse.mem = s.mem := rfl
theorem Memory.wf_plainWrite {s : State} (a : Nat) (bs : List Byte) (hw : Memory.wf s.mem) : Memory.wf (plainWrite a bs s).2.mem := by
  fun_cases plainWrite a bs s
  case case1 => exact Memory.wf_of_mem (State.countSealed_mem _) hw
  case case2 => exact Memory.wf_of_mem (State.modPart_mem _ _ _) hw
  case case3 => exact hw
  case case4 => exact Memory.wf_of_pair ‹unitWrite _ _ _ _ = _› (Memory.wf_unitWrite _ _ _ hw)
/-- The state beside an answer has its memory in canonical form. -/
def AnswerCanonical {α : Type} (r : α × State) : Prop := Memory.wf r.2.mem
/-- The kernel opens a `match` before the function around it, and would then count down from the base of the control region; so the
function is opened by itself, before it is applied. -/
theorem Memory.wf_dbgCtlWrite {s : State} (ini : Ini) (a : Nat) (bs : List Byte) (hw : Memory.wf s.mem) :
    Memory.wf (dbgCtlWrite ini a bs s).2.mem := by
  suffices AnswerCanonical (dbgCtlWrite ini a bs s) from this
  obtain ⟨f, hf⟩ : ∃ f, f = dbgCtlWrite := ⟨_, rfl⟩
  rw [← hf]
  delta dbgCtlWrite at hf
  subst hf
  beta_reduce
  extract_lets off cells
  have he : AnswerCanonical (earlyWrite ini cells s) := Memory.wf_earlyWrite _ _ hw
  have hc : AnswerCanonical (ctlWrite ini off bs.length cells (bs.length = 8) s) := Memory.wf_ctlWrite _ _ _ _ _ hw
  split
  next st t hx =>
  have hr : Memory.wf t.mem := by
    refine (?_ : AnswerCanonical (st, t))
    rw [← hx]
    split
    · exact he
    · exact hc
  unfold AnswerCanonical
  split
  · exact hr
  · split
    · rw [State.refuse_mem]; exact hw
    · dsimp only
      split
      · exact hr
      · rw [State.refuse_mem]; exact hr
theorem Memory.wf_dbgWrite {s : State} (ini : Ini) (a : Nat) (bs : List Byte) (hw : Memory.wf s.mem) :
    Memory.wf (dbgWrite ini a bs s).2.mem := by
  fun_cases dbgWrite ini a bs s
  case case1 | case2 | case3 | case4 | case6 | case9 => exact Memory.wf_of_mem (State.refuse_mem _) hw
  case case5 => exact Memory.wf_plainWrite _ _ hw
  case case7 => exact Memory.wf_of_mem (State.countSealed_mem _) hw
  case case8 => exact Memory.wf_plainWrite _ _ (Memory.wf_of_mem (State.touchPan_mem _ _) hw)
  case case10 => exact Memory.wf_dbgCtlWrite _ _ _ hw
@[simp] theorem State.setShift_mem (s : State) (w : Word) : (s.setShift w).mem = s.mem := rfl
theorem State.dbg_update_mem (s : State) (d : Dbg) : ({ s with dbg := d } : State).mem = s.mem := rfl
@[simp] theorem State.dbgResult_mem (s : State) (op : Nat) (st : BitVec 3) (a d : Nat) : (s.dbgResult op st a d).mem = s.mem :=
  State.dbg_update_mem s _
theorem Memory.wf_resumeCore {s : State} (hw : Memory.wf s.mem) : Memory.wf s.resumeCore.mem := by
  unfold State.resumeCore
  split
  · exact hw
  · dsimp only
    split
    · dsimp only
      exact hw
    · refine Memory.wf_settle _ ?_
      refine Memory.wf_settleDebug ?_
      rw [State.settleMbx_mem]
      refine Memory.wf_boots ?_
      rw [State.kickClear_mem]
      refine Memory.wf_nextDevice ?_
      split
      · split
        · dsimp only
          exact hw
        · refine Memory.wf_pushCtrl _ _ ?_
          dsimp only
          exact hw
      · dsimp only
        exact hw

end Sys2Proof.Machine

/-! SUPPORT. The canonical form of memory: the engines' rows, the queries, and every command's arm (R112, R131). -/
namespace Sys2Proof.Machine

theorem Memory.wf_digestDescriptor {s : State} (window : Addr) (at32 : Nat) (desc input : List Byte) (hw : Memory.wf s.mem) :
    Memory.wf (digestDescriptor window at32 desc input s).mem := by
  unfold digestDescriptor
  exact Memory.wf_ite hw (Memory.wf_settleDigests (Memory.wf_descTry _ (Memory.wf_writeKnown _ _ (Memory.wf_ite
      (Memory.wf_writeKnown _ _ hw) hw))))
theorem Memory.wf_healthTestFail {s : State} (raw : List Byte) (hw : Memory.wf s.mem) : Memory.wf (healthTestFail raw s).mem :=
  Memory.wf_ite hw (Memory.wf_settleEngines (Memory.wf_boots (Memory.wf_of_mem (State.healthCheck_mem _ _) hw)))
theorem Memory.wf_tamperEvent {s : State} (src : TamperSource) (left : FuseOutcome) (hw : Memory.wf s.mem) :
    Memory.wf (tamperEvent src left s).mem := by
  unfold tamperEvent
  exact Memory.wf_ite hw (Memory.wf_of_mem (State.settleMbx_mem _) (Memory.wf_boots (Memory.wf_ite (Memory.wf_settleEngines
      (Memory.wf_of_mem (State.stopJobs_mem _ _ _) hw)) (Memory.wf_of_mem (State.stopJobs_mem _ _ _) hw))))
theorem Memory.wf_queryFrom {s : State} (src : Nat × Nat) (bytes : List Byte) (c : Cmd) (hw : Memory.wf s.mem) :
    Memory.wf (queryFrom src bytes c s).mem := Memory.wf_checked _ _ (fun _ h0 => Memory.wf_complete _ _
        (Memory.wf_engineWrite _ _ h0)) hw
theorem Memory.wf_queryPut {s : State} (bytes : List Byte) (c : Cmd) (hw : Memory.wf s.mem) : Memory.wf (queryPut bytes c s).mem :=
  Memory.wf_queryFrom _ _ _ hw
theorem Memory.wf_querySeqAct {s : State} (c : Cmd) (hw : Memory.wf s.mem) : Memory.wf (querySeqAct c s).mem :=
  Memory.wf_ite (Memory.wf_complete _ _ hw) (Memory.wf_queryFrom _ _ _ hw)
theorem Memory.wf_debugRow {f : Nat} {act : Cmd → State → State} {seq : DWord} {s : State} (ha :
    ∀ c t, Memory.wf t.mem → Memory.wf (act c t).mem)
    (hw : Memory.wf s.mem) : Memory.wf (debugRow f act seq s).mem :=
  Memory.wf_startRow (fun c _ ht => ha c _ (Memory.wf_beginSession _ ht)) hw
theorem Memory.wf_dbgReadAct {s : State} (c : Cmd) (hw : Memory.wf s.mem) : Memory.wf (dbgReadAct c s).mem := by
  unfold dbgReadAct
  dsimp only
  refine Memory.wf_checked _ _ (fun t ht => ?_) ?_
  · refine Memory.wf_complete _ _ ?_
    refine Memory.wf_engineWrite _ _ ?_
    refine foldl_keeps (fun u : List (BitVec 3) × List Byte × State => Memory.wf u.2.2.mem) _ _ (fun u a _ hu => ?_) _ ?_
    · dsimp only
      split
      · rw [dbgRead_mem]
        exact hu
      · dsimp only
        exact hu
    · dsimp only
      exact ht
  · rw [State.clampCmd_mem]
    exact hw
theorem Memory.wf_dbgWriteAct {s : State} (c : Cmd) (hw : Memory.wf s.mem) : Memory.wf (dbgWriteAct c s).mem := by
  unfold dbgWriteAct
  dsimp only
  refine Memory.wf_checked _ _ (fun t ht => ?_) ?_
  · refine Memory.wf_complete _ _ ?_
    refine foldl_keeps (fun u : List (BitVec 3) × State => Memory.wf u.2.mem) _ _ (fun u a _ hu => ?_) _ ?_
    · dsimp only
      split
      · dsimp only
        exact hu
      · split
        · exact Memory.wf_dbgWrite _ _ _ hu
        · dsimp only
          rw [State.refuse_mem]
          exact hu
    · dsimp only
      exact ht
  · rw [State.clampCmd_mem]
    exact hw
theorem Memory.wf_dbgHaltAct {s : State} (c : Cmd) (hw : Memory.wf s.mem) : Memory.wf (dbgHaltAct c s).mem := by
  fun_cases dbgHaltAct c s
  case case1 => exact Memory.wf_complete _ _ hw
  case case2 => exact Memory.wf_complete _ _ (Memory.wf_of_mem (State.unhold_mem _ _ _) hw)
  case case3 => exact Memory.wf_complete _ _ (Memory.wf_of_pair ‹State.hold _ _ _ = _› (Memory.wf_of_mem (State.hold_mem _ _ _) hw))
theorem Memory.wf_haltRow {s : State} (resume : Bool) (seq : DWord) (hw : Memory.wf s.mem) : Memory.wf (haltRow resume seq s).mem := by
  fun_cases haltRow resume seq s
  case case1 | case3 => exact hw
  case case2 => exact Memory.wf_debugRow (fun _ _ h0 => Memory.wf_dbgHaltAct _ h0) hw
theorem Memory.wf_panstateAct {s : State} (c : Cmd) (hw : Memory.wf s.mem) : Memory.wf (panstateAct c s).mem :=
  Memory.wf_queryPut _ _ (Memory.wf_of_mem (State.touchPan_mem _ _) hw)
theorem Memory.wf_stageAct {s : State} (c : Cmd) (hw : Memory.wf s.mem) : Memory.wf (stageAct c s).mem := by
  have hs (t : State) (st : Byte) (ht : Memory.wf t.mem) : Memory.wf (t.countShort.complete c.seq st).mem :=
    Memory.wf_complete _ _ (Memory.wf_of_mem (State.countShort_mem _) ht)
  refine Memory.wf_checked _ _ (fun t ht => ?_) hw
  split
  · exact hs _ _ ht
  · split
    · exact hs _ _ ht
    · extract_lets count u need
      have hu : Memory.wf u.mem := Memory.wf_of_mem (State.clampCmd_mem _ _ _) ht
      split
      · exact hs _ _ hu
      · split
        · exact hs _ _ hu
        · split
          · exact Memory.wf_complete _ _ hu
          · exact Memory.wf_complete _ _ (Memory.wf_ite (Memory.wf_of_mem (State.countTrunc_mem _) hu) hu)
@[simp] theorem panClockGate_mem (p : Nat) (s : State) : (panClockGate p s).mem = s.mem := by
  unfold panClockGate
  dsimp only
  split
  · split
    · rfl
    · split
      · rw [State.modPan_mem]
      · rw [State.modPan_mem, State.draw_mem]
  · split
    · rfl
    · split
      · rw [State.modPan_mem]
      · rw [State.modPan_mem, State.draw_mem]
theorem Memory.wf_vaultRefresh {s : State} (v ch : Nat) (ds : List Detection) (hw : Memory.wf s.mem) :
    Memory.wf (vaultRefresh v ch ds s).mem := by
  unfold vaultRefresh
  split
  · exact hw
  · dsimp only
    split
    · refine Memory.wf_detectAll _ _ _ ?_
      dsimp only
      exact hw
    · split
      · dsimp only
        exact hw
      · refine Memory.wf_detectAll _ _ _ ?_
        dsimp only
        rw [State.lockWhere_mem]
        exact hw
/-- The outcome leaves memory in its canonical form. -/
def LeavesCanonical (o : Host.Outcome State Fault Refusal) : Prop := ∀ t, o = .next t → Memory.wf t.mem

theorem leavesCanonical_next {s : State} (hw : Memory.wf s.mem) : LeavesCanonical (.next s) := by
  rintro t ⟨⟩
  exact hw
theorem leavesCanonical_vecRow {func : Nat} {int : Bool} {act : PEnv → State → Done} (p : BitVec 6) (ds : List Detection) {s : State}
    (ha : ∀ e t, Memory.wf t.mem → Memory.wf (act e t).s.mem) (hw : Memory.wf s.mem) : LeavesCanonical (vecRow func int act p ds s) :=
  leavesCanonical_next (Memory.wf_panRow p ds ha hw)
theorem leavesCanonical_pkeRow (prog : Nat) (slot : Option Nat) (ops : List (List DWord)) (strs : List (List Byte)) {s : State}
    (hw : Memory.wf s.mem) : LeavesCanonical (pkeRow prog slot ops strs s) := by
  refine leavesCanonical_next ?_
  split
  · rw [State.pkeIssue_mem]; exact hw
  · exact hw
theorem leavesCanonical_loadTap (i : TapInstr) {f : State → State} {s : State} (hf : ∀ t, Memory.wf t.mem → Memory.wf (f t).mem)
    (hw : Memory.wf s.mem) : LeavesCanonical (loadTap i f s) := by
  refine leavesCanonical_next ?_
  split
  · exact hf _ hw
  · exact hw
theorem leavesCanonical_dbgOp (op a : Nat) (always write : Bool) {act : State → BitVec 3 × Nat × State} {s : State}
    (ha : Memory.wf (act s).2.2.mem) (hw : Memory.wf s.mem) : LeavesCanonical (dbgOp op a always write act s) := by
  refine leavesCanonical_next ?_
  split
  · exact hw
  · split
    · rw [State.dbgResult_mem]
      split
      · rw [State.refuse_mem]; exact hw
      · exact hw
    · rw [State.dbgResult_mem]; exact ha
theorem leavesCanonical_queryRow (what : Nat) (result : Cmd → State → Option (List Byte)) (seq : DWord) {s : State}
    (hw : Memory.wf s.mem) : LeavesCanonical (queryRow what result seq s) := by
  refine leavesCanonical_next (Memory.wf_startRow (fun c t ht => ?_) hw)
  split
  · exact Memory.wf_complete _ _ ht
  · exact Memory.wf_queryPut _ _ ht
theorem leavesCanonical_ite {c : Prop} [Decidable c] {o p : Host.Outcome State Fault Refusal} (ho : LeavesCanonical o)
    (hp : LeavesCanonical p) : LeavesCanonical (if c then o else p) := by split <;> assumption

theorem exec_leavesCanonical (i : Instr) {s : State} (hw : Memory.wf s.mem) : LeavesCanonical (exec i s) := by
  cases i with
  | registerWrite r off value be => exact leavesCanonical_next (Memory.wf_registerWrite _ _ _ _ hw)
  | latchedLowWordRead ini off => exact leavesCanonical_next (Memory.wf_ite (Memory.wf_of_mem (latchedLow_mem _ _ _) hw) hw)
  | latchedHighWordRead ini off => exact leavesCanonical_next (Memory.wf_ite (Memory.wf_of_mem (latchedHigh_mem _ _ _) hw) hw)
  | vddAonRise => exact leavesCanonical_next (Memory.wf_ite hw hw)
  | i3cAddrSample a b c => exact leavesCanonical_next (Memory.wf_of_mem (i3cSample_mem _ _ _ _) hw)
  | vddAonLoss => exact leavesCanonical_next (Memory.wf_vddAonLoss hw)
  | porstNFall left => exact leavesCanonical_next (Memory.wf_ite (Memory.wf_porReset _ hw) hw)
  | porstNRise env => exact leavesCanonical_next (Memory.wf_of_mem (porstRise_mem _ _) hw)
  | strapWindowStart => exact leavesCanonical_next (Memory.wf_ite hw hw)
  | strapSample a b c => exact leavesCanonical_next (Memory.wf_strapSample _ _ _ hw)
  | railFault rail => exact leavesCanonical_next (Memory.wf_ite (Memory.wf_of_mem (State.fatal_mem _ _ _ _) hw) hw)
  | panSupplyFault g => exact leavesCanonical_next (Memory.wf_panSupplyFault _ hw)
  | refclkLoss => exact leavesCanonical_next (Memory.wf_ite (Memory.wf_ite hw (Memory.wf_of_mem (State.fatal_mem _ _ _ _) hw)) hw)
  | tamperEvent src left => exact leavesCanonical_next (Memory.wf_tamperEvent _ _ hw)
  | ignorePeriodEnd pinLow => exact leavesCanonical_next (Memory.wf_of_mem (ignorePeriodEnd_mem _ _) hw)
  | regAlertAssert => exact leavesCanonical_next (Memory.wf_of_mem (regAlertAssert_mem _) hw)
  | thermTrip => exact leavesCanonical_next (Memory.wf_of_mem (thermTrip_mem _) hw)
  | thermShutdown => exact leavesCanonical_next (Memory.wf_ite (Memory.wf_goDark (Memory.wf_ite hw (Memory.wf_of_mem
      (State.fatal_mem _ _ _ _) hw))) hw)
  | spillwayRelease => exact leavesCanonical_next (Memory.wf_of_mem (spillwayRelease_mem _) hw)
  | spillwayClimb g => exact leavesCanonical_next (Memory.wf_of_mem (spillwayClimb_mem _ _) hw)
  | slackWake => exact leavesCanonical_next (Memory.wf_of_mem (slackWake_mem _) hw)
  | ucieTrainingDone module1 res => exact leavesCanonical_next (Memory.wf_of_mem (trainingDone_mem _ _ _) hw)
  | ucieModuleDrop module1 => exact leavesCanonical_next (Memory.wf_of_mem (moduleDrop_mem _ _) hw)
  | rd module1 hdr ds => exact leavesCanonical_next (Memory.wf_rd _ _ _ hw)
  | wr module1 hdr data ds => exact leavesCanonical_next (Memory.wf_wr _ _ _ _ hw)
  | doorbellWrite r q value => exact leavesCanonical_next (Memory.wf_serve _ (fun _ h0 => Memory.wf_of_mem (State.earlyBell_mem _) h0)
      (fun _ h0 => Memory.wf_of_mem (bellWrite_mem _ _ _ _) h0) hw)
  | commandAccept => exact leavesCanonical_next (Memory.wf_acceptNext hw)
  | contextRingChange q => exact leavesCanonical_next (Memory.wf_of_mem (State.settleCtx_mem _ _) hw)
  | nop seq => exact leavesCanonical_next (Memory.wf_startRow (fun _ _ h0 => Memory.wf_complete _ _ h0) hw)
  | runProgram seq =>
    refine leavesCanonical_next ?_
    split
    · exact Memory.wf_ite hw (Memory.wf_startRow (fun _ _ h => Memory.wf_runProgramAct _ h) hw)
    · exact hw
  | loadProgram seq => exact leavesCanonical_next (Memory.wf_startRow (fun _ _ h0 => Memory.wf_loadProgramAct _ h0) hw)
  | loadWeights seq => exact leavesCanonical_next (Memory.wf_startRow (fun _ _ h0 => Memory.wf_loadWeightsAct _ h0) hw)
  | sealedCopyDone seq ds => exact leavesCanonical_next (Memory.wf_copyDone _ _ hw)
  | measureProgram seq => exact leavesCanonical_next (Memory.wf_startRow (fun _ _ h0 => Memory.wf_measureAct _ _ h0) hw)
  | measureWeights seq => exact leavesCanonical_next (Memory.wf_startRow (fun _ _ h0 => Memory.wf_measureAct _ _ h0) hw)
  | measureOwner seq =>
    refine leavesCanonical_next ?_
    split
    · exact Memory.wf_ite hw (Memory.wf_startRow (fun _ _ h => Memory.wf_measureOwnerAct _ h) hw)
    · exact hw
  | kvBind seq => exact leavesCanonical_next (Memory.wf_startRow (fun _ _ h0 => Memory.wf_kvBindAct _ h0) hw)
  | kvRelease seq => exact leavesCanonical_next (Memory.wf_startRow (fun _ _ h0 => Memory.wf_kvReleaseAct _ h0) hw)
  | clearRegionProgram seq => exact leavesCanonical_next (Memory.wf_startRow (fun _ _ h0 => Memory.wf_clearHandleAct _ _ h0) hw)
  | clearRegionWeights seq => exact leavesCanonical_next (Memory.wf_startRow (fun _ _ h0 => Memory.wf_clearHandleAct _ _ h0) hw)
  | clearRegionRange seq => exact leavesCanonical_next (Memory.wf_startRow (fun _ _ h0 => Memory.wf_clearRangeAct _ h0) hw)
  | setSeed seq => exact leavesCanonical_next (Memory.wf_startRow (fun _ _ h0 => Memory.wf_setSeedAct _ h0) hw)
  | fenceQueue seq => exact leavesCanonical_next (Memory.wf_startRow (fun _ _ h0 => Memory.wf_of_mem (fenceAct_mem _ _) h0) hw)
  | fencePartition seq => exact leavesCanonical_next (Memory.wf_startRow (fun _ _ h0 => Memory.wf_of_mem (fenceAct_mem _ _) h0) hw)
  | abortCommand seq => exact leavesCanonical_next (Memory.wf_startRow (fun _ _ h0 => Memory.wf_abortAct _ _ _ h0) hw)
  | abortQueue seq => exact leavesCanonical_next (Memory.wf_startRow (fun _ _ h0 => Memory.wf_abortAct _ _ _ h0) hw)
  | abortPartition seq => exact leavesCanonical_next (Memory.wf_startRow (fun _ _ h0 => Memory.wf_abortAct _ _ _ h0) hw)
  | queryDevice seq => exact leavesCanonical_queryRow 0 queryDeviceBytes seq hw
  | queryQueue seq => exact leavesCanonical_queryRow 1 queryQueueBytes seq hw
  | queryProgram seq => exact leavesCanonical_queryRow 2 queryProgramBytes seq hw
  | queryTally seq => exact leavesCanonical_queryRow 3 queryTallyBytes seq hw
  | queryTallyCkpt seq => exact leavesCanonical_queryRow 4 queryCkptBytes seq hw
  | queryWeights seq => exact leavesCanonical_queryRow 5 queryWeightsBytes seq hw
  | queryPartition seq => exact leavesCanonical_queryRow 6 queryPartBytes seq hw
  | profile seq => exact leavesCanonical_queryRow 0x80 profileResult seq hw
  | querySequence seq => exact leavesCanonical_next (Memory.wf_startRow (fun _ _ h0 => Memory.wf_querySeqAct _ h0) hw)
  | dbgRead seq =>
    refine leavesCanonical_next ?_
    split
    · exact Memory.wf_ite hw (Memory.wf_debugRow (fun _ _ h => Memory.wf_dbgReadAct _ h) hw)
    · exact hw
  | dbgWrite seq => exact leavesCanonical_next (Memory.wf_debugRow (fun _ _ h0 => Memory.wf_dbgWriteAct _ h0) hw)
  | dbgHalt seq => exact leavesCanonical_next (Memory.wf_haltRow _ _ hw)
  | dbgResume seq => exact leavesCanonical_next (Memory.wf_haltRow _ _ hw)
  | dbgPanstate seq => exact leavesCanonical_next (Memory.wf_debugRow (fun _ _ h0 => Memory.wf_panstateAct _ h0) hw)
  | dbgEnd seq => exact leavesCanonical_next (Memory.wf_startRow (fun _ _ h0 => Memory.wf_complete _ _ (Memory.wf_of_mem
      (State.endSession_mem _ _) h0)) hw)
  | stage seq => exact leavesCanonical_next (Memory.wf_startRow (fun _ _ h0 => Memory.wf_stageAct _ h0) hw)
  | commitPartition seq => exact leavesCanonical_next (Memory.wf_startRow (fun _ _ h0 => Memory.wf_commitPartAct _ h0) hw)
  | commitDevice seq => exact leavesCanonical_next (Memory.wf_startRow (fun _ _ h0 => Memory.wf_commitDeviceAct _ h0) hw)
  | prtCommitGo r p => exact leavesCanonical_next (Memory.wf_serve _ (fun _ h0 => by exact h0)
      (fun _ h0 => Memory.wf_prtCommit _ _ _ _ h0) hw)
  | prtCommitDiscard r p => exact leavesCanonical_next (Memory.wf_serve _ (fun _ h0 => by exact h0)
      (fun _ h0 => Memory.wf_prtCommit _ _ _ _ h0) hw)
  | glbCommitGo r => exact leavesCanonical_next (Memory.wf_serve _ (fun _ h0 => by exact h0)
      (fun _ h0 => Memory.wf_glbCommit _ _ _ h0) hw)
  | glbCommitDiscard r => exact leavesCanonical_next (Memory.wf_serve _ (fun _ h0 => by exact h0)
      (fun _ h0 => Memory.wf_glbCommit _ _ _ h0) hw)
  | epochBoundary p => exact leavesCanonical_next (Memory.wf_epochBoundary _ hw)
  | partitionClearDone p v => exact leavesCanonical_next (Memory.wf_partitionClearDone _ _ hw)
  | copy p ds => exact leavesCanonical_next (Memory.wf_panRow _ _ (fun _ _ h0 => Memory.wf_copyAct _ h0) hw)
  | fill p ds => exact leavesCanonical_next (Memory.wf_panRow _ _ (fun _ _ h0 => Memory.wf_fillAct _ h0) hw)
  | cycle p ds => exact leavesCanonical_next (Memory.wf_panRow _ _ (fun _ _ h0 => Memory.wf_cycleAct _ h0) hw)
  | matmulTile p ds => exact leavesCanonical_next (Memory.wf_panRow _ _ (fun _ _ h0 => Memory.wf_mmAct _ h0) hw)
  | matmulStream p ds => exact leavesCanonical_next (Memory.wf_panRow _ _ (fun _ _ h0 => Memory.wf_mmAct _ h0) hw)
  | kvAppend p ds => exact leavesCanonical_next (Memory.wf_appendPending _ _ hw)
  | add p ds | sub p ds | mul p ds | max p ds | min p ds | iadd p ds | isub p ds | imul p ds =>
    exact leavesCanonical_vecRow _ _ (fun _ _ h => Memory.wf_vecBin _ _ h) hw
  | fma p ds => exact leavesCanonical_vecRow _ _ (fun _ _ h => Memory.wf_vecFma _ h) hw
  | abs p ds | neg p ds | recip p ds | rsqrt p ds | exp p ds | sigmoid p ds | silu p ds =>
    exact leavesCanonical_vecRow _ _ (fun _ _ h => Memory.wf_vecUn _ _ h) hw
  | convert p ds => exact leavesCanonical_vecRow _ _ (fun _ _ h => Memory.wf_vecConvert _ h) hw
  | shr p ds => exact leavesCanonical_vecRow _ _ (fun _ _ h => Memory.wf_vecShr _ h) hw
  | reduceAdd p ds => exact leavesCanonical_next (Memory.wf_panRow _ _ (fun _ _ h0 => Memory.wf_reduceAddAct _ h0) hw)
  | reduceMax p ds => exact leavesCanonical_next (Memory.wf_panRow _ _ (fun _ _ h0 => Memory.wf_reduceAct _ _ _ h0) hw)
  | quantRuntime p ds => exact leavesCanonical_next (Memory.wf_panRow _ _ (fun _ _ h0 => Memory.wf_quantAct _ _ h0) hw)
  | quantLearned p ds => exact leavesCanonical_next (Memory.wf_panRow _ _ (fun _ _ h0 => Memory.wf_quantAct _ _ h0) hw)
  | dequantFp32 p ds => exact leavesCanonical_next (Memory.wf_panRow _ _ (fun _ _ h0 => Memory.wf_dequantAct _ _ h0) hw)
  | dequantBf16 p ds => exact leavesCanonical_next (Memory.wf_panRow _ _ (fun _ _ h0 => Memory.wf_dequantAct _ _ h0) hw)
  | score p ds => exact leavesCanonical_next (Memory.wf_panRow _ _ (fun _ _ h0 => Memory.wf_scoreAct _ h0) hw)
  | softmax p ds => exact leavesCanonical_next (Memory.wf_panRow _ _ (fun _ _ h0 => Memory.wf_softmaxAct _ h0) hw)
  | value p ds => exact leavesCanonical_next (Memory.wf_panRow _ _ (fun _ _ h0 => Memory.wf_valueAct _ h0) hw)
  | gatherKeys p ds => exact leavesCanonical_next (Memory.wf_panRow _ _ (fun _ _ h0 => Memory.wf_gatherAct _ _ h0) hw)
  | gatherValues p ds => exact leavesCanonical_next (Memory.wf_panRow _ _ (fun _ _ h0 => Memory.wf_gatherAct _ _ h0) hw)
  | greedy p ds => exact leavesCanonical_next (Memory.wf_panRow _ _ (fun _ _ h0 => Memory.wf_greedyAct _ h0) hw)
  | categorical p ds => exact leavesCanonical_next (Memory.wf_ite hw (Memory.wf_panRow _ _
      (fun _ _ h0 => Memory.wf_categoricalAct _ h0) hw))
  | barrier p ds => exact leavesCanonical_next (Memory.wf_panRow _ _ (fun _ _ h0 => Memory.wf_of_mem (arriveAct_mem _ _) h0) hw)
  | gatherAll p ds => exact leavesCanonical_next (Memory.wf_panRow _ _ (fun _ _ h0 => Memory.wf_of_mem (arriveAct_mem _ _) h0) hw)
  | sum p ds => exact leavesCanonical_next (Memory.wf_panRow _ _ (fun _ _ h0 => Memory.wf_of_mem (arriveAct_mem _ _) h0) hw)
  | lseMerge p ds => exact leavesCanonical_next (Memory.wf_panRow _ _ (fun _ _ h0 => Memory.wf_of_mem (arriveAct_mem _ _) h0) hw)
  | argmax p ds => exact leavesCanonical_next (Memory.wf_panRow _ _ (fun _ _ h0 => Memory.wf_of_mem (arriveAct_mem _ _) h0) hw)
  | broadcast p ds => exact leavesCanonical_next (Memory.wf_panRow _ _ (fun _ _ h0 => Memory.wf_of_mem (arriveAct_mem _ _) h0) hw)
  | confluenceRelease seq skew => exact leavesCanonical_next (Memory.wf_confluenceGo _ _ hw)
  | loop p ds => exact leavesCanonical_next (Memory.wf_panRow _ _ (fun _ _ h0 => Memory.wf_of_mem (loopAct_mem _ _) h0) hw)
  | wait p ds => exact leavesCanonical_next (Memory.wf_panRow _ _ (fun _ _ h0 => Memory.wf_of_mem (waitAct_mem _ _) h0) hw)
  | step p ds => exact leavesCanonical_next (Memory.wf_panRow _ _ (fun _ _ h0 => Memory.wf_of_mem (stepAct_mem _ _) h0) hw)
  | endProgram p ds => exact leavesCanonical_next (Memory.wf_panRow _ _ (fun _ _ h0 => Memory.wf_endAct _ h0) hw)
  | programBlockFetch p ds => exact leavesCanonical_next (Memory.wf_fetchNext _ _ hw)
  | panClockGate p => exact leavesCanonical_next (Memory.wf_of_mem (panClockGate_mem _ _) hw)
  | vaultRefresh v ch ds => exact leavesCanonical_next (Memory.wf_vaultRefresh _ _ _ hw)
  | raceDoorbell r slot value => exact leavesCanonical_next (Memory.wf_serveRace _ (fun _ h0 => Memory.wf_of_mem
      (State.earlyBell_mem _) h0) (fun _ h0 => Memory.wf_of_mem (raceDoorbell_mem _ _ _ _) h0) hw)
  | raceComplete slot late fabric => exact leavesCanonical_next (Memory.wf_of_mem (raceComplete_mem _ _ _ _) hw)
  | raceInWrite r slot off data => exact leavesCanonical_next (Memory.wf_serveRace _ (fun _ h0 => by exact h0)
      (fun _ h0 => Memory.wf_of_mem (raceIn_mem _ _ _ _) h0) hw)
  | raceArmDone slot => exact leavesCanonical_next (Memory.wf_raceArmDone _ hw)
  | raceDisarm d => exact leavesCanonical_next (Memory.wf_raceDisarm _ _ hw)
  | glbSleepDoze r => exact leavesCanonical_next (Memory.wf_serve _ (fun _ h0 => by exact h0) (fun _ h0 => Memory.wf_of_mem
      (sleepReq_mem _ _ _) h0) hw)
  | glbSleepSlack r => exact leavesCanonical_next (Memory.wf_serve _ (fun _ h0 => by exact h0) (fun _ h0 => Memory.wf_of_mem
      (sleepReq_mem _ _ _) h0) hw)
  | dozeEntry => exact leavesCanonical_next (Memory.wf_dozeEntry hw)
  | slackEntry => exact leavesCanonical_next (Memory.wf_slackEntry hw)
  | dozeWake => exact leavesCanonical_next (Memory.wf_dozeWake hw)
  | fastWake raw env => exact leavesCanonical_next (Memory.wf_fastWake _ _ hw)
  | capWindow w => exact leavesCanonical_next (Memory.wf_capWindow _ hw)
  | droopTrip g => exact leavesCanonical_next (Memory.wf_of_mem (droopTrip_mem _ _) hw)
  | stretchEnd g => exact leavesCanonical_next (Memory.wf_of_mem (State.modGroup_mem _ _ _) hw)
  | opIncrease r => exact leavesCanonical_next (Memory.wf_of_mem (opIncrease_mem _ _ _) hw)
  | replanPoint => exact leavesCanonical_next (Memory.wf_of_mem (replanPoint_mem _) hw)
  | energySlackTick => exact leavesCanonical_next (Memory.wf_of_mem (energySlackTick_mem _) hw)
  | checkpoint => exact leavesCanonical_next (Memory.wf_checkpoint hw)
  | mbxPush r c word be => exact leavesCanonical_next (Memory.wf_serve _ (fun _ h0 => by exact h0) (fun _ h0 => Memory.wf_of_mem
      (mbxAct_mem _ _ _ (fun _ _ => (State.settleMbx_mem _).trans (State.modChan_mem _ _ _))) h0) hw)
  | mbxPop r c => exact leavesCanonical_next (Memory.wf_of_mem (mbxPop_mem _ _ _) hw)
  | flushIn r c => exact leavesCanonical_next (Memory.wf_serve _ (fun _ h0 => by exact h0) (fun _ h0 => Memory.wf_of_mem
      (mbxAct_mem _ _ _ (fun _ _ => State.modChan_mem _ _ _)) h0) hw)
  | serviceTimeout c => exact leavesCanonical_next (Memory.wf_of_mem (serviceTimeout_mem _ _) hw)
  | keyInfo c => exact leavesCanonical_next (Memory.wf_svcRow (fun _ _ _ _ h0 => Memory.wf_of_mem (keyInfoAct_mem _ _ _ _) h0) hw)
  | keyDerive c => exact leavesCanonical_next (Memory.wf_svcRow (fun _ _ _ _ h0 => Memory.wf_of_mem (keyDeriveAct_mem _ _ _ _) h0) hw)
  | keyGenerate c => exact leavesCanonical_next (Memory.wf_svcRow (fun _ _ _ _ h0 => Memory.wf_keyGenerateAct _ _ _ h0) hw)
  | keyImport c => exact leavesCanonical_next (Memory.wf_svcRow (fun _ _ _ _ h0 => Memory.wf_of_mem (keyImportAct_mem _ _ _ _) h0) hw)
  | keyHmac c => exact leavesCanonical_next (Memory.wf_svcRow (fun _ _ _ _ h0 => Memory.wf_keyHmacAct _ _ _ h0) hw)
  | keySign c => exact leavesCanonical_next (Memory.wf_svcRow (fun _ _ _ _ h0 => Memory.wf_keySignAct _ _ _ h0) hw)
  | keyEcdh c => exact leavesCanonical_next (Memory.wf_svcRow (fun _ _ _ _ h0 => Memory.wf_of_mem (keyEcdhAct_mem _ _ _ _) h0) hw)
  | keyZeroise c => exact leavesCanonical_next (Memory.wf_svcRow (fun _ _ _ _ h0 => Memory.wf_keyZeroiseAct _ _ _ h0) hw)
  | keyPublic c => exact leavesCanonical_next (Memory.wf_svcRow (fun _ _ _ _ h0 => Memory.wf_keyPublicAct _ _ _ h0) hw)
  | otpRead c => exact leavesCanonical_next (Memory.wf_svcRow (fun _ _ _ _ h0 => Memory.wf_of_mem (otpReadAct_mem _ _ _ _) h0) hw)
  | otpProgram c => exact leavesCanonical_next (Memory.wf_svcRow (fun _ _ _ _ h0 => Memory.wf_of_mem (otpProgramAct_mem _ _ _ _) h0) hw)
  | otpLock c => exact leavesCanonical_next (Memory.wf_svcRow (fun _ _ _ _ h0 => Memory.wf_of_mem (otpLockAct_mem _ _ _ _) h0) hw)
  | otpPulse left => exact leavesCanonical_next (Memory.wf_of_mem (otpPulse_mem _ _) hw)
  | digest c => exact leavesCanonical_next (Memory.wf_svcRow (fun _ _ _ _ h0 => Memory.wf_digestAct _ _ _ h0) hw)
  | hmacVerify c => exact leavesCanonical_next (Memory.wf_svcRow (fun _ _ _ _ h0 => Memory.wf_of_mem (hmacVerifyAct_mem _ _ _ _) h0) hw)
  | random c => exact leavesCanonical_next (Memory.wf_svcRow (fun _ _ _ _ h0 => Memory.wf_of_mem (randomAct_mem _ _ _ _) h0) hw)
  | attestReport c => exact leavesCanonical_next (Memory.wf_svcRow (fun _ _ _ _ h0 => Memory.wf_attestReportAct _ _ _ h0) hw)
  | attestLog c => exact leavesCanonical_next (Memory.wf_svcRow (fun _ _ _ _ h0 => Memory.wf_attestLogAct _ _ _ h0) hw)
  | attestChain c => exact leavesCanonical_next (Memory.wf_svcRow (fun _ _ _ _ h0 => Memory.wf_attestChainAct _ _ _ h0) hw)
  | attestMr c => exact leavesCanonical_next (Memory.wf_svcRow (fun _ _ _ _ h0 => Memory.wf_of_mem (attestMrAct_mem _ _ _ _) h0) hw)
  | imageWrite c => exact leavesCanonical_next (Memory.wf_svcRow (fun _ _ _ _ h0 => Memory.wf_imageWriteAct _ _ _ h0) hw)
  | digestDescriptor place desc input => exact leavesCanonical_next (Memory.wf_digestDescriptor _ _ _ _ hw)
  | p256Sign slot ops | p256Verify ops | p256Public slot | p384Sign slot ops | p384Verify ops | p384Public slot | p384Ecdh slot ops
  | mldsaPublic slot | mldsaSign slot msg | mldsaVerify pub msg sig | rsa3072Verify ops | rsa4096Verify ops =>
    exact leavesCanonical_pkeRow _ _ _ _ hw
  | drbgInstantiate startup raw => exact leavesCanonical_next (Memory.wf_ite hw (Memory.wf_settleEngines (Memory.wf_boots (Memory.wf_ite
      (Memory.wf_of_mem (State.startupTest_mem _ _) hw) (Memory.wf_of_mem (State.drbgInstantiate_mem _ _) (Memory.wf_of_mem
      (State.startupTest_mem _ _) hw))))))
  | drbgReseed raw => exact leavesCanonical_next (Memory.wf_ite hw (Memory.wf_settleEngines (Memory.wf_boots (Memory.wf_of_mem
      (State.drbgReseed_mem _ _) hw))))
  | entropyBufferRefill =>
    refine leavesCanonical_next ?_
    split
    · exact hw
    · dsimp only
      split
      · exact hw
      · dsimp only
        rename_i hu
        rw [State.drbgTake_mem hu]
        exact hw
  | healthTestFail raw => exact leavesCanonical_next (Memory.wf_healthTestFail _ hw)
  | transitionExamine => exact leavesCanonical_next (Memory.wf_transitionExamine hw)
  | bootClearDone v => exact leavesCanonical_next (Memory.wf_bootClearDone _ hw)
  | selfTestDone p pass => exact leavesCanonical_next (Memory.wf_selfTestDone _ _ hw)
  | readyRise => exact leavesCanonical_next (Memory.wf_readyRise hw)
  | pushChunk r ctrl => exact leavesCanonical_next (Memory.wf_pushRow _ _ _ hw)
  | abandon r ctrl => exact leavesCanonical_next (Memory.wf_pushRow _ _ _ hw)
  | profClear r p => exact leavesCanonical_next (Memory.wf_serve _ (fun _ h0 => by exact h0) (fun _ h0 => Memory.wf_of_mem
      (profWrite_mem _ _ _ _ _) h0) hw)
  | testLogicReset =>
    unfold exec execTestLogicReset
    exact leavesCanonical_loadTap _ (fun _ h => Memory.wf_of_mem (State.endSession_mem _ _) (Memory.wf_of_mem
    (State.setShift_mem _ _) h)) hw
  | extest =>
    unfold exec execExtest
    exact leavesCanonical_loadTap _ (fun _ h => h) hw
  | samplePreload pins =>
    unfold exec execSamplePreload
    exact leavesCanonical_loadTap _ (fun _ h => h) hw
  | idcode =>
    unfold exec execIdcode
    exact leavesCanonical_loadTap _ (fun _ h => Memory.wf_of_mem (State.setShift_mem _ _) h) hw
  | highz =>
    unfold exec execHighz
    exact leavesCanonical_loadTap _ (fun _ h => h) hw
  | clamp =>
    unfold exec execClamp
    exact leavesCanonical_loadTap _ (fun _ h => h) hw
  | dbg =>
    unfold exec execDbg
    exact leavesCanonical_loadTap _ (fun _ h => Memory.wf_beginSession _ h) hw
  | bypass =>
    unfold exec execBypass
    exact leavesCanonical_loadTap _ (fun _ h => Memory.wf_of_mem (State.setShift_mem _ _) h) hw
  | dbgNop =>
    unfold exec execDbgNop
    exact leavesCanonical_dbgOp _ _ _ _ hw hw
  | read8B a =>
    unfold exec execRead8B
    exact leavesCanonical_ite (leavesCanonical_next hw) (leavesCanonical_dbgOp _ _ _ _ (Memory.wf_of_mem (dbgRead_mem _ _ _ _) hw) hw)
  | write8B a d =>
    unfold exec execWrite8B
    exact leavesCanonical_dbgOp _ _ _ _ (Memory.wf_dbgWrite _ _ _ hw) hw
  | haltPan p =>
    unfold exec execHaltPan
    exact leavesCanonical_dbgOp _ _ _ _ (Memory.wf_of_mem (State.hold_mem _ _ _) hw) hw
  | resumePan p =>
    unfold exec execResumePan
    exact leavesCanonical_dbgOp _ _ _ _ (Memory.wf_of_mem (State.unhold_mem _ _ _) hw) hw
  | haltSaltern =>
    unfold exec execHaltSaltern
    exact leavesCanonical_dbgOp _ _ _ _ hw hw
  | resumeSaltern =>
    unfold exec execResumeSaltern
    exact leavesCanonical_dbgOp _ _ _ _ (Memory.wf_resumeCore hw) hw
  | dbgStatus =>
    unfold exec execDbgStatus
    exact leavesCanonical_dbgOp _ _ _ _ hw hw
  | entdaa a | setdasa static dyn | rstdaa | regRead off count | holdSet | holdClear
  | getpid | getbcr | getdcr | getstatus | i3cPrivateRead n => exact leavesCanonical_next (Memory.wf_ite hw hw)
  | enec => exact leavesCanonical_next hw
  | disec => exact leavesCanonical_next hw
  | i3cClockSourceSwitch refclk => exact leavesCanonical_next (Memory.wf_ite hw hw)
  | vppOtpLoss left => exact leavesCanonical_next (Memory.wf_of_mem (vppLoss_mem _ _) hw)
  | droopDetectorClear g => exact leavesCanonical_next (Memory.wf_of_mem (State.modGroup_mem _ _ _) hw)
  | boostLeave100C g => exact leavesCanonical_next (Memory.wf_of_mem (boostLeave_mem _ _) hw)
  | clearRegionDone seq v => exact leavesCanonical_next (Memory.wf_clearRegionDone _ _ hw)

/-- Settles O59: a step runs the command at the front of the queue on a state of the same memory, and each command's arm leaves memory
in its canonical form; an empty queue idles. -/
theorem everyStepKeepsMemoryCanonical : Obligations.EveryStepKeepsMemoryCanonical := by
  unfold Obligations.EveryStepKeepsMemoryCanonical
  intro s t hw h
  unfold step at h
  split at h
  · exact leavesCanonical_next hw t h
  next c rest _ => exact exec_leavesCanonical c (s := { s with pending := rest }) hw t h

end Sys2Proof.Machine

/-! SUPPORT. RD and WR of memory: what one unit of a write does, the units in turn, and what a read finds. -/
namespace Sys2Proof.Machine

/-- An access to memory changes nothing but the sleep state. -/
theorem State.touchMemory_eq (s : State) (a : Nat) : ∃ p, s.touchMemory a = { s with power := p } := by
  unfold State.touchMemory State.wakeEvent
  split
  · split <;> exact ⟨_, rfl⟩
  · exact ⟨s.power, rfl⟩

/-- A write of some bytes of a unit but not all of them that finds the unit marked: it leaves the unit as it is. -/
@[reducible] def unitKept (s : State) (u : Nat) (data : List (Option Byte)) : Prop :=
  data.all Option.isSome = false ∧ data.all Option.isNone = false ∧ s.marked u 16 = true

/-- One unit of a write, with no error detected, gives POISONED where the unit stays as it is, and OK otherwise. -/
theorem unitWrite_status (u : Nat) (data : List (Option Byte)) (s : State) :
    ((unitWrite u data false s).1 = rPoisoned ↔ unitKept s u data)
      ∧ ((unitWrite u data false s).1 = rOk ∨ (unitWrite u data false s).1 = rPoisoned) := by
  unfold unitKept
  fun_cases unitWrite u data false s with
  | case1 h => exact ⟨by simp [h, rOk, rPoisoned], .inl rfl⟩
  | case2 h h' => exact ⟨by simp [h', rOk, rPoisoned], .inl rfl⟩
  | case3 h h' hm => exact ⟨by simp_all, .inr rfl⟩
  | case4 h h' hm => exact ⟨by simp_all [rOk, rPoisoned], .inl rfl⟩

/-- It changes the enabled bytes of its unit, unless the unit stays as it is. -/
theorem unitWrite_byte (u : Nat) (data : List (Option Byte)) (s : State) (hl : data.length = 16) (x : Nat) :
    (unitWrite u data false s).2.byte x = if u ≤ x ∧ x < u + 16 ∧ ¬ unitKept s u data then (data.getD (x - u) none).getD (s.byte x)
      else s.byte x := by
  unfold unitKept
  fun_cases unitWrite u data false s with
  | case1 h =>
    have hn (k : Nat) : data[k]?.getD none = none := by
      cases hk : data[k]? with
      | none => rfl
      | some b => simpa using List.all_eq_true.mp h b (List.mem_of_getElem? hk)
    simp [hn]
  | case2 h h' t =>
    show (s.write u _).byte x = _
    rw [State.byte_write, List.length_map, hl]
    by_cases hx : u ≤ x ∧ x < u + 16
    · have hlt : x - u < data.length := by omega
      obtain ⟨b, hb⟩ := Option.isSome_iff_exists.mp (List.all_eq_true.mp h' data[x - u] (List.getElem_mem hlt))
      rw [if_pos hx, if_pos ⟨hx.1, hx.2, by simp [h']⟩]
      simp [List.getElem?_eq_getElem hlt, hb]
    · rw [if_neg hx, if_neg (by tauto)]
  | case3 h h' hm => simp_all
  | case4 h h' hm old t =>
    show (s.write u _).byte x = _
    rw [State.byte_write, List.length_map, List.length_range]
    by_cases hx : u ≤ x ∧ x < u + 16
    · have hk : x - u < 16 := by omega
      have hr : old.getD (x - u) 0 = s.byte x := by rw [State.getD_read s u 16 _ hk]; congr 1; omega
      rw [if_pos hx, if_pos ⟨hx.1, hx.2, by simp_all⟩, ← hr]
      simp [hk]
    · rw [if_neg hx, if_neg (by tauto)]

/-- It takes the mark off its unit where it writes the whole unit, and changes no other mark. -/
theorem mem_unitWrite_poison (u : Nat) (data : List (Option Byte)) (s : State) (hl : data.length = 16) (y : Nat) :
    y ∈ (unitWrite u data false s).2.poison ↔ y ∈ s.poison ∧ (data.all Option.isSome = true → y ≠ u) := by
  fun_cases unitWrite u data false s with
  | case1 h =>
    have : data.all Option.isSome = false := by
      cases data with
      | nil => simp at hl
      | cons b l => cases b <;> simp_all
    simp [this]
  | case2 h h' t =>
    show y ∈ (s.write u _).poison ↔ _
    rw [State.write_poison, List.mem_filter, List.length_map, hl]
    refine and_congr_right fun _ => ?_
    simp [h']
  | case3 h h' hm => simp [h']
  | case4 h h' hm old t =>
    show y ∈ (s.write u _).poison ↔ _
    rw [State.write_poison_unmarked _ _ _ (by simpa using hm)]
    simp [h']

/-- It changes nothing but bytes and marks. -/
theorem unitWrite_frame (u : Nat) (data : List (Option Byte)) (s : State) :
    { (unitWrite u data false s).2 with mem := s.mem, poison := s.poison } = s := by
  fun_cases unitWrite u data false s <;> rfl

/-- The data of one unit of a write. -/
def unitData (D : List (Option Byte)) (i : Nat) : List (Option Byte) := (D.drop (16 * i)).take 16

theorem length_unitData (D : List (Option Byte)) (i : Nat) (h : 16 * (i + 1) ≤ D.length) : (unitData D i).length = 16 := by
  simp [unitData]; omega

theorem getD_unitData (D : List (Option Byte)) (i k : Nat) (h : k < 16) : (unitData D i).getD k none = D.getD (16 * i + k) none := by
  simp [unitData, h]

/-- The units of a write in turn, with no error detected: the status is the first that is not OK. -/
def unitsWrite (a : Nat) (D : List (Option Byte)) (N : Nat) (s : State) : BitVec 4 × State :=
  (List.range N).foldl (fun x i => thenStatus x (unitWrite (a + 16 * i) (unitData D i) false)) (rOk, s)

theorem unitsWrite_succ (a : Nat) (D : List (Option Byte)) (N : Nat) (s : State) :
    unitsWrite a D (N + 1) s = thenStatus (unitsWrite a D N s) (unitWrite (a + 16 * N) (unitData D N) false) := by
  simp [unitsWrite, List.range_succ]

theorem thenStatus_fst (x : BitVec 4 × State) (f : State → BitVec 4 × State) :
    (thenStatus x f).1 = if x.1 = rOk then (f x.2).1 else x.1 := rfl

theorem thenStatus_snd (x : BitVec 4 × State) (f : State → BitVec 4 × State) : (thenStatus x f).2 = (f x.2).2 := rfl

/-- The units written take their marks off where they are written whole. -/
theorem mem_unitsWrite_poison (a : Nat) (D : List (Option Byte)) (N : Nat) (s : State) (h : 16 * N ≤ D.length) (y : Nat) :
    y ∈ (unitsWrite a D N s).2.poison ↔ y ∈ s.poison ∧ ∀ i, i < N → (unitData D i).all Option.isSome = true → y ≠ a + 16 * i := by
  induction N with
  | zero => simp [unitsWrite]
  | succ N ih =>
    rw [unitsWrite_succ, thenStatus_snd, mem_unitWrite_poison _ _ _ (length_unitData D N h), ih (by omega), and_assoc,
      Nat.forall_lt_succ_right]

/-- A unit that has not had its turn yet is marked where it was. -/
theorem unitsWrite_marked (a : Nat) (D : List (Option Byte)) (N : Nat) (s : State) (h : 16 * N ≤ D.length) :
    (unitsWrite a D N s).2.marked (a + 16 * N) 16 = s.marked (a + 16 * N) 16 := by
  unfold State.marked
  rw [Bool.eq_iff_iff]
  simp only [Bool.and_eq_true, List.any_eq_true, mem_unitsWrite_poison a D N s h, decide_eq_true_eq]
  refine and_congr_right fun _ => exists_congr fun y => ⟨fun ⟨⟨hy, _⟩, ho⟩ => ⟨hy, ho⟩, fun ⟨hy, ho⟩ => ⟨⟨hy, fun i hi _ => ?_⟩, ho⟩⟩
  omega

theorem unitsWrite_kept (a : Nat) (D : List (Option Byte)) (N : Nat) (s : State) (h : 16 * N ≤ D.length) (d : List (Option Byte)) :
    unitKept (unitsWrite a D N s).2 (a + 16 * N) d ↔ unitKept s (a + 16 * N) d := by
  rw [unitKept, unitKept, unitsWrite_marked a D N s h]

/-- The status of the units together. -/
theorem unitsWrite_status (a : Nat) (D : List (Option Byte)) (N : Nat) (s : State) (h : 16 * N ≤ D.length) :
    ((unitsWrite a D N s).1 = rPoisoned ↔ ∃ i, i < N ∧ unitKept s (a + 16 * i) (unitData D i))
      ∧ ((unitsWrite a D N s).1 = rOk ∨ (unitsWrite a D N s).1 = rPoisoned) := by
  induction N with
  | zero => exact ⟨by simp [unitsWrite, rOk, rPoisoned], .inl rfl⟩
  | succ N ih =>
    obtain ⟨hi, ho⟩ := ih (by omega)
    obtain ⟨hu, hv⟩ := unitWrite_status (a + 16 * N) (unitData D N) (unitsWrite a D N s).2
    rw [unitsWrite_kept a D N s (by omega)] at hu
    rw [unitsWrite_succ, thenStatus_fst, Nat.exists_lt_succ_right, ← hi, ← hu]
    rcases ho with ho | ho
    · simp [ho, hv, show rOk ≠ rPoisoned from by decide]
    · simp [ho, show rPoisoned ≠ rOk from by decide]

/-- The bytes of the units together. -/
theorem unitsWrite_byte (a : Nat) (D : List (Option Byte)) (N : Nat) (s : State) (h : 16 * N ≤ D.length) :
    (∀ i k, i < N → k < 16 → (unitsWrite a D N s).2.byte (a + 16 * i + k) =
        if unitKept s (a + 16 * i) (unitData D i) then s.byte (a + 16 * i + k)
        else (D.getD (16 * i + k) none).getD (s.byte (a + 16 * i + k)))
      ∧ ∀ x, ¬ (a ≤ x ∧ x < a + 16 * N) → (unitsWrite a D N s).2.byte x = s.byte x := by
  induction N with
  | zero => exact ⟨fun i k hi => absurd hi (by omega), fun x _ => rfl⟩
  | succ N ih =>
    obtain ⟨hin, hout⟩ := ih (by omega)
    have hb (x : Nat) := unitWrite_byte (a + 16 * N) (unitData D N) (unitsWrite a D N s).2 (length_unitData D N h) x
    simp only [unitsWrite_kept a D N s (by omega : 16 * N ≤ D.length)] at hb
    rw [unitsWrite_succ, thenStatus_snd]
    refine ⟨fun i k hi hk => ?_, fun x hx => ?_⟩
    · rcases Nat.lt_succ_iff_lt_or_eq.mp hi with hi | rfl
      · rw [hb, if_neg (by omega), hin i k hi hk]
      · have ho := hout (a + 16 * i + k) (by omega)
        have hx : a + 16 * i + k - (a + 16 * i) = k := by omega
        rw [hb, ho, hx, getD_unitData D i k hk]
        by_cases hkept : unitKept s (a + 16 * i) (unitData D i)
        · rw [if_neg (by tauto), if_pos hkept]
        · rw [if_pos ⟨by omega, by omega, hkept⟩, if_neg hkept]
    · rw [hb, if_neg (by omega), hout x (by omega)]

theorem unitsWrite_frame (a : Nat) (D : List (Option Byte)) (N : Nat) (s : State) :
    { (unitsWrite a D N s).2 with mem := s.mem, poison := s.poison } = s := by
  induction N with
  | zero => rfl
  | succ N ih =>
    rw [unitsWrite_succ, thenStatus_snd]
    have hu := unitWrite_frame (a + 16 * N) (unitData D N) (unitsWrite a D N s).2
    calc _ = ({ ({ (unitWrite (a + 16 * N) (unitData D N) false (unitsWrite a D N s).2).2 with
                mem := (unitsWrite a D N s).2.mem, poison := (unitsWrite a D N s).2.poison } : State) with
              mem := s.mem, poison := s.poison } : State) := rfl
      _ = s := by rw [hu, ih]

theorem length_flatMap_units (f : Nat → List Byte) (hf : ∀ i, (f i).length = 16) (n : Nat) :
    ((List.range n).flatMap f).length = 16 * n := by
  simp [List.length_flatMap, hf, mul_comm]

/-- A byte of units that stand one after the other. -/
theorem getD_flatMap_units (f : Nat → List Byte) (hf : ∀ i, (f i).length = 16) (n k : Nat) (hk : k < 16 * n) :
    ((List.range n).flatMap f).getD k 0 = (f (k / 16)).getD (k % 16) 0 := by
  induction n with
  | zero => omega
  | succ n ih =>
    have hl := length_flatMap_units f hf n
    rw [List.range_succ, List.flatMap_append, List.flatMap_singleton]
    by_cases h : k < 16 * n
    · rw [List.getD_append _ _ _ _ (by omega), ih h]
    · have hq : k / 16 = n := by omega
      have hr : k - 16 * n = k % 16 := by omega
      rw [List.getD_append_right _ _ _ _ (by omega), hl, hq, hr]

/-- The bytes of an access of the port, as it finds them. -/
theorem bytes_found (s : State) (a n : Nat) :
    ∃ (d : List Byte) (u : State), (if (panOf a).isSome then s.panBytes a n else (s.read a n, s)) = (d, u)
      ∧ { u with drawn := s.drawn } = s ∧ (((panOf a).isSome && s.panLost) = false → ∀ k, k < n → d.getD k 0 = s.byte (a + k)) := by
  unfold State.panBytes
  by_cases hp : (panOf a).isSome = true
  · by_cases hl : s.panLost = true
    · rw [if_pos hp, if_pos hl]
      exact ⟨_, _, rfl, rfl, by simp [hp, hl]⟩
    · rw [if_pos hp, if_neg hl]
      exact ⟨_, _, rfl, rfl, fun _ k hk => State.getD_read s a n k hk⟩
  · rw [if_neg hp]
    exact ⟨_, _, rfl, rfl, fun _ k hk => State.getD_read s a n k hk⟩

/-- The port keeps all of an access from a bunded vault or the store of a bunded pan. -/
def State.portShut (s : State) (a n : Nat) : Bool := s.fencedAt a n || (match panOf a with | some p => (s.pan p).bunded | none => false)

/-- A read of memory that is not owned. -/
theorem memRead_unmapped (ini : Ini) (a n : Nat) (ds : List Detection) (s : State) (ho : s.portOwns ini a n = false) :
    memRead ini a n ds s = (rUnmapped, List.replicate n 0, (s.touchMemory a).countUnmapped) := by
  obtain ⟨p, hp⟩ := State.touchMemory_eq s a
  have ho' : (s.touchMemory a).portOwns ini a n = false := by rw [hp]; exact ho
  simp [memRead, ho']

/-- A read of memory, with no error detected. -/
theorem memRead_eq (ini : Ini) (a n : Nat) (s : State) :
    memRead ini a n [] s =
      let w := s.touchMemory a
      if !w.portOwns ini a n then (rUnmapped, List.replicate n 0, w.countUnmapped)
      else
        let x := if (panOf a).isSome then w.panBytes a n else (w.read a n, w)
        let units := (List.range (n / 16)).map fun i =>
          let bad := w.portShut a n || x.2.marked (a + 16 * i) 16
          (bad, if bad then List.replicate 16 (0 : Byte) else slice x.1 (16 * i) 16)
        (if units.any (·.1) then rPoisoned else rOk, units.flatMap (·.2), x.2) := by
  unfold memRead
  simp only [List.filter_nil, badFlit, List.any_nil, Bool.or_false]
  rfl

/-- A read of owned memory, with no error detected. -/
theorem memRead_owned (ini : Ini) (a n : Nat) (s : State) (ho : s.portOwns ini a (16 * n) = true) :
    let gone (u : Nat) : Bool := s.portShut a (16 * n) || s.marked u 16
    ∃ (d : List Byte) (u : State), memRead ini a (16 * n) [] s
        = (if (List.range n).any (fun i => gone (a + 16 * i)) then rPoisoned else rOk, d, u)
      ∧ { u with drawn := s.drawn } = s.touchMemory a ∧ d.length = 16 * n
      ∧ ∀ k, k < 16 * n → (gone (a + 16 * (k / 16)) = true → d.getD k 0 = 0)
        ∧ (gone (a + 16 * (k / 16)) = false → ((panOf a).isSome && (s.touchMemory a).panLost) = false → d.getD k 0 = s.byte (a + k)) := by
  intro gone
  obtain ⟨p, hp⟩ := State.touchMemory_eq s a
  obtain ⟨b, u, hbu, hu, hb⟩ := bytes_found (s.touchMemory a) a (16 * n)
  have ho' : (s.touchMemory a).portOwns ini a (16 * n) = true := by rw [hp]; exact ho
  have hd : (s.touchMemory a).drawn = s.drawn := by rw [hp]
  have hs : (s.touchMemory a).portShut a (16 * n) = s.portShut a (16 * n) := by rw [hp]; rfl
  have hm (x : Nat) : u.marked x 16 = s.marked x 16 := by
    have : u.poison = s.poison := by
      calc u.poison = ({ u with drawn := (s.touchMemory a).drawn } : State).poison := rfl
        _ = s.poison := by rw [hu, hp]
    rw [State.marked, this]; rfl
  let f (i : Nat) : List Byte := if gone (a + 16 * i) then List.replicate 16 0 else slice b (16 * i) 16
  have hf (i : Nat) : (f i).length = 16 := by unfold f; split <;> simp
  have hread : memRead ini a (16 * n) [] s
      = (if (List.range n).any (fun i => gone (a + 16 * i)) then rPoisoned else rOk, (List.range n).flatMap f, u) := by
    rw [memRead_eq]
    simp only [ho', Bool.not_true, Bool.false_eq_true, if_false, hbu, hm, hs]
    rw [Nat.mul_div_cancel_left n (by decide : 0 < 16)]
    simp [List.any_map, List.flatMap_map, f, gone, Function.comp_def]
  refine ⟨_, u, hread, by rw [← hd]; exact hu, length_flatMap_units f hf n, fun k hk => ⟨fun hg => ?_, fun hg hl => ?_⟩⟩
  · rw [getD_flatMap_units f hf n k hk]
    simp only [f, hg, if_true]
    exact List.getD_replicate _ (by omega)
  · rw [getD_flatMap_units f hf n k hk]
    have hx : 16 * (k / 16) + k % 16 = k := Nat.div_add_mod k 16
    simp only [f, hg, Bool.false_eq_true, if_false]
    rw [getD_slice _ _ _ _ (Nat.mod_lt _ (by decide)), hx, hb hl k hk, hp]
    rfl

/-- The data of a WR, a byte at a time, with its byte enables. -/
def writeData (h : QWord) (data : List Byte) : List (Option Byte) :=
  (List.range (16 * hUnits h)).map fun k => if hEnabled h k then some (data.getD k 0) else none

theorem length_writeData (h : QWord) (data : List Byte) : (writeData h data).length = 16 * hUnits h := by simp [writeData]

theorem getD_writeData (h : QWord) (data : List Byte) (k : Nat) (hk : k < 16 * hUnits h) :
    (writeData h data).getD k none = if hEnabled h k then some (data.getD k 0) else none := by
  simp [writeData, hk]

theorem unitData_eq_map (D : List (Option Byte)) (i : Nat) (h : 16 * (i + 1) ≤ D.length) :
    unitData D i = (List.range 16).map fun k => D.getD (16 * i + k) none := by
  refine List.ext_getElem (by simp [length_unitData D i h]) fun k hk _ => ?_
  have hk' : k < 16 := by rwa [length_unitData D i h] at hk
  rw [List.getElem_map, List.getElem_range, ← getD_unitData D i k hk', List.getD_eq_getElem _ _ hk]

theorem all_isSome_writeData (h : QWord) (data : List Byte) (i : Nat) (hi : i < hUnits h) :
    (unitData (writeData h data) i).all Option.isSome = (List.range 16).all fun k => hEnabled h (16 * i + k) := by
  rw [unitData_eq_map _ _ (by rw [length_writeData]; omega), List.all_map, Bool.eq_iff_iff, List.all_eq_true, List.all_eq_true]
  refine forall₂_congr fun k hk => ?_
  rw [Function.comp_apply, getD_writeData _ _ _ (by have := List.mem_range.mp hk; omega)]
  cases hEnabled h (16 * i + k) <;> simp

theorem all_isNone_writeData (h : QWord) (data : List Byte) (i : Nat) (hi : i < hUnits h) :
    (unitData (writeData h data) i).all Option.isNone = false ↔ ∃ k, k < 16 ∧ hEnabled h (16 * i + k) = true := by
  rw [unitData_eq_map _ _ (by rw [length_writeData]; omega), List.all_map, List.all_eq_false]
  refine exists_congr fun k => ?_
  rw [List.mem_range]
  refine and_congr_right fun hk => ?_
  rw [Function.comp_apply, getD_writeData _ _ _ (by omega)]
  cases hEnabled h (16 * i + k) <;> simp

/-- A unit of a WR stays as it is where it is written in part and marked. -/
theorem unitKept_writeData (s : State) (u : Nat) (h : QWord) (data : List Byte) (i : Nat) (hi : i < hUnits h) :
    unitKept s u (unitData (writeData h data) i) ↔ ((List.range 16).all fun k => hEnabled h (16 * i + k)) = false
      ∧ (∃ k, k < 16 ∧ hEnabled h (16 * i + k) = true) ∧ s.marked u 16 = true := by
  rw [unitKept, all_isSome_writeData h data i hi, all_isNone_writeData h data i hi]

/-- A byte of a WR after its units: the data where the byte is enabled and its unit is written whole or holds no mark. -/
theorem unitsWrite_writeData_byte (s : State) (a : Nat) (h : QWord) (data : List Byte) (i k : Nat) (hi : i < hUnits h) (hk : k < 16) :
    (unitsWrite a (writeData h data) (hUnits h) s).2.byte (a + 16 * i + k) =
      if hEnabled h (16 * i + k) = true ∧ (((List.range 16).all fun k => hEnabled h (16 * i + k)) = true ∨ s.marked (a + 16 * i) 16 = false)
      then data.getD (16 * i + k) 0 else s.byte (a + 16 * i + k) := by
  rw [(unitsWrite_byte a _ (hUnits h) s (by rw [length_writeData])).1 i k hi hk, getD_writeData _ _ _ (by omega)]
  by_cases hkept : unitKept s (a + 16 * i) (unitData (writeData h data) i)
  · obtain ⟨hw, _, hm⟩ := (unitKept_writeData s (a + 16 * i) h data i hi).mp hkept
    rw [if_pos hkept, if_neg (by simp [hw, hm])]
  · rw [if_neg hkept]
    cases hon : hEnabled h (16 * i + k) with
    | false => simp
    | true =>
      have hgo : ((List.range 16).all fun k => hEnabled h (16 * i + k)) = true ∨ s.marked (a + 16 * i) 16 = false := by
        by_contra hno
        rw [not_or, Bool.not_eq_true, Bool.not_eq_false] at hno
        exact hkept ((unitKept_writeData s (a + 16 * i) h data i hi).mpr ⟨hno.1, ⟨k, hk, hon⟩, hno.2⟩)
      rw [if_pos rfl, if_pos ⟨rfl, hgo⟩]
      rfl

/-- A race window lies in the control region. -/
theorem State.portPath_memory (s : State) (m : Bool) (a : Nat) (h : inControl a = false) : s.portPath m a = s := by
  have : inRaceWindow a = false := by
    unfold inControl at h
    unfold inRaceWindow
    generalize controlBase = c at h ⊢
    simp only [Bool.and_eq_false_iff, decide_eq_false_iff_not] at *
    omega
  simp [State.portPath, this]

theorem exec_rd_bad (s : State) (m : Bool) (h : QWord) (ds : List Detection) (hl : (s.link m).isUp = true) (hs : s.edge.stopped = false)
    (hb : hBad h 1 = true) :
    exec (.rd m h ds) s = .next (s.respond (hReq m h) rMalformed (List.replicate (16 * hUnits h) 0)) := by
  show execRd m h ds s = _
  simp [execRd, rd, hl, hs, hb]

theorem exec_wr_bad (s : State) (m : Bool) (h : QWord) (data : List Byte) (ds : List Detection) (hl : (s.link m).isUp = true)
    (hs : s.edge.stopped = false) (hb : hBad h 2 = true) :
    exec (.wr m h data ds) s = .next (s.respond (hReq m h) rMalformed []) := by
  show execWr m h data ds s = _
  simp [execWr, wr, hl, hs, hb]

theorem exec_rd_held (s : State) (m : Bool) (h : QWord) (ds : List Detection) (hl : (s.link m).isUp = true) (hs : s.edge.stopped = false)
    (hb : hBad h 1 = false) (hh : s.portHeld m (hAddr h) = true) : exec (.rd m h ds) s = .next s := by
  show execRd m h ds s = _
  simp [execRd, rd, hl, hs, hb, hh]

theorem exec_wr_held (s : State) (m : Bool) (h : QWord) (data : List Byte) (ds : List Detection) (hl : (s.link m).isUp = true)
    (hs : s.edge.stopped = false) (hb : hBad h 2 = false) (hh : s.portHeld m (hAddr h) = true) : exec (.wr m h data ds) s = .next s := by
  show execWr m h data ds s = _
  simp [execWr, wr, hl, hs, hb, hh]

/-- A RD of memory that goes through is answered with what the read gives. -/
theorem exec_rd_memory (s : State) (m : Bool) (h : QWord) (ds : List Detection) (hl : (s.link m).isUp = true) (hs : s.edge.stopped = false)
    (hr : s.edge.ready = true) (hb : hBad h 1 = false) (hc : inControl (hAddr h) = false) (hh : s.portHeld m (hAddr h) = false)
    {st : BitVec 4} {d : List Byte} {u : State} (hu : memRead (hReq m h).ini (hAddr h) (16 * hUnits h) ds s = (st, d, u))
    (hus : u.edge.stopped = false) : exec (.rd m h ds) s = .next (u.respond (hReq m h) st d) := by
  show execRd m h ds s = _
  simp [execRd, rd, hl, hs, hb, hh, State.portPath_memory s m _ hc, rdServe, hr, hc, hu, hus]

/-- A WR of memory that goes through is answered with the status of the write. -/
theorem exec_wr_memory (s : State) (m : Bool) (h : QWord) (data : List Byte) (ds : List Detection) (hl : (s.link m).isUp = true)
    (hs : s.edge.stopped = false) (hr : s.edge.ready = true) (hb : hBad h 2 = false) (hc : inControl (hAddr h) = false)
    (hh : s.portHeld m (hAddr h) = false) {st : BitVec 4} {u : State}
    (hu : memWrite (hReq m h).ini (hAddr h) (writeData h data) ds s = (st, u)) (hus : u.edge.stopped = false) :
    exec (.wr m h data ds) s = .next (u.respond (hReq m h) st []) := by
  show execWr m h data ds s = _
  rw [writeData] at hu
  simp only [execWr, wr, hl, hs, hb, hh, State.portPath_memory s m _ hc, wrServe, hr, hc, hu, hus, Bool.not_true,
    Bool.or_self, Bool.false_eq_true, if_false]

/-- An address lies in the store of a race pan in service. -/
def State.raceStore (s : State) (a : Nat) : Bool :=
  match panOf a with | some p => (s.slotOf p).isSome && !(s.pan p).bunded | none => false

theorem State.raceStore_iff (s : State) (a : Nat) :
    s.raceStore a = true ↔ ∃ p, panOf a = some p ∧ (s.slotOf p).isSome = true ∧ (s.pan p).bunded = false := by
  unfold State.raceStore
  cases panOf a <;> simp

/-- What keeps a write of memory out, and what a write does that nothing keeps out, with no error detected. -/
theorem memWrite_eq (ini : Ini) (a : Nat) (D : List (Option Byte)) (s : State) :
    memWrite ini a D [] s =
      if s.raceStore a then (rDenied, (s.touchMemory a).countSealed)
      else if !s.portOwns ini a D.length then (rUnmapped, (s.touchMemory a).countUnmapped)
      else if s.hitsSealed a D.length then (rDenied, (s.touchMemory a).countSealed)
      else match s.kvHit a D.length with
        | some p => (rDenied, (s.touchMemory a).modPart p fun v => { v with kvRefused := satAdd v.kvRefused 1 })
        | none => if s.portShut a D.length then (rPoisoned, s.touchMemory a) else unitsWrite a D (D.length / 16) (s.touchMemory a) := by
  obtain ⟨p, hp⟩ := State.touchMemory_eq s a
  unfold memWrite
  rw [hp]
  rfl

/-- A write of memory that something keeps out, and one that nothing does. -/
theorem memWrite_cases (ini : Ini) (a : Nat) (D : List (Option Byte)) (s : State) :
    let w := s.touchMemory a
    let n := D.length
    (s.raceStore a = true → memWrite ini a D [] s = (rDenied, w.countSealed))
      ∧ (s.raceStore a = false → (s.portOwns ini a n = false → memWrite ini a D [] s = (rUnmapped, w.countUnmapped))
        ∧ (s.portOwns ini a n = true → (s.hitsSealed a n = true → memWrite ini a D [] s = (rDenied, w.countSealed))
          ∧ (s.hitsSealed a n = false →
            (∀ p, s.kvHit a n = some p → memWrite ini a D [] s
                = (rDenied, w.modPart p fun v => { v with kvRefused := satAdd v.kvRefused 1 }))
            ∧ (s.kvHit a n = none → memWrite ini a D [] s = if s.portShut a n then (rPoisoned, w) else unitsWrite a D (n / 16) w)))) := by
  intro w n
  rw [memWrite_eq]
  refine ⟨fun h => by simp [h, w], fun h =>
    ⟨fun h1 => by simp [h, h1, n, w], fun h1 => ⟨fun h2 => by simp [h, h1, h2, n, w], fun h2 => ?_⟩⟩⟩
  exact ⟨fun p h3 => by simp [h, h1, h2, h3, n, w], fun h3 => by simp [h, h1, h2, h3, n, w]⟩

theorem State.touchMemory_stopped (s : State) (a : Nat) : (s.touchMemory a).edge.stopped = s.edge.stopped := by
  obtain ⟨p, hp⟩ := State.touchMemory_eq s a
  rw [hp]

theorem unitsWrite_edge (a : Nat) (D : List (Option Byte)) (N : Nat) (s : State) : (unitsWrite a D N s).2.edge = s.edge := by
  conv_rhs => rw [← unitsWrite_frame a D N s]

/-- What the units of a WR leave, that finds memory it may write. -/
theorem unitsWrite_writeData (s : State) (a : Nat) (h : QWord) (data : List Byte) :
    let x := unitsWrite a (writeData h data) (hUnits h) (s.touchMemory a)
    let whole (i : Nat) : Bool := (List.range 16).all fun k => hEnabled h (16 * i + k)
    (x.1 = rPoisoned ↔ ∃ i, i < hUnits h ∧ whole i = false ∧ (∃ k, k < 16 ∧ hEnabled h (16 * i + k) = true)
        ∧ s.marked (a + 16 * i) 16 = true)
      ∧ (x.1 = rOk ∨ x.1 = rPoisoned) ∧ { x.2 with mem := s.mem, poison := s.poison } = s.touchMemory a
      ∧ (∀ i k, i < hUnits h → k < 16 → x.2.byte (a + 16 * i + k) =
          if hEnabled h (16 * i + k) = true ∧ (whole i = true ∨ s.marked (a + 16 * i) 16 = false) then data.getD (16 * i + k) 0
          else s.byte (a + 16 * i + k))
      ∧ (∀ y, ¬ (a ≤ y ∧ y < a + 16 * hUnits h) → x.2.byte y = s.byte y)
      ∧ ∀ y, (y ∈ x.2.poison ↔ y ∈ s.poison ∧ ∀ i, i < hUnits h → whole i = true → y ≠ a + 16 * i) := by
  intro x whole
  have hl : 16 * hUnits h ≤ (writeData h data).length := (length_writeData h data).ge
  obtain ⟨p, hp⟩ := State.touchMemory_eq s a
  have hb (y : Nat) : (s.touchMemory a).byte y = s.byte y := by rw [hp]; rfl
  have hm (u : Nat) : (s.touchMemory a).marked u 16 = s.marked u 16 := by rw [hp]; rfl
  have hmem : (s.touchMemory a).mem = s.mem := by rw [hp]
  have hpo : (s.touchMemory a).poison = s.poison := by rw [hp]
  obtain ⟨hst, hor⟩ := unitsWrite_status a (writeData h data) (hUnits h) (s.touchMemory a) hl
  refine ⟨hst.trans ?_, hor, ?_, fun i k hi hk => ?_, fun y hy => ?_, fun y => ?_⟩
  · refine exists_congr fun i => and_congr_right fun hi => ?_
    rw [unitKept_writeData _ _ h data i hi, hm]
  · rw [← hmem, ← hpo]
    exact unitsWrite_frame a (writeData h data) (hUnits h) (s.touchMemory a)
  · exact (unitsWrite_writeData_byte (s.touchMemory a) a h data i k hi hk).trans (by rw [hb, hm])
  · exact ((unitsWrite_byte a _ (hUnits h) (s.touchMemory a) hl).2 y hy).trans (hb y)
  · refine (mem_unitsWrite_poison a _ (hUnits h) (s.touchMemory a) hl y).trans ?_
    rw [hpo]
    refine and_congr_right fun _ => forall₂_congr fun i hi => ?_
    rw [all_isSome_writeData h data i hi]

/-- Settles O28: the units of a read and of a write in turn, each acting on its own unit alone. -/
theorem portReadsAndWritesReachOwnedMemory : Obligations.PortReadsAndWritesReachOwnedMemory := by
  intro s m h data hup hst hrd r a n zeros w owned race shut gone on whole kept lost
  have hws : w.edge.stopped = false := (State.touchMemory_stopped s a).trans hst
  have hlen : (writeData h data).length = n := length_writeData h data
  refine ⟨exec_rd_bad s m h [] hup hst, exec_wr_bad s m h data [] hup hst,
    fun hh => ⟨fun hb => exec_rd_held s m h [] hup hst hb hh, fun hb => exec_wr_held s m h data [] hup hst hb hh⟩,
    fun hb hc hh => ⟨fun ho => ?_, fun ho => ?_⟩, fun hb hc hh => ?_⟩
  · exact exec_rd_memory s m h [] hup hst hrd hb hc hh (memRead_unmapped _ _ _ _ s (Bool.eq_false_iff.mpr ho)) hws
  · obtain ⟨d, u, hu, huw, hd, hbytes⟩ := memRead_owned r.ini a (hUnits h) s ho
    have hus : u.edge.stopped = false := by
      calc u.edge.stopped = ({ u with drawn := s.drawn } : State).edge.stopped := rfl
        _ = false := by rw [huw]; exact hws
    exact ⟨d, u, exec_rd_memory s m h [] hup hst hrd hb hc hh hu hus, huw, hd, hbytes⟩
  · obtain ⟨hrace, hnot⟩ := memWrite_cases r.ini a (writeData h data) s
    rw [hlen] at hnot
    have hgo {st : BitVec 4} {u : State} := exec_wr_memory s m h data [] hup hst hrd hb hc hh (st := st) (u := u)
    have hno (hn : ¬ race) : s.raceStore a = false := Bool.eq_false_iff.mpr fun hc => hn ((State.raceStore_iff s a).mp hc)
    refine ⟨fun hr => hgo (hrace ((State.raceStore_iff s a).mpr hr)) hws, fun hr ho => ?_, fun hr ho hs => ?_, fun hr ho hs p hp => ?_,
      fun hr ho hs hk hsh => ?_, fun hr ho hs hk hsh => ?_⟩
    · exact hgo ((hnot (hno hr)).1 (Bool.eq_false_iff.mpr ho)) hws
    · exact hgo (((hnot (hno hr)).2 ho).1 hs) hws
    · exact hgo ((((hnot (hno hr)).2 ho).2 hs).1 p hp) hws
    · have hsh' : s.portShut a n = true := hsh
      exact hgo (((((hnot (hno hr)).2 ho).2 hs).2 hk).trans (if_pos hsh')) hws
    · have hsh' : ¬ s.portShut a n = true := Bool.eq_false_iff.mp hsh
      have hn : n / 16 = hUnits h := Nat.mul_div_cancel_left _ (by decide)
      have hw := ((((hnot (hno hr)).2 ho).2 hs).2 hk).trans (if_neg hsh')
      rw [hn] at hw
      refine ⟨_, _, hgo hw ((congrArg Edge.stopped (unitsWrite_edge a _ _ _)).trans hws), unitsWrite_writeData s a h data⟩

end Sys2Proof.Machine

/-! SUPPORT. Clears: what the clear engine zeroes and what failed twice (R137, R139, R444), and CLEAR_REGION (R134, R136). -/
namespace Sys2Proof.Machine

-- ## A clear in steps (R137, R139)

/-- The vaults, ports and pans of a clear that failed twice. -/
def vaultsFailed (v : ClearVerdict) (rs : List (Nat × Nat)) : List Nat :=
  (touchedVaults rs).filter fun i => v.retryVaults.getLsbD i && v.failVaults.getLsbD i
def portsFailed (v : ClearVerdict) (rs : List (Nat × Nat)) : List Nat :=
  (touchedPorts rs).filter fun i => v.retryPorts.getLsbD i && v.failPorts.getLsbD i
def pansFailed (v : ClearVerdict) (pans : List Nat) : List Nat :=
  pans.filter fun i => v.retryPans.getLsbD i && v.failPans.getLsbD i

/-- Nothing failed twice. -/
def allPassed (v : ClearVerdict) (rs : List (Nat × Nat)) (pans : List Nat) : Bool :=
  (vaultsFailed v rs).isEmpty && (portsFailed v rs).isEmpty && (pansFailed v pans).isEmpty

/-- A pan's three memories zeroed. -/
def State.zeroPan (s : State) (p : Nat) : State :=
  ((s.zero (storeBase p) 0x200000).zero (accBase p) 0x40000).zero (imemBase p) 0x20000

/-- A byte of one of a pan's three memories. -/
def PanByte (p a : Nat) : Prop :=
  (storeBase p ≤ a ∧ a < storeBase p + 0x200000) ∨ (accBase p ≤ a ∧ a < accBase p + 0x40000) ∨ (imemBase p ≤ a ∧ a < imemBase p + 0x20000)

/-- Ranges and the memories of pans zeroed. -/
def State.zeroAll (s : State) (rs : List (Nat × Nat)) (pans : List Nat) : State :=
  pans.foldl State.zeroPan (rs.foldl (fun s r => s.zero r.1 r.2) s)

/-- The positions of a clear of vaults and ports drawn. -/
def State.drawFor (s : State) (rs : List (Nat × Nat)) : State :=
  if (touchedVaults rs).isEmpty && (touchedPorts rs).isEmpty then s else s.drawPositions

/-- What a clear does before it looks at what failed: positions drawn, ranges and pans zeroed, retries and failures noted. -/
def State.sampled (s : State) (v : ClearVerdict) (rs : List (Nat × Nat)) (pans : List Nat) : State :=
  let s := (s.drawFor rs).zeroAll rs pans
  let retried := (touchedVaults rs).any (fun i => v.retryVaults.getLsbD i) || (touchedPorts rs).any (fun i => v.retryPorts.getLsbD i)
    || pans.any (fun i => v.retryPans.getLsbD i)
  { s with memSys := { s.memSys with sampleRetry := s.memSys.sampleRetry || retried
                                     sampleFail := s.memSys.sampleFail || !allPassed v rs pans } }

/-- What failed twice is bunded or withheld. -/
def State.bundFailed (s : State) (v : ClearVerdict) (rs : List (Nat × Nat)) (pans : List Nat) (met : Met) : State :=
  let s := (pansFailed v pans).foldl (fun s p => s.bundPan p 9 met) s
  let s := (vaultsFailed v rs).foldl (fun s i => s.bundVault i 9 0 met) s
  (portsFailed v rs).foldl (fun s i => (rs.filter fun r => overlaps r.1 r.2 (lpBase + i * lpStride) lpStride).foldl
    (fun s r => s.withhold i 9 r met) s) s

theorem State.verify_eq (s : State) (v : ClearVerdict) (rs : List (Nat × Nat)) (pans : List Nat) (met : Met) :
    s.verify v rs pans met = (allPassed v rs pans, (s.sampled v rs pans).bundFailed v rs pans met) := rfl

theorem State.bundFailed_good (s : State) (v : ClearVerdict) (rs : List (Nat × Nat)) (pans : List Nat) (met : Met)
    (h : allPassed v rs pans = true) : s.bundFailed v rs pans met = s := by
  simp only [allPassed, Bool.and_eq_true, List.isEmpty_iff] at h
  obtain ⟨⟨hv, hp⟩, hq⟩ := h
  simp [State.bundFailed, hv, hp, hq]

/-- A clear in which nothing failed twice. -/
theorem State.verify_good (s : State) (v : ClearVerdict) (rs : List (Nat × Nat)) (pans : List Nat) (met : Met)
    (h : allPassed v rs pans = true) : s.verify v rs pans met = (true, s.sampled v rs pans) := by
  rw [State.verify_eq, State.bundFailed_good _ _ _ _ _ h, h]

theorem allPassed_iff (v : ClearVerdict) (rs : List (Nat × Nat)) (pans : List Nat) : allPassed v rs pans =
    !((touchedVaults rs).any (fun i => v.retryVaults.getLsbD i && v.failVaults.getLsbD i)
      || (touchedPorts rs).any (fun i => v.retryPorts.getLsbD i && v.failPorts.getLsbD i)
      || pans.any (fun i => v.retryPans.getLsbD i && v.failPans.getLsbD i)) := by
  have hf (f : Nat → Bool) (l : List Nat) : (l.filter f).isEmpty = !l.any f := by
    rw [Bool.eq_iff_iff, List.isEmpty_iff, List.filter_eq_nil_iff]
    simp
  simp only [allPassed, vaultsFailed, portsFailed, pansFailed, hf, Bool.not_or]

-- ## What a clear changes

theorem State.drawPositions_frame (s : State) : { s.drawPositions with eng := s.eng, drawn := s.drawn } = s := by
  unfold State.drawPositions
  split <;> rfl

theorem State.zeroPan_frame (s : State) (p : Nat) : { s.zeroPan p with mem := s.mem, poison := s.poison } = s := rfl

theorem State.byte_zeroPan (s : State) (p a : Nat) :
    (PanByte p a → (s.zeroPan p).byte a = 0) ∧ (¬ PanByte p a → (s.zeroPan p).byte a = s.byte a) := by
  unfold PanByte State.zeroPan
  simp only [State.byte_zero]
  refine ⟨fun h => ?_, fun h => ?_⟩
  · split
    · rfl
    · split
      · rfl
      · rw [if_pos (by tauto)]
  · rw [not_or, not_or] at h
    rw [if_neg h.2.2, if_neg h.2.1, if_neg h.1]

/-- What zeroes parts of memory in turn leaves zero in all of them, and any other byte as it was. -/
theorem byte_foldl_zero {α : Type} (f : State → α → State) (part : α → Nat → Prop)
    (hf : ∀ s x a, (part x a → (f s x).byte a = 0) ∧ (¬ part x a → (f s x).byte a = s.byte a)) (l : List α) (s : State) (a : Nat) :
    ((∃ x ∈ l, part x a) → (l.foldl f s).byte a = 0) ∧ ((¬ ∃ x ∈ l, part x a) → (l.foldl f s).byte a = s.byte a) := by
  have keep (l : List α) (s : State) (h : s.byte a = 0) : (l.foldl f s).byte a = 0 :=
    foldl_keeps (fun t : State => t.byte a = 0) f l (fun t x _ ht => by
      by_cases hx : part x a
      · exact (hf t x a).1 hx
      · exact ((hf t x a).2 hx).trans ht) s h
  induction l generalizing s with
  | nil => exact ⟨fun ⟨_, hx, _⟩ => absurd hx (List.not_mem_nil), fun _ => rfl⟩
  | cons x l ih =>
    obtain ⟨ihz, iho⟩ := ih (f s x)
    refine ⟨fun ⟨y, hy, hp⟩ => ?_, fun h => ?_⟩
    · rcases List.mem_cons.mp hy with rfl | hy
      · exact keep l _ ((hf s y a).1 hp)
      · exact ihz ⟨y, hy, hp⟩
    · rw [List.foldl_cons, iho fun ⟨y, hy, hp⟩ => h ⟨y, List.mem_cons_of_mem _ hy, hp⟩]
      exact (hf s x a).2 fun hp => h ⟨x, List.mem_cons_self, hp⟩

/-- A byte that a clear of ranges and pans zeroes. -/
def ClearByte (rs : List (Nat × Nat)) (pans : List Nat) (a : Nat) : Prop :=
  (∃ r ∈ rs, r.1 ≤ a ∧ a < r.1 + r.2) ∨ ∃ p ∈ pans, PanByte p a

theorem State.zeroAll_frame (s : State) (rs : List (Nat × Nat)) (pans : List Nat) :
    { s.zeroAll rs pans with mem := s.mem, poison := s.poison } = s :=
  foldl_keeps (fun t : State => { t with mem := s.mem, poison := s.poison } = s) State.zeroPan pans (fun _ _ _ h => h) _
    (foldl_keeps (fun t : State => { t with mem := s.mem, poison := s.poison } = s) (fun s (r : Nat × Nat) => s.zero r.1 r.2) rs
      (fun _ _ _ h => h) s rfl)

theorem State.byte_zeroAll (s : State) (rs : List (Nat × Nat)) (pans : List Nat) (a : Nat) :
    (ClearByte rs pans a → (s.zeroAll rs pans).byte a = 0) ∧ (¬ ClearByte rs pans a → (s.zeroAll rs pans).byte a = s.byte a) := by
  obtain ⟨hz, ho⟩ := byte_foldl_zero (fun s (r : Nat × Nat) => s.zero r.1 r.2) (fun r a => r.1 ≤ a ∧ a < r.1 + r.2)
    (fun s r a => by rw [State.byte_zero]; exact ⟨fun h => if_pos h, fun h => if_neg h⟩) rs s a
  obtain ⟨hpz, hpo⟩ := byte_foldl_zero State.zeroPan PanByte State.byte_zeroPan pans (rs.foldl (fun s r => s.zero r.1 r.2) s) a
  unfold ClearByte State.zeroAll
  by_cases hp : ∃ p ∈ pans, PanByte p a
  · exact ⟨fun _ => hpz hp, fun h => absurd (.inr hp) h⟩
  · exact ⟨fun h => (hpo hp).trans (hz (h.resolve_right hp)), fun h => (hpo hp).trans (ho fun hr => h (.inl hr))⟩

/-- No unit that begins in a cleared range stays marked. -/
theorem State.zeroAll_poison (s : State) (rs : List (Nat × Nat)) (pans : List Nat) (x : Nat) (h : x ∈ (s.zeroAll rs pans).poison) :
    ¬ ∃ r ∈ rs, r.1 ≤ x ∧ x < r.1 + r.2 := by
  have sub (y : State) (hy : x ∈ (pans.foldl State.zeroPan y).poison) : x ∈ y.poison :=
    foldl_keeps (fun t : State => x ∈ t.poison → x ∈ y.poison) State.zeroPan pans
      (fun t p _ ht hx => ht (List.mem_filter.mp (List.mem_filter.mp (List.mem_filter.mp hx).1).1).1) y id hy
  have hpans := sub _ h
  clear h
  induction rs generalizing s with
  | nil => exact fun ⟨_, hr, _⟩ => absurd hr (List.not_mem_nil)
  | cons r rs ih =>
    rintro ⟨q, hq, hx⟩
    rcases List.mem_cons.mp hq with rfl | hq
    · have subr (y : State) (hy : x ∈ (rs.foldl (fun s (r : Nat × Nat) => s.zero r.1 r.2) y).poison) : x ∈ y.poison :=
        foldl_keeps (fun t : State => x ∈ t.poison → x ∈ y.poison) (fun s (r : Nat × Nat) => s.zero r.1 r.2) rs
          (fun t p _ ht hx => ht (List.mem_filter.mp hx).1) y id hy
      have h1 := subr _ hpans
      have h2 := (List.mem_filter.mp h1).2
      simp only [Bool.or_eq_true, decide_eq_true_eq] at h2
      omega
    · exact ih _ hpans ⟨q, hq, hx⟩

theorem State.drawFor_frame (s : State) (rs : List (Nat × Nat)) : { s.drawFor rs with eng := s.eng, drawn := s.drawn } = s := by
  unfold State.drawFor
  split
  · rfl
  · exact State.drawPositions_frame s

theorem State.sampled_frame (s : State) (v : ClearVerdict) (rs : List (Nat × Nat)) (pans : List Nat) :
    { s.sampled v rs pans with mem := s.mem, poison := s.poison, eng := s.eng, drawn := s.drawn, memSys := s.memSys } = s := by
  have hd := State.drawFor_frame s rs
  have hz := State.zeroAll_frame (s.drawFor rs) rs pans
  unfold State.sampled
  dsimp only
  generalize (s.drawFor rs).zeroAll rs pans = y at hz ⊢
  generalize s.drawFor rs = w at hd hz
  calc _ = ({ ({ ({ y with mem := w.mem, poison := w.poison } : State) with eng := s.eng, drawn := s.drawn } : State) with
            mem := s.mem, poison := s.poison, memSys := s.memSys } : State) := rfl
    _ = s := by rw [hz, hd]

theorem State.sampled_memSys (s : State) (v : ClearVerdict) (rs : List (Nat × Nat)) (pans : List Nat) :
    { (s.sampled v rs pans).memSys with sampleRetry := s.memSys.sampleRetry, sampleFail := s.memSys.sampleFail } = s.memSys := by
  have hd : (s.drawFor rs).memSys = s.memSys := (congrArg State.memSys (State.drawFor_frame s rs) :)
  have hz : ((s.drawFor rs).zeroAll rs pans).memSys = (s.drawFor rs).memSys :=
    (congrArg State.memSys (State.zeroAll_frame (s.drawFor rs) rs pans) :)
  unfold State.sampled
  dsimp only
  rw [hz, hd]

theorem State.byte_sampled (s : State) (v : ClearVerdict) (rs : List (Nat × Nat)) (pans : List Nat) (a : Nat) :
    (ClearByte rs pans a → (s.sampled v rs pans).byte a = 0) ∧ (¬ ClearByte rs pans a → (s.sampled v rs pans).byte a = s.byte a) := by
  have hd : (s.drawFor rs).byte a = s.byte a := by
    show Tab.look (s.drawFor rs).mem 0 a = _
    rw [show (s.drawFor rs).mem = s.mem from (congrArg State.mem (State.drawFor_frame s rs) :)]
    rfl
  obtain ⟨hz, ho⟩ := State.byte_zeroAll (s.drawFor rs) rs pans a
  exact ⟨hz, fun h => (ho h).trans hd⟩

theorem State.sampled_poison (s : State) (v : ClearVerdict) (rs : List (Nat × Nat)) (pans : List Nat) (x : Nat)
    (h : x ∈ (s.sampled v rs pans).poison) : ¬ ∃ r ∈ rs, r.1 ≤ x ∧ x < r.1 + r.2 :=
  State.zeroAll_poison (s.drawFor rs) rs pans x h

-- ## What failed twice

theorem State.lockCause_clears (s : State) (seq : DWord) (cause : BitVec 4) : (s.lockCause seq cause).memSys.clears = s.memSys.clears := by
  unfold State.lockCause
  split
  · rfl
  · split <;> rfl

theorem State.lockWhere_clears (s : State) (f : Cmd → Bool) (cause : BitVec 4) : (s.lockWhere f cause).memSys.clears = s.memSys.clears := by
  unfold State.lockWhere
  refine foldl_keeps (fun t : State => t.memSys.clears = s.memSys.clears) _ _ (fun t c _ ht => ?_) s rfl
  split
  · exact (State.lockCause_clears t _ _).trans ht
  · exact ht

theorem State.withhold_frame (s : State) (port src : Nat) (r : Nat × Nat) (met : Met) :
    { s.withhold port src r met with errs := s.errs, memSys := s.memSys } = s := by
  have h := State.record_frame s eWithheld src (0x48 + port) r.1 met
  unfold State.withhold
  dsimp only
  generalize s.record eWithheld src (0x48 + port) r.1 met = u at h ⊢
  calc _ = ({ ({ u with errs := s.errs } : State) with memSys := s.memSys } : State) := rfl
    _ = s := by rw [h]

theorem State.withhold_clears (s : State) (port src : Nat) (r : Nat × Nat) (met : Met) :
    (s.withhold port src r met).memSys.clears = s.memSys.clears :=
  (congrArg (fun t : State => t.memSys.clears) (State.record_frame s eWithheld src (0x48 + port) r.1 met) :)

/-- The causes of an error record do not change when a record is made. -/
theorem State.record_errs (s : State) (cls src unit addr : Nat) (met : Met) :
    (s.record cls src unit addr met).errs.fatalCause = s.errs.fatalCause ∧ (s.record cls src unit addr met).errs.vaults = s.errs.vaults :=
      by
  unfold State.record
  split <;> exact ⟨rfl, rfl⟩

theorem State.withhold_cause (s : State) (port src : Nat) (r : Nat × Nat) (met : Met) :
    (s.withhold port src r met).errs.fatalCause = s.errs.fatalCause :=
  (State.record_errs s eWithheld src (0x48 + port) r.1 met).1

/-- Events in turn change the tally and the spill ring alone. -/
theorem State.events_frame {α : Type} (l : List α) (s : State) (part pan : α → Byte) (code : Byte) :
    { l.foldl (fun s x => s.event 0x80 code (part x) (pan x)) s with tally := s.tally, mem := s.mem, poison := s.poison } = s :=
  foldl_keeps (fun t : State => { t with tally := s.tally, mem := s.mem, poison := s.poison } = s)
    (fun s x => s.event 0x80 code (part x) (pan x)) l
    (fun t x _ ht => (congrArg (fun u : State => { u with tally := s.tally, mem := s.mem, poison := s.poison })
      (State.event_frame t 0x80 code (part x) (pan x) 0 0)).trans ht) s rfl

/-- A vault noted as bunded, and told to its users, before the time locks over it end. -/
def State.bundVaultNoted (s : State) (v src addr : Nat) (met : Met) : State :=
  let t := s.record eBund src (0x40 + v) addr met
  let t := { t with errs := { t.errs with vaults := t.errs.vaults ||| BitVec.ofNat 8 (2 ^ v) } }
  (if (t.vaultUsers v).isEmpty then [0xFF] else t.vaultUsers v).foldl
    (fun s p => s.event 0x80 evBunded (BitVec.ofNat 8 p) (BitVec.ofNat 8 (0x40 + v))) t

/-- A vault is bunded, before it is known whether it is FATAL. -/
def State.bundVaultAlone (s : State) (v src addr : Nat) (met : Met) : State :=
  (s.bundVaultNoted v src addr met).lockWhere (fun c => c.onPath v v) 8

theorem State.bundVault_eq (s : State) (v src addr : Nat) (met : Met) : s.bundVault v src addr met =
    if s.errs.vaults.getLsbD v then s
    else if v = 7 then (s.bundVaultAlone v src addr met).fatal 5 src 0x47 else s.bundVaultAlone v src addr met := rfl

theorem State.bundVaultNoted_frame (s : State) (v src addr : Nat) (met : Met) :
    { s.bundVaultNoted v src addr met with errs := s.errs, tally := s.tally, mem := s.mem, poison := s.poison } = s := by
  unfold State.bundVaultNoted
  dsimp only
  have hr := State.record_frame s eBund src (0x40 + v) addr met
  generalize s.record eBund src (0x40 + v) addr met = t at hr ⊢
  generalize ht : ({ t with errs := { t.errs with vaults := t.errs.vaults ||| BitVec.ofNat 8 (2 ^ v) } } : State) = w
  have he := State.events_frame (if (w.vaultUsers v).isEmpty then [0xFF] else w.vaultUsers v) w (fun p => BitVec.ofNat 8 p)
    (fun _ => BitVec.ofNat 8 (0x40 + v)) evBunded
  generalize List.foldl _ w _ = x at he ⊢
  calc _ = ({ ({ x with tally := w.tally, mem := w.mem, poison := w.poison } : State) with
            errs := s.errs, tally := s.tally, mem := s.mem, poison := s.poison } : State) := rfl
    _ = ({ ({ t with errs := s.errs } : State) with tally := s.tally, mem := s.mem, poison := s.poison } : State) := by rw [he, ← ht]
    _ = s := by rw [hr]

theorem State.bundVaultNoted_errs (s : State) (v src addr : Nat) (met : Met) :
    (s.bundVaultNoted v src addr met).errs.vaults = s.errs.vaults ||| BitVec.ofNat 8 (2 ^ v)
      ∧ (s.bundVaultNoted v src addr met).errs.fatalCause = s.errs.fatalCause := by
  obtain ⟨hc, hv⟩ := State.record_errs s eBund src (0x40 + v) addr met
  unfold State.bundVaultNoted
  dsimp only
  generalize s.record eBund src (0x40 + v) addr met = t at hc hv ⊢
  generalize ht : ({ t with errs := { t.errs with vaults := t.errs.vaults ||| BitVec.ofNat 8 (2 ^ v) } } : State) = w
  have he := State.events_frame (if (w.vaultUsers v).isEmpty then [0xFF] else w.vaultUsers v) w (fun p => BitVec.ofNat 8 p)
    (fun _ => BitVec.ofNat 8 (0x40 + v)) evBunded
  generalize List.foldl _ w _ = x at he ⊢
  have hx : x.errs = w.errs := (congrArg State.errs he :)
  rw [hx, ← ht]
  exact ⟨by rw [hv], hc⟩

theorem State.bundVaultAlone_frame (s : State) (v src addr : Nat) (met : Met) : { s.bundVaultAlone v src addr met with
      errs := s.errs, tally := s.tally, mem := s.mem, poison := s.poison, cmds := s.cmds, memSys := s.memSys } = s := by
  have hn := State.bundVaultNoted_frame s v src addr met
  unfold State.bundVaultAlone
  generalize s.bundVaultNoted v src addr met = t at hn ⊢
  have hl := State.lockWhere_frame t (fun c => c.onPath v v) 8
  generalize t.lockWhere (fun c => c.onPath v v) 8 = u at hl ⊢
  calc _ = ({ ({ u with cmds := t.cmds, memSys := t.memSys } : State) with
            errs := s.errs, tally := s.tally, mem := s.mem, poison := s.poison, cmds := s.cmds, memSys := s.memSys } : State) := rfl
    _ = ({ ({ t with errs := s.errs, tally := s.tally, mem := s.mem, poison := s.poison } : State) with
            cmds := s.cmds, memSys := s.memSys } : State) := by rw [hl]
    _ = s := by rw [hn]

theorem State.bundVaultAlone_clears (s : State) (v src addr : Nat) (met : Met) :
    (s.bundVaultAlone v src addr met).memSys.clears = s.memSys.clears :=
  (State.lockWhere_clears ..).trans (congrArg (fun t : State => t.memSys.clears) (State.bundVaultNoted_frame s v src addr met) :)

theorem State.bundVaultAlone_errs (s : State) (v src addr : Nat) (met : Met) :
    (s.bundVaultAlone v src addr met).errs.vaults = s.errs.vaults ||| BitVec.ofNat 8 (2 ^ v)
      ∧ (s.bundVaultAlone v src addr met).errs.fatalCause = s.errs.fatalCause := by
  have hl : (s.bundVaultAlone v src addr met).errs = (s.bundVaultNoted v src addr met).errs :=
    (congrArg State.errs (State.lockWhere_frame (s.bundVaultNoted v src addr met) (fun c => c.onPath v v) 8) :)
  rw [hl]
  exact State.bundVaultNoted_errs s v src addr met

-- ## Vaults and ports in turn

/-- The state without what the bunding of vaults and the withholding of ranges change, but for the list of clears. -/
def State.besideBunding (s : State) : State :=
  { s with errs := {}, tally := {}, mem := [], poison := [], cmds := [], memSys := { clears := s.memSys.clears }, edge := {} }

theorem State.withhold_besideBunding (s : State) (port src : Nat) (r : Nat × Nat) (met : Met) :
    (s.withhold port src r met).besideBunding = s.besideBunding := by
  have hf := State.withhold_frame s port src r met
  have hc := State.withhold_clears s port src r met
  generalize s.withhold port src r met = u at hf hc
  rw [State.besideBunding, hc]
  exact (congrArg State.besideBunding hf :)

theorem State.bundVault_besideBunding (s : State) (v src addr : Nat) (met : Met) :
    (s.bundVault v src addr met).besideBunding = s.besideBunding := by
  have hf := State.bundVaultAlone_frame s v src addr met
  have hc := State.bundVaultAlone_clears s v src addr met
  rw [State.bundVault_eq]
  generalize s.bundVaultAlone v src addr met = u at hf hc ⊢
  have hu : u.besideBunding = s.besideBunding := by
    rw [State.besideBunding, hc]
    exact (congrArg State.besideBunding hf :)
  split
  · rfl
  · split
    · exact ((congrArg State.besideBunding (State.fatal_frame u 5 src 0x47).1) :).trans hu
    · exact hu

/-- A vault is bunded: only vault 7 stops the device. -/
theorem State.bundVault_edge (s : State) (v src addr : Nat) (met : Met) (h : v = 7 → s.errs.vaults.getLsbD 7 = true) :
    (s.bundVault v src addr met).edge = s.edge := by
  rw [State.bundVault_eq]
  split
  · rfl
  · next hv =>
    split
    · next h7 =>
      subst h7
      exact absurd (h rfl) hv
    · exact (congrArg State.edge (State.bundVaultAlone_frame s v src addr met) :)

/-- FATAL with the cause of a failed vault 7. -/
def State.vaultFatal (s : State) : Prop := s.edge.stopped = true ∧ s.errs.fatalCause = 5

theorem State.bundVault_fatal (s : State) (src addr : Nat) (met : Met) (h : s.errs.vaults.getLsbD 7 = false) :
    (s.bundVault 7 src addr met).vaultFatal := by
  rw [State.bundVault_eq, if_neg (by rw [h]; exact Bool.false_ne_true), if_pos rfl]
  exact ⟨rfl, rfl⟩

theorem State.bundVault_keeps_fatal {s : State} (v src addr : Nat) (met : Met) (h : s.vaultFatal) :
    (s.bundVault v src addr met).vaultFatal := by
  obtain ⟨hs, hc⟩ := h
  rw [State.bundVault_eq]
  split
  · exact ⟨hs, hc⟩
  · split
    · exact ⟨rfl, rfl⟩
    · exact ⟨(congrArg (fun t : State => t.edge.stopped) (State.bundVaultAlone_frame s v src addr met) :).trans hs,
        (State.bundVaultAlone_errs s v src addr met).2.trans hc⟩

theorem State.withhold_keeps_fatal {s : State} (port src : Nat) (r : Nat × Nat) (met : Met) (h : s.vaultFatal) :
    (s.withhold port src r met).vaultFatal :=
  ⟨(congrArg (fun t : State => t.edge.stopped) (State.withhold_frame s port src r met) :).trans h.1,
    (State.withhold_cause s port src r met).trans h.2⟩

/-- The bunding of another vault leaves whether vault 7 is bunded. -/
theorem State.bundVault_vault7 (s : State) (v src addr : Nat) (met : Met) (h : v ≠ 7) (hv : v < 8) :
    (s.bundVault v src addr met).errs.vaults.getLsbD 7 = s.errs.vaults.getLsbD 7 := by
  rw [State.bundVault_eq]
  split
  · rfl
  · have hbit : ∀ i : Fin 8, i.val ≠ 7 → (BitVec.ofNat 8 (2 ^ i.val)).getLsbD 7 = false := by decide
    refine (congrArg (fun b : BitVec 8 => b.getLsbD 7) (State.bundVaultAlone_errs s v src addr met).1).trans ?_
    rw [BitVec.getLsbD_or, hbit ⟨v, hv⟩ h, Bool.or_false]

/-- Vaults bunded in turn: the device stops with FATAL where vault 7 is among them and was not bunded yet, and goes on otherwise. -/
theorem State.bundVaults_edge (l : List Nat) (src addr : Nat) (met : Met) (hl : ∀ v ∈ l, v < 8) (s : State) :
    (7 ∈ l → s.errs.vaults.getLsbD 7 = false → (l.foldl (fun s v => s.bundVault v src addr met) s).vaultFatal)
      ∧ (7 ∉ l ∨ s.errs.vaults.getLsbD 7 = true → (l.foldl (fun s v => s.bundVault v src addr met) s).edge = s.edge) := by
  induction l generalizing s with
  | nil => exact ⟨fun h => absurd h (List.not_mem_nil), fun _ => rfl⟩
  | cons v l ih =>
    have hv := hl v List.mem_cons_self
    obtain ⟨ihf, ihe⟩ := ih (fun x hx => hl x (List.mem_cons_of_mem _ hx)) (s.bundVault v src addr met)
    rw [List.foldl_cons]
    by_cases h7 : v = 7
    · subst h7
      refine ⟨fun _ hb => ?_, fun h => ?_⟩
      · exact foldl_keeps State.vaultFatal (fun s v => s.bundVault v src addr met) l
          (fun _ v _ h => State.bundVault_keeps_fatal v src addr met h) _ (State.bundVault_fatal s src addr met hb)
      · have hb := h.resolve_left fun hn => hn List.mem_cons_self
        rw [show s.bundVault 7 src addr met = s from (State.bundVault_eq ..).trans (if_pos hb)] at ihe ⊢
        exact ihe (.inr hb)
    · have hb := State.bundVault_vault7 s v src addr met h7 hv
      refine ⟨fun hm hs => ihf ((List.mem_cons.mp hm).resolve_left fun h => h7 h.symm) (hb.trans hs), fun h => ?_⟩
      rw [ihe (h.imp (fun hn hm => hn (List.mem_cons_of_mem _ hm)) hb.trans)]
      exact State.bundVault_edge s v src addr met fun h => absurd h h7

/-- Vaults bunded and ranges withheld, as a clear that failed leaves them. -/
def State.bundMemory (s : State) (v : ClearVerdict) (rs : List (Nat × Nat)) (met : Met) : State :=
  (portsFailed v rs).foldl (fun s i => (rs.filter fun r => overlaps r.1 r.2 (lpBase + i * lpStride) lpStride).foldl
    (fun s r => s.withhold i 9 r met) s) ((vaultsFailed v rs).foldl (fun s i => s.bundVault i 9 0 met) s)

theorem State.bundFailed_eq (s : State) (v : ClearVerdict) (rs : List (Nat × Nat)) (pans : List Nat) (met : Met) :
    s.bundFailed v rs pans met = ((pansFailed v pans).foldl (fun s p => s.bundPan p 9 met) s).bundMemory v rs met := rfl

/-- What every withholding keeps, the withholding of the failed ports keeps. -/
theorem State.withholds_keep (P : State → Prop) (h : ∀ s port r met, P s → P (s.withhold port 9 r met))
    (v : ClearVerdict) (rs : List (Nat × Nat)) (met : Met) (s : State) (hs : P s) : P ((portsFailed v rs).foldl (fun s i =>
      (rs.filter fun r => overlaps r.1 r.2 (lpBase + i * lpStride) lpStride).foldl (fun s r => s.withhold i 9 r met) s) s) :=
  foldl_keeps P _ _ (fun t i _ ht => foldl_keeps P _ _ (fun u r _ hu => h u i r met hu) t ht) s hs

theorem State.bundMemory_besideBunding (s : State) (v : ClearVerdict) (rs : List (Nat × Nat)) (met : Met) :
    (s.bundMemory v rs met).besideBunding = s.besideBunding :=
  State.withholds_keep (fun t => t.besideBunding = s.besideBunding)
    (fun t port r met h => (State.withhold_besideBunding t port 9 r met).trans h)
    v rs met _ (foldl_keeps (fun t : State => t.besideBunding = s.besideBunding) _ _
      (fun t i _ h => (State.bundVault_besideBunding t i 9 0 met).trans h) s rfl)

theorem mem_vaultsFailed_lt {v : ClearVerdict} {rs : List (Nat × Nat)} {i : Nat} (h : i ∈ vaultsFailed v rs) : i < 8 :=
  List.mem_range.mp (List.mem_filter.mp (List.mem_filter.mp h).1).1

/-- Vault 7 fails twice for the first time. -/
def State.vaultDies (s : State) (v : ClearVerdict) (rs : List (Nat × Nat)) : Bool :=
  (touchedVaults rs).contains 7 && v.retryVaults.getLsbD 7 && v.failVaults.getLsbD 7 && !s.errs.vaults.getLsbD 7

theorem State.vaultDies_iff (s : State) (v : ClearVerdict) (rs : List (Nat × Nat)) :
    s.vaultDies v rs = true ↔ 7 ∈ vaultsFailed v rs ∧ s.errs.vaults.getLsbD 7 = false := by
  simp [State.vaultDies, vaultsFailed, and_assoc]

theorem State.bundMemory_fatal (s : State) (v : ClearVerdict) (rs : List (Nat × Nat)) (met : Met) (h : s.vaultDies v rs = true) :
    (s.bundMemory v rs met).vaultFatal := by
  obtain ⟨hm, hb⟩ := (State.vaultDies_iff s v rs).mp h
  exact State.withholds_keep State.vaultFatal (fun t port r met ht => State.withhold_keeps_fatal port 9 r met ht) v rs met _
    ((State.bundVaults_edge _ 9 0 met (fun _ => mem_vaultsFailed_lt) s).1 hm hb)

theorem State.bundMemory_edge (s : State) (v : ClearVerdict) (rs : List (Nat × Nat)) (met : Met) (h : s.vaultDies v rs = false) :
    (s.bundMemory v rs met).edge = s.edge := by
  have hno : 7 ∉ vaultsFailed v rs ∨ s.errs.vaults.getLsbD 7 = true := by
    by_contra hc
    rw [not_or, not_not, Bool.not_eq_true] at hc
    rw [(State.vaultDies_iff s v rs).mpr hc] at h
    cases h
  exact State.withholds_keep (fun t => t.edge = s.edge)
    (fun t port r met ht => ((congrArg State.edge (State.withhold_frame t port 9 r met) :) : _ = t.edge).trans ht) v rs met _
    ((State.bundVaults_edge _ 9 0 met (fun _ => mem_vaultsFailed_lt) s).2 hno)

-- ## The start of a clear

/-- A clear handed to the clear engine by a command: what stands where the state differed from `s` in the tables of a start alone. -/
theorem State.startClear_queues {s t : State} {c d : Cmd} (a n : Nat)
    (ht : { t with cmds := s.cmds, tally := s.tally, mem := s.mem, poison := s.poison } = s) (hd : t.cmd? c.seq = some d) :
    (t.startClear c a n).memSys.clears
        = s.memSys.clears ++ [{ whole := false, part := c.part, seq := c.seq, ranges := s.unfenced a n, pans := 0 }]
      ∧ (t.startClear c a n).cmd? c.seq = some { d with working := true, status := stOk }
      ∧ { t.startClear c a n with memSys := s.memSys, cmds := s.cmds, tally := s.tally, mem := s.mem, poison := s.poison } = s
      ∧ ∀ x, (t.startClear c a n).byte x = t.byte x := by
  have hm : t.memSys = s.memSys := (congrArg State.memSys ht :)
  have hu : t.unfenced a n = s.unfenced a n := (congrArg (fun u : State => u.unfenced a n) ht :)
  refine ⟨?_, ?_, ?_, fun x => rfl⟩
  · show t.memSys.clears ++ [_] = _
    rw [hm, hu]
  · rw [State.startClear, State.cmd?_modCmd]
    · exact (congrArg (Option.map _) hd :)
    · exact fun _ => rfl
  · exact (congrArg (fun u : State => { u with memSys := s.memSys }) ht :)

theorem clearHandleAct_stands {s : State} {c : Cmd} {weights : Bool} (h : (s.region weights c.part (c.f 9 1)).loaded = true) :
    clearHandleAct weights c s = s.startClear c (s.region weights c.part (c.f 9 1)).base (s.region weights c.part (c.f 9 1)).len := by
  unfold clearHandleAct
  refine checked_passes (fun x hx => ?_) _ c s
  rw [List.mem_singleton.mp hx, h]
  rfl

theorem clearRangeAct_stands {s : State} {c : Cmd}
    (hw : within (s.ranges c.part) (c.addr 16 / 4096 * 4096) (cdiv (c.f 24 8) 4096 * 4096) = true)
    (hs : s.hitsSealed (c.addr 16 / 4096 * 4096) (cdiv (c.f 24 8) 4096 * 4096) = false)
    (hf : s.fencedAt (c.addr 16 / 4096 * 4096) (cdiv (c.f 24 8) 4096 * 4096) = false) :
    clearRangeAct c s = (s.clampCmd c.seq (alignClamp (c.addr 16) 4096 ||| alignClamp (c.f 24 8) 4096)).startClear c
      (c.addr 16 / 4096 * 4096) (cdiv (c.f 24 8) 4096 * 4096) := by
  unfold clearRangeAct
  refine checked_passes (fun x hx => ?_) _ c _
  generalize alignClamp (c.addr 16) 4096 ||| alignClamp (c.f 24 8) 4096 = m at hx
  have hw' : within ((s.clampCmd c.seq m).ranges c.part) (c.addr 16 / 4096 * 4096) (cdiv (c.f 24 8) 4096 * 4096) = true := hw
  have hs' : (s.clampCmd c.seq m).hitsSealed (c.addr 16 / 4096 * 4096) (cdiv (c.f 24 8) 4096 * 4096) = false := hs
  have hf' : (s.clampCmd c.seq m).fencedAt (c.addr 16 / 4096 * 4096) (cdiv (c.f 24 8) 4096 * 4096) = false := hf
  rcases List.mem_cons.mp hx with rfl | hx
  · simp [hw', hs']
  · rcases List.mem_cons.mp hx with rfl | hx
    · exact hf'
    · cases hx

-- ## Its end

/-- What the clear engine leaves of a command's clear, before the command ends. -/
def State.clearedFor (s : State) (c : Cmd) (j : ClearJob) (v : ClearVerdict) : State :=
  (s.sampled v j.ranges []).bundMemory v j.ranges { part := some c.part, seq := some c.seq }
/-- The clear engine has done with a job. -/
def State.dropClear (s : State) (j : ClearJob) : State :=
  { s with memSys := { s.memSys with clears := s.memSys.clears.filter fun k => k != j } }
/-- The handle that a CLEAR_REGION names, if it names one, is free. -/
def State.freeHandle (s : State) (c : Cmd) : State :=
  if c.f 8 1 ≤ 1 then s.setRegion (c.f 8 1 == 1) c.part (c.f 9 1) {} else s

theorem State.freeHandle_region {s : State} {c : Cmd} (h : c.f 8 1 ≤ 1) : (s.freeHandle c).region (c.f 8 1 == 1) c.part (c.f 9 1) = {} := by
  rw [State.freeHandle, if_pos h]
  exact State.region_setRegion ..
theorem State.freeHandle_memory (s : State) (c : Cmd) : (s.freeHandle c).byte = s.byte ∧ (s.freeHandle c).poison = s.poison := by
  unfold State.freeHandle
  split <;> exact ⟨rfl, rfl⟩

section
variable {s : State} {c : Cmd} {j : ClearJob} {v : ClearVerdict}

theorem clearRegionDone_eq (hc : s.cmd? c.seq = some c) (hw : c.working = true) (hs : s.edge.stopped = false)
    (hh : s.saltern.halted = false) (hj : s.memSys.clears.find? (fun k => !k.whole && k.seq == c.seq) = some j)
    (hf : s.clearWaits j.ranges = false) :
    exec (.clearRegionDone c.seq v) s = .next (
      let t := s.clearedFor c j v
      if t.edge.stopped then t
      else if c.op == 7 then
        ((t.dropClear j).freeHandle c).complete c.seq (if allPassed v j.ranges [] then c.status else stPoison)
      else (t.dropClear j).loadFailed (c.op == 3) c) := by
  show Host.Outcome.next (clearRegionDone c.seq v s) = _
  unfold clearRegionDone
  rw [hc, hj]
  dsimp only
  rw [if_neg (by simp [hs, hh, hw, hf])]
  rfl

theorem State.sampled_edge (s : State) (rs : List (Nat × Nat)) (pans : List Nat) : (s.sampled v rs pans).edge = s.edge :=
  (congrArg State.edge (State.sampled_frame s v rs pans) :)

theorem State.sampled_vaultDies (s : State) (rs : List (Nat × Nat)) (pans : List Nat) (rs' : List (Nat × Nat)) :
    (s.sampled v rs pans).vaultDies v rs' = s.vaultDies v rs' :=
  (congrArg (fun t : State => t.vaultDies v rs') (State.sampled_frame s v rs pans) :)

theorem State.clearedFor_edge (h : s.vaultDies v j.ranges = false) : (s.clearedFor c j v).edge = s.edge :=
  (State.bundMemory_edge _ v j.ranges _ ((State.sampled_vaultDies ..).trans h)).trans (State.sampled_edge ..)

theorem State.clearedFor_good (h : allPassed v j.ranges [] = true) : s.clearedFor c j v = s.sampled v j.ranges [] :=
  State.bundFailed_good _ v j.ranges [] _ h

/-- A clear changes no handle and no measurement. -/
theorem State.clearedFor_parts : (s.clearedFor c j v).parts = s.parts ∧ (s.clearedFor c j v).attest = s.attest := by
  have hb := State.bundMemory_besideBunding (s.sampled v j.ranges []) v j.ranges { part := some c.part, seq := some c.seq }
  have hs := State.sampled_frame s v j.ranges []
  exact ⟨(congrArg State.parts hb :).trans (congrArg State.parts hs :), (congrArg State.attest hb :).trans (congrArg State.attest hs :)⟩

end

-- ## A load cut short

theorem State.extend_failed_byte (s : State) (mr kind : Nat) (handle : Byte) (seq : Option DWord) {a : Nat}
    (h : ¬ (logBase ≤ a ∧ a < logBase + 0x400000)) : (s.extend mr kind handle none seq).byte a = s.byte a :=
  State.logAdd_byte (show failedValue.length ≤ 48 by decide) h

theorem State.mr_extend_failed (s : State) (mr kind h : Nat) (seq : Option DWord) :
    (s.extend mr kind (BitVec.ofNat 8 h) none seq).mr mr = extended (s.mr mr) mr kind 1 h (List.replicate 48 0xFF) := by
  rw [State.mr, State.extend]
  dsimp only
  rw [State.logAdd_mrs, Tab.look_put_same]
  rfl

theorem State.extend_failed_parts (s : State) (mr kind : Nat) (handle : Byte) (seq : Option DWord) :
    (s.extend mr kind handle none seq).parts = s.parts := (congrArg State.parts (State.logAdd_frame _ _) :)

/-- The handle of a load that was cut short is free, and the failed value extended. -/
def State.shortEnded (s : State) (weights : Bool) (c : Cmd) : State :=
  (s.setRegion weights c.part (c.f 8 1) {}).extend (8 + c.part) (if weights then 0x11 else 0x10) (BitVec.ofNat 8 (c.f 8 1))
    none (some c.seq)

theorem State.loadFailed_open {s : State} {c : Cmd} {weights : Bool} (hu : (s.region weights c.part (c.f 8 1)).used = true)
    (hc : (s.region weights c.part (c.f 8 1)).closed = false) (hl : (s.region weights c.part (c.f 8 1)).loadSeq = c.seq) :
    s.loadFailed weights c = (s.shortEnded weights c).complete c.seq stShort := by
  unfold State.loadFailed State.shortEnded
  dsimp only
  rw [if_pos (by simp [hu, hc, hl])]

theorem State.region_of_parts {s t : State} (h : t.parts = s.parts) (weights : Bool) (p k : Nat) :
    t.region weights p k = s.region weights p k := by
  simp only [State.region, State.part, h]

section
variable {s : State} {c : Cmd} {weights : Bool}

theorem State.shortEnded_region : (s.shortEnded weights c).region weights c.part (c.f 8 1) = {} :=
  (State.region_of_parts (State.extend_failed_parts ..) ..).trans (State.region_setRegion ..)

theorem State.shortEnded_mr : (s.shortEnded weights c).mr (8 + c.part) =
    extended (s.mr (8 + c.part)) (8 + c.part) (if weights then 0x11 else 0x10) 1 (c.f 8 1) (List.replicate 48 0xFF) :=
  State.mr_extend_failed ..

theorem State.shortEnded_byte {a : Nat} (h : ¬ (logBase ≤ a ∧ a < logBase + 0x400000)) : (s.shortEnded weights c).byte a = s.byte a :=
  State.extend_failed_byte _ _ _ _ _ h

end

section
variable {s : State} {c : Cmd}

theorem exec_clearRegionHandle (h : Starts s c 7) (weights : Bool) (hsel : c.f 8 1 = if weights then 1 else 0) :
    exec (if weights then .clearRegionWeights c.seq else .clearRegionProgram c.seq) s
      = .next (clearHandleAct weights c.begun (s.beginCmd c)).settled := by
  cases weights with
  | false => exact congrArg Host.Outcome.next (startRow_begun h (sel := fun x => x == 0) (by simp [hsel]) _)
  | true => exact congrArg Host.Outcome.next (startRow_begun h (sel := fun x => x == 1) (by simp [hsel]) _)

theorem exec_clearRegionRange (h : Starts s c 7) (hsel : c.f 8 1 = 2) :
    exec (.clearRegionRange c.seq) s = .next (clearRangeAct c.begun (s.beginCmd c)).settled :=
  congrArg Host.Outcome.next (startRow_begun h (sel := fun x => x == 2) (by simp [hsel]) _)

end

/-- Settles O22: the start queues the range, and the end takes the verdict of the clear. -/
theorem clearsAreQueuedAndZeroTheirRanges : Obligations.ClearsAreQueuedAndZeroTheirRanges := by
  intro s c b queued handle a n
  have hbegun (hs : s.cmd? c.seq = some c) := State.cmd?_beginCmd hs
  have hhandle (weights : Bool) (hst : Starts s c 7) (hsel : c.f 8 1 = if weights then 1 else 0) : handle weights := by
    intro hr
    have hexec := exec_clearRegionHandle hst weights hsel
    have hr' : ((s.beginCmd c).region weights c.part (c.f 9 1)).loaded = true := hr
    rw [clearHandleAct_stands (c := c.begun) hr'] at hexec
    obtain ⟨hclears, hcmd, hframe, hbyte⟩ := State.startClear_queues (s := s) (c := c.begun) (s.region weights c.part (c.f 9 1)).base
      (s.region weights c.part (c.f 9 1)).len (show ({ s.beginCmd c with cmds := s.cmds, tally := s.tally, mem := s.mem, poison :=
        s.poison } : State) = s from rfl) (hbegun hst.1)
    refine ⟨_, hexec, hclears, ?_, hframe, fun a ha => (hbyte a).trans (State.beginCmd_byte s c ha)⟩
    have hz : c.begun.clamp ||| 0 = c.begun.clamp := BitVec.or_zero
    rw [hz]
    exact hcmd
  refine ⟨hhandle false, hhandle true, fun hst hsel hw hs hf => ?_, fun j v hc hworks hs hh hj hf => ?_⟩
  · have hexec := exec_clearRegionRange hst hsel
    rw [clearRangeAct_stands (c := c.begun) hw hs hf] at hexec
    have hcl : ((s.beginCmd c).clampCmd c.seq (alignClamp (c.addr 16) 4096 ||| alignClamp (c.f 24 8) 4096)).cmd? c.seq
        = some { c.begun with clamp := c.begun.clamp ||| (alignClamp (c.addr 16) 4096 ||| alignClamp (c.f 24 8) 4096) } := by
      rw [State.cmd?_clampCmd, hbegun hst.1]
      rfl
    obtain ⟨hclears, hcmd, hframe, hbyte⟩ := State.startClear_queues (s := s) (c := c.begun)
      (t := (s.beginCmd c).clampCmd c.seq (alignClamp (c.addr 16) 4096 ||| alignClamp (c.f 24 8) 4096)) a n rfl hcl
    exact ⟨_, hexec, hclears, hcmd, hframe, fun a ha => (hbyte a).trans (State.beginCmd_byte s c ha)⟩
  · intro bad dead inJob inLog weights h r
    have hexec := clearRegionDone_eq (v := v) hc hworks hs hh hj hf
    have hbad : allPassed v j.ranges [] = !bad := by
      rw [allPassed_iff, List.any_nil, Bool.or_false]
    have hgo (hd : dead = false) : ¬ (s.clearedFor c j v).edge.stopped = true := by
      rw [State.clearedFor_edge hd, hs]
      exact Bool.false_ne_true
    obtain ⟨hparts, hattest⟩ := State.clearedFor_parts (s := s) (c := c) (j := j) (v := v)
    refine ⟨fun hd => ?_, fun hd hop => ?_, fun hd hop hu hcl hl => ?_⟩
    · obtain ⟨hstop, hcause⟩ := State.bundMemory_fatal (s.sampled v j.ranges []) v j.ranges
        { part := some c.part, seq := some c.seq } ((State.sampled_vaultDies ..).trans hd)
      dsimp only at hexec
      rw [if_pos (show (s.clearedFor c j v).edge.stopped = true from hstop)] at hexec
      exact ⟨_, hexec, hstop, hcause⟩
    · dsimp only at hexec
      rw [if_neg (hgo hd), if_pos (by simp [hop]), hbad] at hexec
      refine ⟨((s.clearedFor c j v).dropClear j).freeHandle c, ?_, State.freeHandle_region, fun hb => ?_⟩
      · rw [hexec]
        cases bad <;> rfl
      · obtain ⟨hmem, hpoison⟩ := State.freeHandle_memory ((s.clearedFor c j v).dropClear j) c
        have hgood : s.clearedFor c j v = s.sampled v j.ranges [] := State.clearedFor_good (by rw [hbad, hb]; rfl)
        have hin (a : Nat) : ClearByte j.ranges [] a ↔ inJob a := by simp [ClearByte, inJob]
        have hbyte (a : Nat) := State.byte_sampled s v j.ranges [] a
        rw [hmem, hpoison, hgood]
        exact ⟨fun a ha => (hbyte a).1 ((hin a).mpr ha), fun a ha => (hbyte a).2 fun hc => ha ((hin a).mp hc),
          fun x hx => State.sampled_poison s v j.ranges [] x hx⟩
    · have hw : (c.op == 3) = weights := rfl
      have h7 : ¬ (c.op == 7) = true := by rcases hop with hop | hop <;> simp [hop]
      have hr : ((s.clearedFor c j v).dropClear j).region weights c.part (c.f 8 1) = r := State.region_of_parts hparts ..
      dsimp only at hexec
      rw [if_neg (hgo hd), if_neg h7, hw, State.loadFailed_open (by rw [hr]; exact hu) (by rw [hr]; exact hcl)
        (by rw [hr]; exact hl)] at hexec
      refine ⟨_, hexec, State.shortEnded_region, ?_, fun hb => ?_⟩
      · rw [State.shortEnded_mr]
        exact congrArg (fun m => extended m (8 + c.part) (if weights then 0x11 else 0x10) 1 h (List.replicate 48 0xFF))
          (congrArg (fun x : Attest => x.mrs.look zeros48 (8 + c.part)) hattest)
      · have hgood : s.clearedFor c j v = s.sampled v j.ranges [] := State.clearedFor_good (by rw [hbad, hb]; rfl)
        have hin (a : Nat) : ClearByte j.ranges [] a ↔ inJob a := by simp [ClearByte, inJob]
        have hbyte (a : Nat) := State.byte_sampled s v j.ranges [] a
        rw [hgood]
        exact ⟨fun a ha hn => (State.shortEnded_byte hn).trans ((hbyte a).1 ((hin a).mpr ha)),
          fun a ha hn => (State.shortEnded_byte hn).trans ((hbyte a).2 fun hc => ha ((hin a).mp hc))⟩

end Sys2Proof.Machine

/-! SUPPORT. The first boot clear and the link record of the boot (R116, R139, R140). -/
namespace Sys2Proof.Machine

/-- What the first boot clear notes once vaults and pans are zeroed. -/
def State.bootNoted (s : State) : State :=
  { s with boot := { s.boot with cleared := true }
           memSys := { s.memSys with known := s.memSys.known ++ [(savedState, 0x100000), (workData, 0xC00000)] } }

/-- The link record of the boot, where there is one, copied to its place in the reserve. -/
def State.linkCopied (s : State) : State := match s.boot.linkRecord with | some l => s.writeKnown linkCopy l | none => s

/-- The ranges of the first boot clear, and its pans. -/
def bootRanges : List (Nat × Nat) := (List.range 8).map fun i => (i * vaultSize, vaultSize)
def State.openPans (s : State) : List Nat := pansAll.filter fun p => !(s.pan p).bunded

/-- A boot that waits for the examination does nothing. -/
theorem State.boots_examine {s : State} (h : s.boot.stage = .examine) : s.boots = s := by
  refine State.boots_waits ?_
  unfold State.bootStep
  split
  · rfl
  · rw [h]

/-- A first boot clear that all passes, with an empty event log: the link record of the boot is copied whole. -/
theorem bootClearDone_copiesLink {s : State} {v : ClearVerdict} {l : List Byte}
    (hs : s.edge.stopped = false) (hstage : s.boot.stage = .examine)
    (hd : s.eng.drbg = .ready) (hc : s.boot.cleared = false) (hl : s.boot.linkRecord = some l) (hlog : s.attest.log = [])
    (hgood : allPassed v bootRanges s.openPans = true) :
    exec (.bootClearDone v) s = .next ((s.sampled v bootRanges s.openPans).bootNoted.writeKnown linkCopy l) := by
  have hf := State.sampled_frame s v bootRanges s.openPans
  have hv := State.verify_good s v bootRanges s.openPans {} hgood
  show Host.Outcome.next (bootClearDone v s) = _
  unfold bootClearDone
  rw [if_neg (by simp [hs, hstage, hd]), if_pos (by simp [hc])]
  rw [State.openPans, bootRanges] at hv
  rw [hv]
  rw [← bootRanges, ← State.openPans]
  generalize s.sampled v bootRanges s.openPans = t at hf ⊢
  have hboot : t.boot = s.boot := (congrArg State.boot hf :)
  have hattest : t.attest = s.attest := (congrArg State.attest hf :)
  have hl' : t.boot.linkRecord = some l := by rw [hboot, hl]
  have hlog' : t.attest.log = [] := by rw [hattest, hlog]
  have hcopy : t.bootNoted.linkCopied = t.bootNoted.writeKnown linkCopy l := by
    unfold State.linkCopied
    rw [show t.bootNoted.boot.linkRecord = some l from hl']
  show Host.Outcome.next (State.boots (List.foldl (fun s e => s.write (logBase + 64 * e.2) (e.1.bytes e.2))
    t.bootNoted.linkCopied t.bootNoted.linkCopied.attest.log.zipIdx)) = _
  rw [hcopy]
  have hw : (t.bootNoted.writeKnown linkCopy l).attest.log = [] := hlog'
  have hst : (t.bootNoted.writeKnown linkCopy l).boot.stage = .examine := (congrArg Boot.stage hboot).trans hstage
  generalize t.bootNoted.writeKnown linkCopy l = u at hw hst ⊢
  rw [hw]
  exact congrArg Host.Outcome.next (State.boots_examine hst)

theorem State.byte_writeKnown (s : State) (a : Nat) (bs : List Byte) (x : Nat) : (s.writeKnown a bs).byte x = (s.write a bs).byte x := rfl

/-- A device that boots, with a link record of the boot, whose first boot clear has not ended. -/
def linkBoot (l : List Byte) : State := { boot := { stage := .examine, linkRecord := some l }, eng := { drbg := .ready } }

/-- A verdict in which nothing failed. -/
def cleanVerdict : ClearVerdict := { retryVaults := 0, failVaults := 0, retryPorts := 0, failPorts := 0, retryPans := 0, failPans := 0 }

theorem allPassed_clean (rs : List (Nat × Nat)) (pans : List Nat) : allPassed cleanVerdict rs pans = true := by
  simp [allPassed_iff, cleanVerdict]

/-- What the boot clear of such a device must leave in the first byte of the store of pan 0: the byte of a link record that reaches it. -/
theorem linkBoot_byte (h : Obligations.TheBootClearsExaminesAndRaisesReady) (l : List Byte) (hl : storeBase 0 - linkCopy < l.length)
    (hle : linkCopy ≤ storeBase 0) : l.getD (storeBase 0 - linkCopy) 0 = 0 := by
  obtain ⟨-, hfirst, -, -⟩ := h.1 (linkBoot l) cleanVerdict rfl (by simp [linkBoot]) (by simp [linkBoot]) (by simp [linkBoot])
  obtain ⟨w, hexec, hboot, -, -, -, hpans⟩ := hfirst (by simp [linkBoot]) rfl rfl rfl (by simp [linkBoot]) (by simp [linkBoot])
  rw [bootClearDone_copiesLink (s := linkBoot l) rfl rfl rfl rfl rfl rfl (allPassed_clean ..),
    State.boots_examine (s := w) (by rw [hboot]; rfl)] at hexec
  have hzero : w.byte (storeBase 0) = 0 := hpans 0 (storeBase 0) (by decide) rfl (.inl ⟨0, by decide, rfl⟩)
  rw [← Host.Outcome.next.inj hexec] at hzero
  generalize (linkBoot l).sampled cleanVerdict bootRanges (linkBoot l).openPans = t at hzero
  rw [State.byte_writeKnown, State.byte_write, if_pos ⟨hle, by omega⟩] at hzero
  exact hzero

/-- Refutes O52: nothing bounds the link record's length, so the copy of a record that reaches past the reserve leaves its own byte 1 in the
store of pan 0, which the boot clear had zeroed. -/
theorem not_theBootClearsExaminesAndRaisesReady : ¬ Obligations.TheBootClearsExaminesAndRaisesReady := by
  intro h
  have hlt : linkCopy < storeBase 0 := by decide
  have hzero := linkBoot_byte h (List.replicate (storeBase 0 + 1) 1) (by rw [List.length_replicate]; omega) hlt.le
  rw [List.getD_replicate _ (by omega)] at hzero
  exact absurd hzero (by decide)

end Sys2Proof.Machine

/-! SUPPORT. Race slots: arming, its copy, and the clear of a disarm (R187, R190, R192, R196). -/
namespace Sys2Proof.Machine

-- ## Memory of a pan

theorem ownMemory_iff (p a : Nat) : OwnMemory p a ↔
    (storeBase p ≤ a ∧ a < storeBase p + 0x200000) ∨ (accBase p ≤ a ∧ a < accBase p + 0x40000) := by
  have hstore (k : Nat) : slotAddr p { acc := false, ofs := 0 } k = storeBase p + k % 0x200000 := by simp [slotAddr]
  have hacc (k : Nat) : slotAddr p { acc := true, ofs := 0 } k = accBase p + k % 0x40000 := by simp [slotAddr]
  unfold OwnMemory InSlot
  simp only [hstore, hacc]
  generalize storeBase p = b
  generalize accBase p = c
  refine or_congr ⟨fun ⟨k, hk, h⟩ => by omega, fun h => ⟨a - b, by omega, by omega⟩⟩
    ⟨fun ⟨k, hk, h⟩ => by omega, fun h => ⟨a - c, by omega, by omega⟩⟩

theorem panByte_iff (p a : Nat) : PanByte p a ↔ OwnMemory p a ∨ (imemBase p ≤ a ∧ a < imemBase p + 0x20000) := by
  rw [ownMemory_iff, PanByte, or_assoc]

/-- The memories of a pan that is not bunded, zeroed. -/
theorem State.wipePan_byte {s : State} {p a : Nat} (hb : (s.pan p).bunded = false) :
    (PanByte p a → (s.wipePan p).byte a = 0) ∧ (¬ PanByte p a → (s.wipePan p).byte a = s.byte a) := by
  have h : (s.wipePan p).byte a = (s.zeroPan p).byte a := by
    unfold State.wipePan
    rw [if_neg (by simp [hb])]
    rfl
  rw [h]
  exact State.byte_zeroPan s p a

/-- The pan as it holds no program. -/
def Pan.wiped (v : Pan) : Pan :=
  { v with held := none, streamed := false, nDesc := 0, nInstr := 0, pc := 0, loops := [], blocks := []
           st := if v.st = .clearing then .idle else v.st }

theorem State.wipePan_pan (s : State) (p q : Nat) :
    (s.wipePan p).pan q = if q = p ∧ (s.pan p).bunded = false then (s.pan p).wiped else s.pan q := by
  unfold State.wipePan
  split
  · next h => rw [if_neg (by simp [h])]
  · next h =>
    have hb : (s.pan p).bunded = false := by simpa using h
    dsimp only
    rw [State.modPan_eq, State.setPan_pan]
    simp only [hb, and_true]
    rfl

theorem State.wipePan_frame (s : State) (p : Nat) : { s.wipePan p with mem := s.mem, poison := s.poison, pans := s.pans } = s := by
  unfold State.wipePan
  split <;> rfl

theorem State.wipePan_bunded (s : State) (p q : Nat) : ((s.wipePan p).pan q).bunded = (s.pan q).bunded := by
  rw [State.wipePan_pan]
  split
  · next h => rw [h.1]; rfl
  · rfl

-- ## RACE_CFG.ARM

theorem fld_arm (x v : Nat) (r : Nat) : fld (setFld x 31 1 v &&& (Rws.raceCfg r).mask) 31 1 = v % 2 := by
  have hm : (setFld x 31 1 v &&& (Rws.raceCfg r).mask) >>> 31 = (setFld x 31 1 v >>> 31) &&& 1 :=
    Nat.shiftRight_and_distrib.trans (congrArg (setFld x 31 1 v >>> 31 &&& ·) (show 0x8000FFFF >>> 31 = 1 by decide))
  unfold fld
  rw [hm, Nat.and_one_is_mod]
  unfold setFld fld
  simp only [Nat.shiftRight_eq_div_pow]
  omega

theorem State.setArm_arm (s : State) (i : Nat) (on : Bool) : fld ((s.setArm i on).cfg.get (.raceCfg i)) 31 1 = b2n on := by
  show fld ((s.cfg.set (.raceCfg i) _).get (.raceCfg i)) 31 1 = _
  rw [DevCfg.get_set_same, fld_arm]
  cases on <;> rfl

-- ## The checks of an arming (Table 7.8)

theorem State.armCheck_range (s : State) (i : Nat) (claim : Option Nat) (h k : Nat) : match s.armCheck i claim h k with
    | .error e => 1 ≤ e ∧ e ≤ 10
    | .ok n => 1 ≤ n ∧ n ≤ 700 := by
  fun_cases State.armCheck s i claim h k
  case case12 =>
    rename_i hn _ _
    simp only [Bool.or_eq_true, decide_eq_true_eq, not_or] at hn
    exact ⟨by omega, by omega⟩
  all_goals exact ⟨by decide, by decide⟩

theorem State.startArm_eq (s : State) (i : Nat) : s.startArm i =
    match s.armCheck i (s.slotClaim i) (fld (s.cfg.get (.raceCfg i)) 0 8) (fld (s.cfg.get (.raceCfg i)) 8 8) with
    | .error e => (some (armStatus e), (s.setArm i false).modSlot i fun v =>
        { v with armErr := BitVec.ofNat 4 e, st := if v.st = .failed then .failed else .disarmed, rearm := false })
    | .ok n => (none, (s.setArm i false).modSlot i fun v =>
        { v with st := .arming, staticCount := n, dropInput := 0, dropBusy := 0, dropDenied := 0, dropUnarmed := 0, rearm := false }) := rfl

/-- What an arming leaves: the code of the check that refuses it, or ARMING. -/
theorem startArm_shows (s : State) (i : Nat) :
    let v := s.slot i
    let t := (s.startArm i).2
    fld (t.cfg.get (.raceCfg i)) 31 1 = 0 ∧ (∀ j, j ≠ i → t.slot j = s.slot j)
      ∧ match s.armCheck i (s.slotClaim i) (fld (s.cfg.get (.raceCfg i)) 0 8) (fld (s.cfg.get (.raceCfg i)) 8 8) with
        | .error e => 1 ≤ e ∧ e ≤ 10 ∧ (s.startArm i).1 = some (if e ≤ 2 then stBadHandle else stDenied)
          ∧ t.slot i = { v with armErr := BitVec.ofNat 4 e, st := if v.st = .failed then .failed else .disarmed, rearm := false }
        | .ok n => (s.startArm i).1 = none ∧ 1 ≤ n ∧ n ≤ 700 ∧ t.slot i = { v with
          st := .arming, staticCount := n, dropInput := 0, dropBusy := 0, dropDenied := 0, dropUnarmed := 0, rearm := false } := by
  have hr := s.armCheck_range i (s.slotClaim i) (fld (s.cfg.get (.raceCfg i)) 0 8) (fld (s.cfg.get (.raceCfg i)) 8 8)
  have hslot (f : Slot → Slot) (j : Nat) : ((s.setArm i false).modSlot i f).slot j = if j = i then f (s.slot i) else s.slot j :=
    State.setSlot_slot ..
  rw [State.startArm_eq]
  generalize s.armCheck i (s.slotClaim i) (fld (s.cfg.get (.raceCfg i)) 0 8) (fld (s.cfg.get (.raceCfg i)) 8 8) = x at hr
  cases x with
  | error e =>
    exact ⟨s.setArm_arm i false, fun j hj => (hslot _ j).trans (if_neg hj), hr.1, hr.2, rfl, (hslot _ i).trans (if_pos rfl)⟩
  | ok n =>
    exact ⟨s.setArm_arm i false, fun j hj => (hslot _ j).trans (if_neg hj), rfl, hr.1, hr.2, (hslot _ i).trans (if_pos rfl)⟩

-- ## The arming copy (R190)

theorem State.retarget_frame (s : State) (g : Nat) (stay : Bool) :
    { s.retarget g stay with groups := s.groups, cmds := s.cmds, memSys := s.memSys } = s := by
  have hlock (t : State) : { t.lockGroup g 2 with cmds := t.cmds, memSys := t.memSys } = t := State.lockWhere_frame t _ 2
  fun_cases State.retarget s g stay
  case case2 => exact (congrArg (fun u : State => { u with groups := s.groups, cmds := s.cmds, memSys := s.memSys })
    (hlock (s.setPoint g _)) :)
  all_goals rfl

/-- A slot that is assigned has one of pans 1 to 5. -/
theorem State.slotPan_of_owner {s : State} {i p : Nat} (h : s.slotOwner i = some p) : 1 ≤ s.cfg.slotPan i ∧ s.cfg.slotPan i ≤ 5 := by
  unfold State.slotOwner State.slotBy at h
  split at h
  · assumption
  · cases h

/-- The weights and the program of an arming copied into the slot's pan. -/
def State.raceCopied (s : State) (pan : Nat) (wr pr : Region) (n : Nat) : State :=
  let s := s.write (storeBase pan) (s.read wr.base wr.weightBytes)
  s.write (imemBase pan) (s.read (pr.base + 64) n)

/-- The slot armed after its copy. -/
def State.raceArmed (s : State) (i pan part h : Nat) (pr : Region) : State :=
  let s := s.modPan pan fun x => { x with
    held := some (part, h, pr.loadSeq), streamed := false, gated := false
    nDesc := pr.prog.nDesc, nInstr := pr.prog.nInstr, blocks := [] }
  ((s.setArm i true).modSlot i fun v => { v with st := .armed }).retarget 0

theorem State.raceArmed_shows (s : State) (i pan part h : Nat) (pr : Region) :
    ((s.raceArmed i pan part h pr).slot i).st = .armed ∧ fld ((s.raceArmed i pan part h pr).cfg.get (.raceCfg i)) 31 1 = 1
      ∧ (s.raceArmed i pan part h pr).mem = s.mem := by
  unfold State.raceArmed
  dsimp only
  generalize hw : ((State.modPan s _ _).setArm i true).modSlot i _ = w
  have hf := State.retarget_frame w 0 true
  have hslot : (w.retarget 0).slot i = w.slot i := (congrArg (fun t : State => t.slot i) hf :)
  have hcfg : (w.retarget 0).cfg = w.cfg := (congrArg State.cfg hf :)
  have hmem : (w.retarget 0).mem = w.mem := (congrArg State.mem hf :)
  rw [hslot, hcfg, hmem, ← hw]
  refine ⟨?_, ?_, rfl⟩
  · rw [State.modSlot_eq, State.setSlot_slot, if_pos rfl]
  · exact State.setArm_arm (State.modPan s pan _) i true

section
variable {s : State} {pan : Nat} {wr pr : Region} {n : Nat}

theorem State.raceCopied_byte_other {a : Nat} (hs : ¬ (storeBase pan ≤ a ∧ a < storeBase pan + wr.weightBytes))
    (hi : ¬ (imemBase pan ≤ a ∧ a < imemBase pan + n)) : (s.raceCopied pan wr pr n).byte a = s.byte a := by
  rw [State.raceCopied, State.byte_write, State.length_read, if_neg hi, State.byte_write, State.length_read, if_neg hs]

theorem State.raceCopied_store (hpan : pan ≤ 5) (hw : wr.weightBytes ≤ 0x180000) :
    (s.raceCopied pan wr pr n).read (storeBase pan) wr.weightBytes = s.read wr.base wr.weightBytes := by
  have hlow : storeBase pan + wr.weightBytes ≤ imemBase pan := by
    unfold storeBase imemBase accBase
    omega
  rw [State.raceCopied, State.read_write_other _ _ _ _ _ (.inl hlow)]
  have h := State.read_write s (storeBase pan) (s.read wr.base wr.weightBytes)
  rwa [State.length_read] at h

theorem State.raceCopied_imem (hp : pr.base + 64 + n ≤ storeBase 0) :
    (s.raceCopied pan wr pr n).read (imemBase pan) n = s.read (pr.base + 64) n := by
  have hlow : storeBase 0 ≤ storeBase pan := by
    unfold storeBase
    omega
  have h := State.read_write (s.write (storeBase pan) (s.read wr.base wr.weightBytes)) (imemBase pan)
    ((s.write (storeBase pan) (s.read wr.base wr.weightBytes)).read (pr.base + 64) n)
  rw [State.length_read] at h
  exact h.trans (State.read_write_other _ _ _ _ _ (.inl (hp.trans hlow)))

end

/-- The copy of an arming that meets no mark and no bunded vault, and the slot armed. -/
theorem raceArmDone_arms {s : State} {slot : BitVec 2} {part : Nat} (hs : s.edge.stopped = false) (hst : (s.slot slot.toNat).st = .arming)
    (ho : s.slotOwner slot.toNat = some part) :
    let i := slot.toNat
    let w := s.cfg.get (.raceCfg i)
    let pr := s.region false part (fld w 0 8)
    let wr := s.region true part (fld w 8 8)
    let n := 16 * (pr.prog.nDesc + pr.prog.nInstr)
    s.fencedAt wr.base wr.weightBytes = false → s.fencedAt pr.base (64 + n) = false → s.marked wr.base wr.weightBytes = false →
    s.marked (pr.base + 64) n = false →
    ∃ t : State, { t with cmds := s.cmds, memSys := s.memSys } = s ∧ exec (.raceArmDone slot) s
      = .next (((t.raceCopied (s.cfg.slotPan i) wr pr n).raceArmed i (s.cfg.slotPan i) part (fld w 0 8) pr).slotDone i none) := by
  intro i w pr wr n h1 h2 h3 h4
  have hpath (t : State) (y : Nat) : { t.racePath 0 y with cmds := t.cmds, memSys := t.memSys } = t := State.lockWhere_frame t _ 4
  refine ⟨(s.racePath 0 ((vaultOf wr.base).getD 0)).racePath 0 ((vaultOf pr.base).getD 0), ?_, ?_⟩
  · have ha := hpath s ((vaultOf wr.base).getD 0)
    generalize s.racePath 0 ((vaultOf wr.base).getD 0) = t at ha ⊢
    have hb := hpath t ((vaultOf pr.base).getD 0)
    generalize t.racePath 0 ((vaultOf pr.base).getD 0) = u at hb ⊢
    rw [← ha, ← hb]
  · show Host.Outcome.next (raceArmDone i s) = _
    unfold raceArmDone
    rw [if_neg (by simp [hs]), if_neg (by simp [i, hst]), ho]
    dsimp only
    rw [if_neg (by rw [h1, h2]; exact Bool.false_ne_true), if_neg (by rw [h3, h4]; exact Bool.false_ne_true)]
    rfl

/-- What a clear of a race pan leaves, before its slot shows it. -/
def State.raceCleared (s : State) (p : Nat) (k : ClearVerdict) (met : Met) : State :=
  (s.verify k [] (if (s.pan p).bunded then [] else [p]) met).2.wipePan p

/-- The slot whose disarm has ended. -/
def State.raceDisarmed (s : State) (i p : Nat) : State :=
  s.modSlot i fun v => { v with disarm := false, inBuf := [], outFront := [], outBack := [], st := s.outState i p }

theorem raceDisarm_waits {s : State} {slot : BitVec 2} {k : ClearVerdict}
    (h : (s.slot slot.toNat).disarm = false ∨ (s.slot slot.toNat).st = .busy ∨ s.clearWaits [] [(s.slot slot.toNat).clearPan] = true) :
    exec (.raceDisarm { slot, verdict := k }) s = .next s := by
  show Host.Outcome.next (raceDisarm slot.toNat k s) = _
  unfold raceDisarm
  dsimp only
  rw [if_pos]
  rcases h with h | h | h <;> simp [h]

theorem raceDisarm_ends {s : State} {slot : BitVec 2} {k : ClearVerdict} (hs : s.edge.stopped = false) (hh : s.saltern.halted = false)
    (hd : (s.slot slot.toNat).disarm = true) (hst : (s.slot slot.toNat).st ≠ .busy)
    (hw : s.clearWaits [] [(s.slot slot.toNat).clearPan] = false) :
    let i := slot.toNat
    let p := (s.slot i).clearPan
    let u := (s.raceCleared p k { part := s.slotClaim i }).raceDisarmed i p
    exec (.raceDisarm { slot, verdict := k }) s = .next (if (s.slot i).rearm then
      (match u.startArm i with | (some st, t) => t.slotDone i (some st) | (none, t) => t) else u.slotDone i none) := by
  intro i p u
  show Host.Outcome.next (raceDisarm i k s) = _
  unfold raceDisarm
  dsimp only
  rw [if_neg (by simp [i, hs, hh, hd, hst, hw])]
  refine congrArg Host.Outcome.next (ite_congr rfl (fun _ => ?_) fun _ => rfl)
  show (if (u.startArm i).1.isSome then (u.startArm i).2.slotDone i (u.startArm i).1 else (u.startArm i).2) = _
  cases u.startArm i with
  | mk st t => cases st <;> rfl

section
variable {s : State} {p : Nat} {k : ClearVerdict} {met : Met}

theorem raceCleared_good (h : allPassed k [] (if (s.pan p).bunded then [] else [p]) = true) :
    s.raceCleared p k met = (s.sampled k [] (if (s.pan p).bunded then [] else [p])).wipePan p := by
  rw [State.raceCleared, State.verify_good _ _ _ _ _ h]

/-- A pan that failed twice is bunded. -/
theorem State.raceCleared_bunded (hb : (s.pan p).bunded = false) (hr : k.retryPans.getLsbD p = true) (hf : k.failPans.getLsbD p = true) :
    ((s.raceCleared p k met).pan p).bunded = true := by
  have hfail : pansFailed k [p] = [p] := by simp [pansFailed, hr, hf]
  rw [State.raceCleared, State.wipePan_bunded, hb, if_neg Bool.false_ne_true, State.verify_eq, State.bundFailed_eq, hfail]
  obtain ⟨-, hbund, -, -⟩ := State.bundPans 9 met [p] (s.sampled k [] [p])
  exact (hbund p).trans (by simp)

end

section
variable {s : State} {p : Nat} {k : ClearVerdict} {met : Met}

/-- A clear of a race pan that did not fail twice changes memory, marks, the DRBG, what the clear notes, and the pan alone. -/
theorem State.raceCleared_frame (h : allPassed k [] (if (s.pan p).bunded then [] else [p]) = true) :
    { s.raceCleared p k met with
      mem := s.mem, poison := s.poison, eng := s.eng, drawn := s.drawn, memSys := s.memSys, pans := s.pans } = s := by
  rw [raceCleared_good h]
  have hf := State.sampled_frame s k [] (if (s.pan p).bunded then [] else [p])
  generalize s.sampled k [] (if (s.pan p).bunded then [] else [p]) = t at hf ⊢
  have hw := State.wipePan_frame t p
  generalize t.wipePan p = u at hw ⊢
  calc _ = ({ ({ u with mem := t.mem, poison := t.poison, pans := t.pans } : State) with
            mem := s.mem, poison := s.poison, eng := s.eng, drawn := s.drawn, memSys := s.memSys, pans := s.pans } : State) := rfl
    _ = ({ ({ t with mem := s.mem, poison := s.poison, eng := s.eng, drawn := s.drawn, memSys := s.memSys } : State) with
            pans := s.pans } : State) := by rw [hw]
    _ = s := by rw [hf]

theorem State.sampled_pan (v : ClearVerdict) (rs : List (Nat × Nat)) (pans : List Nat) (q : Nat) : (s.sampled v rs pans).pan q = s.pan q :=
  (congrArg (fun t : State => t.pan q) (State.sampled_frame s v rs pans) :)

theorem State.raceCleared_pan (h : allPassed k [] (if (s.pan p).bunded then [] else [p]) = true) (q : Nat) :
    ((s.raceCleared p k met).pan q).bunded = (s.pan q).bunded := by
  rw [raceCleared_good h, State.wipePan_bunded, State.sampled_pan]

/-- What the slot shows once its pan is cleared is what it would have shown before. -/
theorem State.raceCleared_outState (h : allPassed k [] (if (s.pan p).bunded then [] else [p]) = true) (i : Nat) :
    (s.raceCleared p k met).outState i p = s.outState i p := by
  have hcfg : (s.raceCleared p k met).cfg = s.cfg := (congrArg State.cfg (State.raceCleared_frame h) :)
  have hslot : (s.raceCleared p k met).slot i = s.slot i := (congrArg (fun t : State => t.slot i) (State.raceCleared_frame h) :)
  unfold State.outState
  dsimp only
  rw [hcfg, hslot, State.raceCleared_pan h]

theorem State.raceCleared_empties (h : allPassed k [] (if (s.pan p).bunded then [] else [p]) = true) (hb : (s.pan p).bunded = false) :
    (∀ a, OwnMemory p a → (s.raceCleared p k met).byte a = 0) ∧ ((s.raceCleared p k met).pan p).held = none := by
  rw [raceCleared_good h]
  generalize (if (s.pan p).bunded then [] else [p]) = l
  have ht : ((s.sampled k [] l).pan p).bunded = false := by rw [State.sampled_pan, hb]
  refine ⟨fun a ha => (State.wipePan_byte ht).1 ((panByte_iff p a).mpr (.inl ha)), ?_⟩
  rw [State.wipePan_pan, if_pos ⟨rfl, ht⟩]
  rfl

end

/-- A race pan that is bunded is not cleared, and one that is not passes unless it failed twice. -/
theorem allPassed_race {s : State} {p : Nat} {k : ClearVerdict}
    (h : (!(s.pan p).bunded && k.retryPans.getLsbD p && k.failPans.getLsbD p) = false) :
    allPassed k [] (if (s.pan p).bunded then [] else [p]) = true := by
  rw [allPassed_iff]
  cases hb : (s.pan p).bunded with
  | true => rfl
  | false =>
    rw [hb, Bool.not_false, Bool.true_and] at h
    show (!(false || false || (k.retryPans.getLsbD p && k.failPans.getLsbD p || false))) = true
    rw [h]
    rfl

theorem State.raceDisarmed_slot (s : State) (i p j : Nat) : (s.raceDisarmed i p).slot j =
    if j = i then { s.slot i with disarm := false, inBuf := [], outFront := [], outBack := [], st := s.outState i p } else s.slot j :=
  State.setSlot_slot ..

/-- Settles O41: the checks of an arming, its copy, and the clear of a disarm. -/
theorem slotsAreArmedWithSealedCopiesAndDisarmedClean : Obligations.SlotsAreArmedWithSealedCopiesAndDisarmedClean := by
  refine ⟨fun s i _ => ?_, fun s slot part hs hst ho => ?_, fun s slot k hs hh => ?_⟩
  · intro w v t
    obtain ⟨harm, hother, hown⟩ := startArm_shows s i
    exact ⟨harm, hother, State.startArm_mem s i, hown⟩
  · intro i w pan pr wr n h1 h2 h3 h4 hw hn hwr hpr
    obtain ⟨t, ht, hexec⟩ := raceArmDone_arms hs hst ho h1 h2 h3 h4
    obtain ⟨-, hpan⟩ := State.slotPan_of_owner ho
    obtain ⟨hst, harm, hmem⟩ := State.raceArmed_shows (t.raceCopied pan wr pr n) i pan part (fld w 0 8) pr
    have hmt : t.mem = s.mem := (congrArg State.mem ht :)
    have hread (a m : Nat) : t.read a m = s.read a m := by rw [State.read, hmt, State.read]
    have hbyte (a : Nat) : t.byte a = s.byte a := by rw [State.byte, hmt, State.byte]
    have hbyte' (a : Nat) : ((t.raceCopied pan wr pr n).raceArmed i pan part (fld w 0 8) pr).byte a = (t.raceCopied pan wr pr n).byte a :=
      by
      rw [State.byte, hmem, State.byte]
    have hread' (a m : Nat) : ((t.raceCopied pan wr pr n).raceArmed i pan part (fld w 0 8)
      pr).read a m = (t.raceCopied pan wr pr n).read a m := by
      rw [State.read, hmem, State.read]
    refine ⟨_, hexec, hst, harm, ?_, ?_, fun a ha ha' => ?_⟩
    · rw [hread', State.raceCopied_store hpan hw, hread]
    · rw [hread', State.raceCopied_imem hpr, hread]
    · rw [hbyte', State.raceCopied_byte_other ha ha', hbyte]
  · intro i v p failed
    refine ⟨raceDisarm_waits, fun hd hst hw => ?_⟩
    have hslot (j : Nat) := State.raceDisarmed_slot (s.raceCleared p k { part := s.slotClaim i }) i p j
    have hi := (hslot i).trans (if_pos rfl)
    refine ⟨_, raceDisarm_ends hs hh hd hst hw, ?_, ?_, ?_, ?_, fun hf => ?_, fun hf => ?_⟩
    · rw [hi]
    · rw [hi]
    · rw [hi]
    · rw [hi]
    · simp only [failed, Bool.and_eq_true, Bool.not_eq_true'] at hf
      obtain ⟨⟨hb, hr⟩, hfail⟩ := hf
      exact State.raceCleared_bunded hb hr hfail
    · have hgood := allPassed_race hf
      have hother (j : Nat) : (s.raceCleared p k { part := s.slotClaim i }).slot j = s.slot j :=
        (congrArg (fun t : State => t.slot j) (State.raceCleared_frame hgood) :)
      refine ⟨?_, fun j hj => ((hslot j).trans (if_neg hj)).trans (hother j), fun hb => State.raceCleared_empties hgood hb⟩
      rw [hi, hother, State.raceCleared_outState hgood]

end Sys2Proof.Machine

/-! SUPPORT. What completions, bundings and whole clears leave of commits, of the list of clears and of epochs (R139, R439, R444). -/
namespace Sys2Proof.Machine

-- ## What the end of commands and bundings leave of clears and epochs

/-- The list of clears and every partition's epoch are the same. -/
def ClearsAndEpochs (s t : State) : Prop := t.memSys.clears = s.memSys.clears ∧ ∀ i, (t.part i).epoch = (s.part i).epoch

theorem ClearsAndEpochs.refl (s : State) : ClearsAndEpochs s s := ⟨rfl, fun _ => rfl⟩
theorem ClearsAndEpochs.trans {s t u : State} (h : ClearsAndEpochs s t) (h' : ClearsAndEpochs t u) : ClearsAndEpochs s u :=
  ⟨h'.1.trans h.1, fun i => (h'.2 i).trans (h.2 i)⟩
theorem ClearsAndEpochs.of_eq {s t : State} (hm : t.memSys = s.memSys) (hp : t.parts = s.parts) : ClearsAndEpochs s t :=
  ⟨by rw [hm], fun i => by rw [State.part, hp, State.part]⟩

/-- A change of a partition's record that keeps its epoch. -/
theorem State.modPart_clearsAndEpochs (s : State) (p : Nat) (f : Part → Part) (hf : ∀ v, (f v).epoch = v.epoch) :
    ClearsAndEpochs s (s.modPart p f) := by
  refine ⟨rfl, fun i => ?_⟩
  rw [State.modPart_eq, State.setPart_part]
  split
  · next h => rw [hf, h]
  · rfl

theorem State.settleStream_clearsAndEpochs (s : State) (u : KvUse) (good : Bool) : ClearsAndEpochs s (s.settleStream u good) := by
  unfold State.settleStream
  dsimp only
  split
  · exact .refl s
  · split
    · exact .refl s
    · exact .of_eq rfl rfl

theorem State.leavePans_clearsAndEpochs (s : State) (seq : DWord) : ClearsAndEpochs s (s.leavePans seq) := by
  have h := State.leavePans_frame s seq
  generalize s.leavePans seq = u at h ⊢
  exact .of_eq (congrArg State.memSys h :) (congrArg State.parts h :)

theorem State.creditSteps_clearsAndEpochs (s : State) (c : Cmd) (good : Bool) : ClearsAndEpochs s (s.creditSteps c good) := by
  unfold State.creditSteps
  split
  · exact State.modPart_clearsAndEpochs s _ _ fun _ => rfl
  · exact .refl s

theorem State.countFull_clearsAndEpochs (s : State) (c : Cmd) (st : Byte) : ClearsAndEpochs s (s.countFull c st) := by
  unfold State.countFull
  split
  · exact State.modPart_clearsAndEpochs s _ _ fun _ => rfl
  · exact .refl s

theorem State.noteLock_clearsAndEpochs (s : State) (c : Cmd) (good : Bool) : ClearsAndEpochs s (s.noteLock c good) := by
  unfold State.noteLock
  split
  · dsimp only
    refine .trans (t := (if c.locked then s.freshRefresh c.pans else s).draw.2) ?_ (State.modPart_clearsAndEpochs _ _ _ fun _ => rfl)
    split <;> exact ⟨rfl, fun _ => rfl⟩
  · exact .refl s

theorem State.putEntry_clearsAndEpochs (s : State) (c : Cmd) (st : Byte) : ClearsAndEpochs s (s.putEntry c st) := by
  unfold State.putEntry
  dsimp only
  split <;> exact .of_eq rfl rfl

theorem State.completeOne_clearsAndEpochs (s : State) (c : Cmd) (st : Byte) : ClearsAndEpochs s (s.completeOne c st) := by
  have hkv (good : Bool) : ClearsAndEpochs s (c.kv.foldl (fun s u => s.settleStream u good) s) :=
    foldl_keeps (ClearsAndEpochs s) _ _ (fun t u _ h => h.trans (State.settleStream_clearsAndEpochs t u good)) s (.refl s)
  unfold State.completeOne
  dsimp only
  generalize (st == stOk || st == stTrunc) = good
  refine (hkv good).trans ?_
  generalize c.kv.foldl (fun s u => s.settleStream u good) s = t
  refine (t.leavePans_clearsAndEpochs c.seq).trans (((State.creditSteps_clearsAndEpochs _ c good).trans
    ((State.countFull_clearsAndEpochs _ c st).trans (State.noteLock_clearsAndEpochs _ c good))).trans ?_)
  generalize (((t.leavePans c.seq).creditSteps c good).countFull c st).noteLock c good = u
  have hdone : ClearsAndEpochs u (u.tallyDone c st) := .of_eq rfl rfl
  have hput := hdone.trans (State.putEntry_clearsAndEpochs (u.tallyDone c st) c st)
  generalize (u.tallyDone c st).putEntry c st = w at hput ⊢
  exact hput.trans (.trans (t := w.dropCmd c) (.of_eq rfl rfl)
    (.of_eq (congrArg State.memSys (State.settleCtx_frame (w.dropCmd c) c.queue) :)
    (congrArg State.parts (State.settleCtx_frame (w.dropCmd c) c.queue) :)))

theorem State.finishNoRow_clearsAndEpochs (s : State) (c : Cmd) (st : Byte) : ClearsAndEpochs s (s.finishNoRow c st) := by
  have hb : ClearsAndEpochs s (s.beginCmd c) := .of_eq rfl rfl
  unfold State.finishNoRow
  dsimp only
  split
  · exact hb
  · exact hb.trans (State.completeOne_clearsAndEpochs ..)

theorem State.complete_clearsAndEpochs (s : State) (seq : DWord) (st : Byte) : ClearsAndEpochs s (s.complete seq st) :=
  State.complete_keeps (ClearsAndEpochs s) (fun _ _ _ h => h.trans (State.completeOne_clearsAndEpochs ..))
    (fun _ _ _ h => h.trans (State.finishNoRow_clearsAndEpochs ..)) s seq st (.refl s)

-- ## What the bunding of a pan leaves

theorem State.raceFails_frame (s : State) (f : State → Nat → Bool) (l : List Nat) :
    { l.foldl (fun s i => if f s i then s.raceFail i else s) s with slots := s.slots, drawn := s.drawn } = s := by
  refine foldl_keeps (fun t : State => { t with slots := s.slots, drawn := s.drawn } = s) _ _ (fun t i _ ht => ?_) s rfl
  split
  · have h := State.raceFail_frame t i
    generalize t.raceFail i = u at h ⊢
    rw [← ht, ← h]
  · exact ht

/-- The state without what the bunding of a pan changes, but for which vaults are bunded. -/
def State.besidePanBunding (s : State) : State :=
  { s.besideCmds with errs := { vaults := s.errs.vaults }, slots := [] }

/-- A pan noted as bunded and told to its owner, before the time locks over it end. -/
def State.bundPanNoted (s : State) (p src : Nat) (met : Met) : State :=
  let t := (s.record eBund src p 0 met).modPan p fun v => { v.leave with bunded := true, st := .idle, holds := [], gated := true }
  t.event 0x80 evBunded (match s.panPart p with | some q => BitVec.ofNat 8 q | none => 0xFF) (BitVec.ofNat 8 p)

theorem State.bundPanNoted_frame (s : State) (p src : Nat) (met : Met) :
    { s.bundPanNoted p src met with errs := s.errs, pans := s.pans, tally := s.tally, mem := s.mem, poison := s.poison } = s := by
  unfold State.bundPanNoted
  dsimp only
  have hr := State.record_frame s eBund src p 0 met
  generalize s.record eBund src p 0 met = t at hr ⊢
  generalize hm : (t.modPan p fun v => { v.leave with bunded := true, st := .idle, holds := [], gated := true }) = w
  generalize (match s.panPart p with | some q => BitVec.ofNat 8 q | none => (0xFF : Byte)) = b
  have he := State.event_frame w 0x80 evBunded b (BitVec.ofNat 8 p) 0 0
  generalize w.event 0x80 evBunded b (BitVec.ofNat 8 p) = x at he ⊢
  calc _ = ({ ({ x with tally := w.tally, mem := w.mem, poison := w.poison } : State) with
            errs := s.errs, pans := s.pans, tally := s.tally, mem := s.mem, poison := s.poison } : State) := rfl
    _ = ({ ({ t with errs := s.errs } : State) with pans := s.pans, tally := s.tally, mem := s.mem, poison := s.poison } : State) := by
          rw [he, ← hm]; rfl
    _ = s := by rw [hr]

theorem State.bundPanNoted_vaults (s : State) (p src : Nat) (met : Met) : (s.bundPanNoted p src met).errs.vaults = s.errs.vaults := by
  obtain ⟨-, hv⟩ := State.record_errs s eBund src p 0 met
  unfold State.bundPanNoted
  dsimp only
  generalize s.record eBund src p 0 met = t at hv ⊢
  generalize hm : (t.modPan p fun v => { v.leave with bunded := true, st := .idle, holds := [], gated := true }) = w
  generalize (match s.panPart p with | some q => BitVec.ofNat 8 q | none => (0xFF : Byte)) = b
  have he : (w.event 0x80 evBunded b (BitVec.ofNat 8 p)).errs = w.errs :=
    (congrArg State.errs (State.event_frame w 0x80 evBunded b _ 0 0) :)
  rw [he, ← hm, ← hv]
  rfl

theorem State.bundAlone_eq (s : State) (p src : Nat) (met : Met) : s.bundAlone p src met =
    (List.range 4).foldl (fun s i => if s.reqPan i == p && ((s.slot i).st = .busy || s.slotOf p == some i) then s.raceFail i else s)
      ((s.bundPanNoted p src met).lockPan p 8) := rfl

theorem State.bundAlone_frame (s : State) (p src : Nat) (met : Met) : { s.bundAlone p src met with
      errs := s.errs, pans := s.pans, tally := s.tally, mem := s.mem, poison := s.poison, cmds := s.cmds, memSys := s.memSys
      slots := s.slots, drawn := s.drawn } = s := by
  have hn := State.bundPanNoted_frame s p src met
  rw [State.bundAlone_eq]
  generalize s.bundPanNoted p src met = t at hn ⊢
  have hl : { t.lockPan p 8 with cmds := t.cmds, memSys := t.memSys } = t := State.lockWhere_frame t _ 8
  generalize t.lockPan p 8 = u at hl ⊢
  have hr := State.raceFails_frame u (fun s i => s.reqPan i == p && ((s.slot i).st = .busy || s.slotOf p == some i)) (List.range 4)
  generalize List.foldl _ u (List.range 4) = x at hr ⊢
  calc _ = ({ ({ x with slots := u.slots, drawn := u.drawn } : State) with
            errs := s.errs, pans := s.pans, tally := s.tally, mem := s.mem, poison := s.poison, cmds := s.cmds, memSys := s.memSys
            slots := s.slots, drawn := s.drawn } : State) := rfl
    _ = ({ ({ u with cmds := t.cmds, memSys := t.memSys } : State) with
            errs := s.errs, pans := s.pans, tally := s.tally, mem := s.mem, poison := s.poison, cmds := s.cmds, memSys := s.memSys
            slots := s.slots, drawn := s.drawn } : State) := by rw [hr]
    _ = ({ ({ t with errs := s.errs, pans := s.pans, tally := s.tally, mem := s.mem, poison := s.poison } : State) with
            cmds := s.cmds, memSys := s.memSys, slots := s.slots, drawn := s.drawn } : State) := by rw [hl]
    _ = s := by rw [hn]

theorem State.bundAlone_lists (s : State) (p src : Nat) (met : Met) :
    (s.bundAlone p src met).errs.vaults = s.errs.vaults ∧ (s.bundAlone p src met).memSys.clears = s.memSys.clears := by
  have hn := State.bundPanNoted_frame s p src met
  have hv := State.bundPanNoted_vaults s p src met
  rw [State.bundAlone_eq]
  generalize s.bundPanNoted p src met = t at hn hv ⊢
  have hl : (t.lockPan p 8).errs = t.errs := (congrArg State.errs (State.lockWhere_frame t (fun c => c.pans.contains p) 8) :)
  have hc : (t.lockPan p 8).memSys.clears = t.memSys.clears := State.lockWhere_clears ..
  generalize t.lockPan p 8 = u at hl hc ⊢
  have hr := State.raceFails_frame u (fun s i => s.reqPan i == p && ((s.slot i).st = .busy || s.slotOf p == some i)) (List.range 4)
  generalize List.foldl _ u (List.range 4) = x at hr ⊢
  have hxe : x.errs = u.errs := (congrArg State.errs hr :)
  have hxm : x.memSys = u.memSys := (congrArg State.memSys hr :)
  have htm : t.memSys = s.memSys := (congrArg State.memSys hn :)
  rw [hxe, hxm, hl, hc, hv, htm]
  exact ⟨rfl, rfl⟩

theorem State.besidePanBunding_of {s t : State} (h : t.besideCmds = s.besideCmds) : t.besidePanBunding = s.besidePanBunding := by
  have he : t.errs = s.errs := (congrArg State.errs h :)
  rw [State.besidePanBunding, State.besidePanBunding, h, he]

/-- The bunding of a pan keeps the list of clears, epochs, and which vaults are bunded, and changes nothing but commands,
  slots and records. -/
theorem State.bundPan_keeps (s : State) (p src : Nat) (met : Met) :
    (s.bundPan p src met).besidePanBunding = s.besidePanBunding ∧ ClearsAndEpochs s (s.bundPan p src met) := by
  have hf := State.bundAlone_frame s p src met
  obtain ⟨hv, hc⟩ := State.bundAlone_lists s p src met
  have halone : (s.bundAlone p src met).besidePanBunding = s.besidePanBunding ∧ ClearsAndEpochs s (s.bundAlone p src met) := by
    generalize s.bundAlone p src met = t at hf hv hc ⊢
    refine ⟨?_, hc, fun i => (congrArg (fun u : State => (u.part i).epoch) hf :)⟩
    rw [State.besidePanBunding, hv]
    exact (congrArg State.besidePanBunding hf :)
  rcases State.bundPan_cases s p src met with ⟨-, h⟩ | ⟨-, h | ⟨seq, h⟩⟩
  · rw [h]
    exact ⟨rfl, .refl s⟩
  · rw [h]
    exact halone
  · rw [h]
    obtain ⟨hb, hk⟩ := halone
    refine ⟨?_, hk.trans (State.complete_clearsAndEpochs ..)⟩
    exact (State.besidePanBunding_of (State.complete_besideCmds (s.bundAlone p src met) seq stPoison)).trans hb

theorem State.bundPans_keep (src : Nat) (met : Met) (l : List Nat) (s : State) :
    (l.foldl (fun s p => s.bundPan p src met) s).besidePanBunding = s.besidePanBunding
      ∧ ClearsAndEpochs s (l.foldl (fun s p => s.bundPan p src met) s) :=
  foldl_keeps (fun t : State => t.besidePanBunding = s.besidePanBunding ∧ ClearsAndEpochs s t) _ _ (fun t p _ h =>
    ⟨(State.bundPan_keeps t p src met).1.trans h.1, h.2.trans (State.bundPan_keeps t p src met).2⟩) s ⟨rfl, .refl s⟩

-- ## A whole clear, whatever failed

/-- A clear keeps commits, the committed configuration, the list of clears and the epochs. -/
theorem State.verify_keeps (s : State) (v : ClearVerdict) (rs : List (Nat × Nat)) (pans : List Nat) (met : Met) :
    (s.verify v rs pans met).2.commits = s.commits ∧ (s.verify v rs pans met).2.cfg = s.cfg
      ∧ ClearsAndEpochs s (s.verify v rs pans met).2 := by
  have hs := State.sampled_frame s v rs pans
  have hm := State.sampled_memSys s v rs pans
  rw [State.verify_eq, State.bundFailed_eq]
  generalize s.sampled v rs pans = t at hs hm ⊢
  obtain ⟨hp, hk⟩ := State.bundPans_keep 9 met (pansFailed v pans) t
  generalize (pansFailed v pans).foldl (fun s p => s.bundPan p 9 met) t = u at hp hk ⊢
  have hb := State.bundMemory_besideBunding u v rs met
  dsimp only
  generalize u.bundMemory v rs met = w at hb ⊢
  have hst : ClearsAndEpochs s t := ⟨(congrArg MemSys.clears hm :), fun i => (congrArg (fun x : State => (x.part i).epoch) hs :)⟩
  have huw : ClearsAndEpochs u w := 
    ⟨(congrArg (fun x : State => x.memSys.clears) hb :), fun i => (congrArg (fun x : State => (x.part i).epoch) hb :)⟩
  refine ⟨?_, ?_, hst.trans (hk.trans huw)⟩
  · exact ((congrArg State.commits hb :).trans (congrArg State.commits hp :)).trans (congrArg State.commits hs :)
  · exact ((congrArg State.cfg hb :).trans (congrArg State.cfg hp :)).trans (congrArg State.cfg hs :)

/-- A clear stops the device where vault 7 fails twice for the first time, and otherwise leaves the edge. -/
theorem State.verify_edge (s : State) (v : ClearVerdict) (rs : List (Nat × Nat)) (pans : List Nat) (met : Met) :
    (s.vaultDies v rs = true → (s.verify v rs pans met).2.vaultFatal)
      ∧ (s.vaultDies v rs = false → (s.verify v rs pans met).2.edge = s.edge) := by
  have hd := State.sampled_vaultDies (v := v) s rs pans rs
  have he := State.sampled_edge (v := v) s rs pans
  rw [State.verify_eq, State.bundFailed_eq]
  generalize s.sampled v rs pans = t at hd he ⊢
  obtain ⟨hp, -⟩ := State.bundPans_keep 9 met (pansFailed v pans) t
  obtain ⟨hpe, -⟩ := State.bundPans 9 met (pansFailed v pans) t
  dsimp only at hpe ⊢
  generalize (pansFailed v pans).foldl (fun s p => s.bundPan p 9 met) t = u at hp hpe ⊢
  have hdu : u.vaultDies v rs = s.vaultDies v rs := ((congrArg (fun x : State => x.vaultDies v rs) hp :)).trans hd
  refine ⟨fun h => State.bundMemory_fatal u v rs met (hdu.trans h), fun h => ?_⟩
  rw [State.bundMemory_edge u v rs met (hdu.trans h), hpe, he]

end Sys2Proof.Machine

/-! SUPPORT. The end of a partition's clear: pans wiped, records reset, the next clear begun (R137, R251, R364, Table 9.14). -/
namespace Sys2Proof.Machine

-- ## Pans in turn

theorem State.modPans_frame (g : Pan → Pan) (l : List Nat) (s : State) :
    { l.foldl (fun s i => s.modPan i g) s with pans := s.pans } = s :=
  foldl_keeps (fun t : State => { t with pans := s.pans } = s) (fun s i => s.modPan i g) l (fun _ _ _ h => h) s rfl

/-- Pans changed in turn in one way that is done once. -/
theorem State.modPans_pan (g : Pan → Pan) (hg : ∀ v, g (g v) = g v) (l : List Nat) (s : State) (q : Nat) :
    (l.foldl (fun s i => s.modPan i g) s).pan q = if q ∈ l then g (s.pan q) else s.pan q := by
  induction l generalizing s with
  | nil => rfl
  | cons p l ih =>
    rw [List.foldl_cons, ih, State.modPan_eq, State.setPan_pan]
    by_cases hq : q = p
    · subst hq
      simp [hg]
    · simp [hq]

theorem Pan.wiped_wiped (v : Pan) : v.wiped.wiped = v.wiped := by
  unfold Pan.wiped
  split <;> simp_all

theorem State.wipePans_frame (l : List Nat) (s : State) : { l.foldl State.wipePan s with mem := s.mem, poison := s.poison, pans :=
    s.pans } = s := by
  refine foldl_keeps (fun t : State => { t with mem := s.mem, poison := s.poison, pans := s.pans } = s)
    State.wipePan l (fun t p _ h => ?_) s rfl
  have hw := State.wipePan_frame t p
  generalize t.wipePan p = u at hw ⊢
  rw [← h, ← hw]

theorem State.wipePans_pan (l : List Nat) (s : State) (q : Nat) :
    (l.foldl State.wipePan s).pan q = if q ∈ l ∧ (s.pan q).bunded = false then (s.pan q).wiped else s.pan q := by
  induction l generalizing s with
  | nil => simp
  | cons p l ih =>
    rw [List.foldl_cons, ih, State.wipePan_bunded, State.wipePan_pan]
    by_cases hb : (s.pan q).bunded = false
    · by_cases hq : q = p
      · subst hq
        simp [hb, Pan.wiped_wiped]
      · simp [hq, hb]
    · have hb' : (s.pan q).bunded = true := by simpa using hb
      by_cases hq : q = p
      · subst hq
        simp [hb']
      · simp [hq, hb']

/-- A byte stays zero, and one of no pan that is wiped stays as it was. -/
theorem State.wipePans_byte (l : List Nat) (s : State) (a : Nat) : (s.byte a = 0 → (l.foldl State.wipePan s).byte a = 0)
    ∧ ((∀ p ∈ l, (s.pan p).bunded = false → ¬ PanByte p a) → (l.foldl State.wipePan s).byte a = s.byte a) := by
  induction l generalizing s with
  | nil => exact ⟨id, fun _ => rfl⟩
  | cons p l ih =>
    obtain ⟨ihz, iho⟩ := ih (s.wipePan p)
    have hstep : (s.wipePan p).byte a = 0 ∨ (s.wipePan p).byte a = s.byte a := by
      cases hb : (s.pan p).bunded with
      | true =>
        refine .inr ?_
        unfold State.wipePan
        rw [if_pos hb]
      | false =>
        by_cases ha : PanByte p a
        · exact .inl ((State.wipePan_byte hb).1 ha)
        · exact .inr ((State.wipePan_byte hb).2 ha)
    refine ⟨fun h => ihz (hstep.elim id fun he => he.trans h), fun h => ?_⟩
    rw [List.foldl_cons, iho fun q hq hb => h q (List.mem_cons_of_mem _ hq) ((State.wipePan_bunded s p q).symm.trans hb)]
    cases hb : (s.pan p).bunded with
    | true =>
      unfold State.wipePan
      rw [if_pos hb]
    | false => exact (State.wipePan_byte hb).2 (h p List.mem_cons_self hb)

-- ## What resets once the clear has ended (Table 9.14)

/-- A pan whose registers are reset. -/
def Pan.quiet (v : Pan) : Pan :=
  { v with arith := 0, profIssue := 0, profCell := 0, profVec := 0, profMove := 0, profGated := 0, profBubble := 0 }

/-- A slot without a disarm and with empty buffers. -/
def Slot.Empty (v : Slot) : Prop := v.disarm = false ∧ v.inBuf = [] ∧ v.outFront = [] ∧ v.outBack = []

/-- The slots of a torn-down partition reset. -/
def State.resetSlots (s : State) (slots : List Nat) : State :=
  slots.foldl (fun s i => s.modSlot i fun v =>
    { v with st := s.outState i v.clearPan, disarm := false, rearm := false, inBuf := [], outFront := [], outBack := [] }) s

theorem State.resetSlots_frame (s : State) (slots : List Nat) : { s.resetSlots slots with slots := s.slots } = s :=
  foldl_keeps (fun t : State => { t with slots := s.slots } = s) (fun s i => s.modSlot i fun v =>
    { v with st := s.outState i v.clearPan, disarm := false, rearm := false, inBuf := [], outFront := [], outBack := [] }) slots
    (fun _ _ _ h => h) s rfl

theorem State.resetSlots_empty (slots : List Nat) (s : State) (i : Nat) (h : i ∈ slots ∨ (s.slot i).Empty) :
    ((s.resetSlots slots).slot i).Empty := by
  induction slots generalizing s with
  | nil => exact h.resolve_left (List.not_mem_nil)
  | cons k l ih =>
    refine ih _ ?_
    dsimp only
    rw [State.modSlot_eq, State.setSlot_slot]
    by_cases hi : i = k
    · rw [if_pos hi]
      exact .inr ⟨rfl, rfl, rfl, rfl⟩
    · rw [if_neg hi]
      exact h.imp (fun hm => (List.mem_cons.mp hm).resolve_left hi) id

/-- The queues of a partition reset. -/
def State.resetQueues (s : State) (p : Nat) : State :=
  s.mapQueues p fun s q => { s with ctxs := s.ctxs.put {} q {}, cfg := s.cfg.setCtx q {} }

theorem State.resetQueues_keeps (s : State) (p : Nat) :
    { s.resetQueues p with ctxs := s.ctxs, cfg := s.cfg } = s ∧ (s.resetQueues p).cfg.parts = s.cfg.parts :=
  foldl_keeps (fun t : State => { t with ctxs := s.ctxs, cfg := s.cfg } = s ∧ t.cfg.parts = s.cfg.parts)
    (fun s q => { s with ctxs := s.ctxs.put {} q {}, cfg := s.cfg.setCtx q {} }) _ (fun _ _ _ h => h) s ⟨rfl, rfl⟩

theorem State.resetMr_frame (s : State) (k : Nat) : { s.resetMr k with attest := s.attest, mem := s.mem, poison := s.poison } = s :=
  (congrArg (fun t : State => { t with attest := s.attest }) (State.logAdd_frame _ _) :)

theorem State.resetMr_mr (s : State) (k : Nat) : (s.resetMr k).mr (8 + k) = zeros48 := by
  rw [State.mr, State.resetMr]
  dsimp only
  rw [State.logAdd_mrs, Tab.look_put_same]

theorem State.resetMr_byte (s : State) (k : Nat) {a : Nat} (h : ¬ (logBase ≤ a ∧ a < logBase + 0x400000)) :
    (s.resetMr k).byte a = s.byte a :=
  State.logAdd_byte (show zeros48.length ≤ 48 by decide) h

/-- The record and the pool of a torn-down partition reset. -/
def State.resetTables (s : State) (p : Nat) : State :=
  let s := s.setPart p { epoch := (s.part p).epoch, teardown := true, lastCleared := (s.part p).lastCleared }
  { s with cfg := s.cfg.setPart p { s.cfg.part p with kvCfg := 0, kvExt := [] }
           shadow := s.shadow.setPart p { s.shadow.part p with kvCfg := 0, kvExt := [] } }

theorem State.resetPart_eq (s : State) (p : Nat) (pans slots : List Nat) : s.resetPart p pans slots =
    (((pans.foldl (fun s i => s.modPan i Pan.quiet) (s.resetQueues p)).resetSlots slots).resetTables p).resetMr p := rfl

theorem State.resetTables_part (s : State) (p i : Nat) : (s.resetTables p).part i =
    if i = p then { epoch := (s.part p).epoch, teardown := true, lastCleared := (s.part p).lastCleared } else s.part i :=
  State.setPart_part ..

theorem State.resetTables_cfg (s : State) (p i : Nat) : (s.resetTables p).cfg.part i =
    if i = p then { s.cfg.part p with kvCfg := 0, kvExt := [] } else s.cfg.part i :=
  DevCfg.part_setPart ..

theorem State.resetTables_frame (s : State) (p : Nat) :
    { s.resetTables p with parts := s.parts, cfg := s.cfg, shadow := s.shadow } = s := rfl

/-- What a torn-down partition's reset leaves. -/
structure PartReset (s u : State) (p : Nat) (pans slots : List Nat) : Prop where
  part : ∀ i, u.part i = if i = p then { epoch := (s.part p).epoch, teardown := true, lastCleared := (s.part p).lastCleared } else s.part i
  cfg : ∀ i, u.cfg.part i = if i = p then { s.cfg.part p with kvCfg := 0, kvExt := [] } else s.cfg.part i
  mr : u.mr (8 + p) = zeros48
  slots : ∀ i ∈ slots, (u.slot i).Empty
  pan : ∀ q, u.pan q = if q ∈ pans then (s.pan q).quiet else s.pan q
  beside : { u with parts := s.parts, ctxs := s.ctxs, cfg := s.cfg, shadow := s.shadow, pans := s.pans, slots := s.slots, attest := s.attest
                    mem := s.mem, poison := s.poison } = s
  byte : ∀ a, ¬ (logBase ≤ a ∧ a < logBase + 0x400000) → u.byte a = s.byte a

theorem State.resetPart_resets (s : State) (p : Nat) (pans slots : List Nat) : PartReset s (s.resetPart p pans slots) p pans slots := by
  rw [State.resetPart_eq]
  obtain ⟨hq, hqc⟩ := State.resetQueues_keeps s p
  generalize s.resetQueues p = t1 at hq hqc ⊢
  have hp := State.modPans_frame Pan.quiet pans t1
  have hpan := State.modPans_pan Pan.quiet (fun _ => rfl) pans t1
  generalize pans.foldl (fun s i => s.modPan i Pan.quiet) t1 = t2 at hp hpan ⊢
  have hs := State.resetSlots_frame t2 slots
  have hslot (i : Nat) (hi : i ∈ slots) := State.resetSlots_empty slots t2 i (.inl hi)
  generalize t2.resetSlots slots = t3 at hs hslot ⊢
  have h31 : { t3 with slots := t1.slots, pans := t1.pans } = t1 := by rw [← hp, ← hs]
  have h3 : { t3 with slots := s.slots, pans := s.pans, ctxs := s.ctxs, cfg := s.cfg } = s := by
    calc _ = ({ ({ t3 with slots := t1.slots, pans := t1.pans } : State) with
              slots := s.slots, pans := s.pans, ctxs := s.ctxs, cfg := s.cfg } : State) := rfl
      _ = ({ ({ t1 with ctxs := s.ctxs, cfg := s.cfg } : State) with slots := s.slots, pans := s.pans } : State) := by rw [h31]
      _ = s := by rw [hq]
  have hparts3 (i : Nat) : t3.part i = s.part i := (congrArg (fun t : State => t.part i) h3 :)
  have hcfg3 (i : Nat) : t3.cfg.part i = s.cfg.part i := by
    have : t3.cfg = t1.cfg := (congrArg State.cfg h31 :)
    rw [DevCfg.part, this, hqc, DevCfg.part]
  have hr := State.resetMr_frame (t3.resetTables p) p
  refine
    { part := fun i => ?_, cfg := fun i => ?_, mr := State.resetMr_mr .., slots := fun i hi => ?_, pan := fun q => ?_, beside := ?_
      byte := fun a ha => ?_ }
  · have h : ((t3.resetTables p).resetMr p).part i = (t3.resetTables p).part i := (congrArg (fun t : State => t.part i) hr :)
    rw [h, State.resetTables_part, hparts3, hparts3]
  · have h : ((t3.resetTables p).resetMr p).cfg = (t3.resetTables p).cfg := (congrArg State.cfg hr :)
    rw [h, State.resetTables_cfg, hcfg3, hcfg3]
  · have h : ((t3.resetTables p).resetMr p).slot i = t3.slot i := (congrArg (fun t : State => t.slot i) hr :)
    rw [h]
    exact hslot i hi
  · have h : ((t3.resetTables p).resetMr p).pan q = t2.pan q :=
      (congrArg (fun t : State => t.pan q) hr :).trans (congrArg (fun t : State => t.pan q) hs :)
    have h1 : t1.pan q = s.pan q := (congrArg (fun t : State => t.pan q) hq :)
    rw [h, hpan, h1]
  · generalize (t3.resetTables p).resetMr p = u at hr ⊢
    calc _ = ({ ({ u with
              attest := (t3.resetTables p).attest, mem := (t3.resetTables p).mem,
              poison := (t3.resetTables p).poison } : State) with
              parts := s.parts, ctxs := s.ctxs, cfg := s.cfg, shadow := s.shadow, pans := s.pans, slots := s.slots, attest := s.attest
              mem := s.mem, poison := s.poison } : State) := rfl
      _ = ({ ({ t3 with slots := s.slots, pans := s.pans, ctxs := s.ctxs, cfg := s.cfg } : State) with
              parts := s.parts, shadow := s.shadow, attest := s.attest, mem := s.mem, poison := s.poison } : State) := by rw [hr]; rfl
      _ = s := by rw [h3]
  · rw [State.resetMr_byte _ _ ha]
    exact (congrArg (fun t : State => t.byte a) h3 :)

-- ## The next clear (R137)

/-- A pan that the clear engine has: CLEARING unless it is bunded. -/
def Pan.kicked (v : Pan) : Pan := if v.bunded then v else { v with st := .clearing }

theorem Pan.kicked_kicked (v : Pan) : v.kicked.kicked = v.kicked := by
  unfold Pan.kicked
  split <;> simp_all

theorem State.kickClear_frame (s : State) : { s.kickClear with pans := s.pans } = s := by
  unfold State.kickClear
  split
  · rfl
  · exact State.modPans_frame Pan.kicked _ s

/-- What shows a pan as CLEARING changes its state alone. -/
theorem State.kickClear_pan (s : State) (q : Nat) :
    (s.kickClear.pan q).arith = (s.pan q).arith ∧ (s.kickClear.pan q).held = (s.pan q).held := by
  unfold State.kickClear
  split
  · exact ⟨rfl, rfl⟩
  · next j _ =>
    have h := State.modPans_pan Pan.kicked Pan.kicked_kicked (maskList j.pans.toNat 64) s q
    refine (congrArg (fun v : Pan => v.arith = (s.pan q).arith ∧ v.held = (s.pan q).held) h).mpr ?_
    unfold Pan.kicked
    split
    · split <;> exact ⟨rfl, rfl⟩
    · exact ⟨rfl, rfl⟩

theorem State.kickClear_none {s : State} (h : ∀ k ∈ s.memSys.clears, k.whole = false) : s.kickClear = s := by
  unfold State.kickClear
  rw [List.find?_eq_none.mpr fun k hk => by simp [h k hk]]

-- ## The end of a partition's clear

/-- The end of a partition's clear in the tally and its record, and the next clear begun. -/
def State.clearNoted (s : State) (p : Nat) (st : Byte) : State :=
  ((s.event 0x80 evCleared (BitVec.ofNat 8 p) 0 st).modPart p fun x => { x with lastCleared := some (s.tally.head, st) }).kickClear

/-- The clear of a torn-down partition is over: its pans are wiped, it resets, and the clear is noted. -/
def State.partCleared (s : State) (p : Nat) (j : ClearJob) (ok : Bool) : State :=
  ((((maskList j.pans.toNat 64).foldl State.wipePan s).dropClear j).resetPart p (maskList j.pans.toNat 64) j.slots).clearNoted p
    (if ok then stOk else stPoison)

/-- What the note of a clear leaves. -/
structure ClearNoted (r u : State) (p : Nat) (st : Byte) : Prop where
  beside : { u with pans := r.pans, parts := r.parts, tally := r.tally, mem := r.mem, poison := r.poison } = r
  part : ∀ i, u.part i = if i = p then { r.part p with lastCleared := some (r.tally.head, st) } else r.part i
  pan : ∀ q, (u.pan q).arith = (r.pan q).arith ∧ (u.pan q).held = (r.pan q).held
  idle : (∀ k ∈ r.memSys.clears, k.whole = false) → ∀ q, u.pan q = r.pan q
  byte : ∀ a, ¬ InSpill r a → u.byte a = r.byte a

theorem State.clearNoted_notes (r : State) (p : Nat) (st : Byte) : ClearNoted r (r.clearNoted p st) p st := by
  unfold State.clearNoted
  have hevent := State.event_frame r 0x80 evCleared (BitVec.ofNat 8 p) 0 st 0
  have hbyte := State.event_byte r 0x80 evCleared (BitVec.ofNat 8 p) 0 st 0
  generalize r.event 0x80 evCleared (BitVec.ofNat 8 p) 0 st = e at hevent hbyte ⊢
  have hep (i : Nat) : e.part i = r.part i := (congrArg (fun t : State => t.part i) hevent :)
  have hnoted : { e.setPart p { e.part p with lastCleared := some (r.tally.head, st) } with parts := e.parts } = e := rfl
  have hpart := State.setPart_part e p { e.part p with lastCleared := some (r.tally.head, st) }
  rw [State.modPart_eq]
  generalize e.setPart p { e.part p with lastCleared := some (r.tally.head, st) } = n at hnoted hpart ⊢
  have hkick := State.kickClear_frame n
  have hkpan := State.kickClear_pan n
  have hknone := State.kickClear_none (s := n)
  generalize n.kickClear = u at hkick hkpan hknone ⊢
  have hnr : { n with parts := r.parts, tally := r.tally, mem := r.mem, poison := r.poison } = r := by
    calc _ = ({ ({ n with parts := e.parts } : State) with
        parts := r.parts, tally := r.tally, mem := r.mem, poison := r.poison } : State) := rfl
      _ = ({ ({ e with tally := r.tally, mem := r.mem, poison := r.poison } : State) with parts := r.parts } : State) := by rw [hnoted]
      _ = r := by rw [hevent]
  have hnpan (q : Nat) : n.pan q = r.pan q := (congrArg (fun t : State => t.pan q) hnr :)
  refine
    { beside := ?_, part := fun i => ?_, pan := fun q => ?_, idle := fun h q => ?_, byte := fun a ha => ?_ }
  · calc _ = ({ ({ u with pans := n.pans } : State) with
              pans := r.pans, parts := r.parts, tally := r.tally, mem := r.mem, poison := r.poison } : State) := rfl
      _ = ({ ({ n with parts := r.parts, tally := r.tally, mem := r.mem, poison := r.poison } : State) with pans := r.pans } : State) := by
            rw [hkick]
      _ = r := by rw [hnr]
  · have h : u.part i = n.part i := (congrArg (fun t : State => t.part i) hkick :)
    rw [h, hpart, hep, hep]
  · rw [(hkpan q).1, (hkpan q).2, hnpan]
    exact ⟨rfl, rfl⟩
  · have hclears : n.memSys.clears = r.memSys.clears := (congrArg (fun t : State => t.memSys.clears) hnr :)
    rw [hknone (by rw [hclears]; exact h), hnpan]
  · have h1 : u.byte a = n.byte a := (congrArg (fun t : State => t.byte a) hkick :)
    have h2 : n.byte a = e.byte a := (congrArg (fun t : State => t.byte a) hnoted :)
    rw [h1, h2, hbyte a ha]

/-- The commit that tore a partition down goes on. -/
def State.tornGoesOn (u : State) (p : Nat) : State :=
  match u.commits.find? fun m => m.tearing.contains p with
  | none => u
  | some m => if u.stillHeld m p then { u with commits := u.commits.map fun k => if k = m then { m with
      tearing := m.tearing.filter fun i => i != p, waiting := m.waiting ++ [p] } else k }
    else (u.enterPart m p).finishCommits.nextDevice

section
variable {s : State} {p : BitVec 4} {v : ClearVerdict} {j : ClearJob} (hs : s.edge.stopped = false) (hh : s.saltern.halted = false)

theorem partitionClearDone_other (h : ∀ j, s.memSys.clears.find? (fun j => j.whole) = some j → j.part ≠ p.toNat) :
    exec (.partitionClearDone p v) s = .next s := by
  show Host.Outcome.next (partitionClearDone p.toNat v s) = _
  unfold partitionClearDone
  cases hj : s.memSys.clears.find? fun j => j.whole with
  | none => rfl
  | some j =>
    dsimp only
    rw [if_pos (by simp [h j hj])]

theorem partitionClearDone_waits (hj : s.memSys.clears.find? (fun j => j.whole) = some j)
    (hw : s.clearWaits (j.ranges.flatMap fun r => s.unfenced r.1 r.2) (maskList j.pans.toNat 64) = true) :
    exec (.partitionClearDone p v) s = .next s := by
  show Host.Outcome.next (partitionClearDone p.toNat v s) = _
  unfold partitionClearDone
  rw [hj]
  dsimp only
  rw [if_pos (by simp [hw])]

include hs hh in
theorem partitionClearDone_goes (hj : s.memSys.clears.find? (fun j => j.whole) = some j) (hp : j.part = p.toNat)
    (hw : s.clearWaits (j.ranges.flatMap fun r => s.unfenced r.1 r.2) (maskList j.pans.toNat 64) = false) :
    let ranges := j.ranges.flatMap fun r => s.unfenced r.1 r.2
    let open' := (maskList j.pans.toNat 64).filter fun i => !(s.pan i).bunded
    let t := (s.verify v ranges open' { part := some p.toNat }).2
    exec (.partitionClearDone p v) s
      = .next (if t.edge.stopped then t else (t.partCleared p.toNat j (allPassed v ranges open')).tornGoesOn p.toNat) := by
  show Host.Outcome.next (partitionClearDone p.toNat v s) = _
  unfold partitionClearDone
  rw [hj]
  dsimp only
  rw [if_neg (by simp [hs, hh, hw, hp])]
  rfl

end

/-- What the end of a partition's clear leaves of the state that its verification left. -/
structure PartCleared (t u : State) (p : Nat) (j : ClearJob) (st : Byte) : Prop where
  commits : u.commits = t.commits
  clears : u.memSys.clears = t.memSys.clears.filter fun k => k != j
  part : ∃ seq, u.part p = { epoch := (t.part p).epoch, teardown := true, lastCleared := some (seq, st) }
  cfg : ∀ i, u.cfg.part i = if i = p then { t.cfg.part p with kvCfg := 0, kvExt := [] } else t.cfg.part i
  others : ∀ i, i ≠ p → (u.part i).epoch = (t.part i).epoch
  mr : u.mr (8 + p) = zeros48
  slots : ∀ i ∈ j.slots, (u.slot i).Empty
  arith : ∀ q ∈ maskList j.pans.toNat 64, (u.pan q).arith = 0
  held : ∀ q ∈ maskList j.pans.toNat 64, (t.pan q).bunded = false → (u.pan q).held = none
  idle : (∀ k ∈ t.memSys.clears, k.whole = true → k = j) → ∀ q ∈ maskList j.pans.toNat 64,
    (t.pan q).bunded = false → (u.pan q).st ≠ .clearing
  byte : ∀ a, ¬ InSpill t a → ¬ (logBase ≤ a ∧ a < logBase + 0x400000) →
    u.byte a = ((maskList j.pans.toNat 64).foldl State.wipePan t).byte a

theorem Pan.wiped_idle (v : Pan) : v.wiped.st ≠ .clearing := by
  unfold Pan.wiped
  dsimp only
  split
  · exact fun h => by cases h
  · assumption

theorem State.partCleared_clears (t : State) (p : Nat) (j : ClearJob) (ok : Bool) :
    PartCleared t (t.partCleared p j ok) p j (if ok then stOk else stPoison) := by
  have hwipe := State.wipePans_frame (maskList j.pans.toNat 64) t
  have hpans := State.wipePans_pan (maskList j.pans.toNat 64) t
  unfold State.partCleared
  generalize (if ok then stOk else stPoison) = st
  generalize hl : maskList j.pans.toNat 64 = pans at hwipe hpans ⊢
  generalize hw : pans.foldl State.wipePan t = w at hwipe hpans ⊢
  obtain ⟨rpart, rcfg, rmr, rslots, rpan, rbeside, rbyte⟩ := State.resetPart_resets (w.dropClear j) p pans j.slots
  generalize (w.dropClear j).resetPart p pans j.slots = r at rpart rcfg rmr rslots rpan rbeside rbyte ⊢
  obtain ⟨nbeside, npart, npan, nidle, nbyte⟩ := State.clearNoted_notes r p st
  generalize r.clearNoted p st = u at nbeside npart npan nidle nbyte ⊢
  have hwt (i : Nat) : (w.dropClear j).part i = t.part i := (congrArg (fun x : State => x.part i) hwipe :)
  have hwc (i : Nat) : (w.dropClear j).cfg.part i = t.cfg.part i := (congrArg (fun x : State => x.cfg.part i) hwipe :)
  have hucfg : u.cfg = r.cfg := (congrArg State.cfg nbeside :)
  have hrclears : r.memSys.clears = t.memSys.clears.filter fun k => k != j :=
    (congrArg (fun x : State => x.memSys.clears) rbeside :).trans
      (congrArg (fun x : State => x.memSys.clears.filter fun k => k != j) hwipe :)
  refine
    { commits := ?_, clears := ?_, part := ⟨r.tally.head, ?_⟩, cfg := fun i => ?_, others := fun i hi => ?_, mr := ?_, slots :=
      fun i hi => ?_
      arith := fun q hq => ?_, held := fun q hq hb => ?_, idle := fun h q hq hb => ?_, byte := fun a ha hlog => ?_ }
  · exact ((congrArg State.commits nbeside :).trans (congrArg State.commits rbeside :)).trans (congrArg State.commits hwipe :)
  · exact (congrArg (fun x : State => x.memSys.clears) nbeside :).trans hrclears
  · rw [npart, if_pos rfl, rpart, if_pos rfl, hwt]
  · rw [hucfg, rcfg, hwc, hwc]
  · rw [npart, if_neg hi, rpart, if_neg hi, hwt]
  · exact (congrArg (fun x : State => x.mr (8 + p)) nbeside :).trans rmr
  · have h : u.slot i = r.slot i := (congrArg (fun x : State => x.slot i) nbeside :)
    rw [h]
    exact rslots i hi
  · rw [hl] at hq
    rw [(npan q).1, rpan, if_pos hq]
    rfl
  · rw [hl] at hq
    have hwq : (w.dropClear j).pan q = w.pan q := rfl
    rw [(npan q).2, rpan, if_pos hq, hwq, hpans, if_pos ⟨hq, hb⟩]
    rfl
  · rw [hl] at hq
    have hwq : (w.dropClear j).pan q = w.pan q := rfl
    have hnone : ∀ k ∈ r.memSys.clears, k.whole = false := by
      intro k hk
      rw [hrclears] at hk
      obtain ⟨hk, hne⟩ := List.mem_filter.mp hk
      exact Bool.eq_false_iff.mpr fun hwhole => absurd (h k hk hwhole) (by simpa using hne)
    rw [nidle hnone, rpan, if_pos hq, hwq, hpans, if_pos ⟨hq, hb⟩]
    exact Pan.wiped_idle _
  · have htally : r.tally = t.tally := (congrArg State.tally rbeside :).trans (congrArg State.tally hwipe :)
    rw [nbyte a (by rwa [InSpill, htally]), rbyte a hlog, hl, hw]
    rfl

-- ## What a partition's clear reaches

/-- A byte is fenced where the vault that holds it is bunded. -/
theorem State.fencedAt_byte (s : State) (x : Nat) : s.fencedAt x 1 = false ↔
    ∀ v, v < 8 → v * vaultSize ≤ x → x < (v + 1) * vaultSize → s.errs.vaults.getLsbD v = false := by
  have hsize : vaultSize = 0xC0000000 := rfl
  have hov (v : Nat) : overlaps x 1 (v * vaultSize) vaultSize = true ↔ v * vaultSize ≤ x ∧ x < (v + 1) * vaultSize := by
    simp only [overlaps, Bool.and_eq_true, decide_eq_true_eq]
    rw [hsize]
    omega
  simp only [State.fencedAt, List.any_eq_false, List.mem_range, Bool.and_eq_true, hov, not_and]
  exact forall₂_congr fun v _ => ⟨fun h h1 h2 => Bool.eq_false_iff.mpr fun hb => h hb h1 h2,
    fun h hb h1 h2 => absurd (h h1 h2) (by simp [hb])⟩

/-- A byte of the parts of a range outside bunded vaults. -/
theorem State.mem_unfenced (s : State) (a n x : Nat) :
    (∃ r ∈ s.unfenced a n, r.1 ≤ x ∧ x < r.1 + r.2) ↔ a ≤ x ∧ x < a + n ∧ s.fencedAt x 1 = false := by
  have hsize : vaultSize = 0xC0000000 := rfl
  rw [State.fencedAt_byte]
  unfold State.unfenced
  simp only [List.mem_append, List.mem_filterMap, List.mem_range]
  constructor
  · rintro ⟨r, hr, hx⟩
    rcases hr with ⟨v, hv, hr⟩ | hr
    · split at hr
      · next hc =>
        simp only [Bool.and_eq_true, decide_eq_true_eq, Bool.not_eq_true'] at hc
        cases hr
        refine ⟨by omega, by omega, fun w hw h1 h2 => ?_⟩
        have : w = v := by
          rw [hsize] at h1 h2 hx hc
          omega
        rw [this]
        exact hc.2
      · cases hr
    · split at hr
      · cases List.mem_singleton.mp hr
        exact ⟨by omega, by omega, fun w hw h1 h2 => by rw [hsize] at h2 hx; omega⟩
      · cases hr
  · rintro ⟨ha, hn, hf⟩
    by_cases h8 : x < 8 * vaultSize
    · have hv : x / vaultSize * vaultSize ≤ x ∧ x < (x / vaultSize + 1) * vaultSize ∧ x / vaultSize < 8 := by
        rw [hsize] at h8 ⊢
        omega
      obtain ⟨h1, h2, h3⟩ := hv
      generalize x / vaultSize = v at h1 h2 h3
      refine ⟨(max a (v * vaultSize), min (a + n) ((v + 1) * vaultSize) - max a (v * vaultSize)), .inl ⟨v, h3, if_pos ?_⟩, by omega⟩
      simp only [Bool.and_eq_true, decide_eq_true_eq, Bool.not_eq_true']
      exact ⟨by omega, hf v h3 h1 h2⟩
    · refine ⟨(max a (8 * vaultSize), a + n - max a (8 * vaultSize)), .inr ?_, by omega⟩
      rw [if_pos (by omega)]
      exact List.mem_singleton_self _

end Sys2Proof.Machine

/-! SUPPORT. A torn-down partition that takes its new definition, and its clear as a whole (R251, R252, R256). -/
namespace Sys2Proof.Machine

-- ## A partition's new definition (R251, R252)

/-- The state without what contexts and slots that take new values change, but for every partition's committed fields. -/
def State.besideApply (s : State) : State :=
  { s with ctxs := [], slots := [], pans := [], groups := [], cmds := [], memSys := {}, cfg := { parts := s.cfg.parts } }

theorem State.retarget_besideApply (s : State) (g : Nat) (stay : Bool) : (s.retarget g stay).besideApply = s.besideApply := by
  have h := State.retarget_frame s g stay
  generalize s.retarget g stay = t at h ⊢
  exact (congrArg State.besideApply h :)

theorem State.retargetAll_besideApply (s : State) (stay : Bool) : (s.retargetAll stay).besideApply = s.besideApply :=
  foldl_keeps (fun t : State => t.besideApply = s.besideApply) (fun s g => s.retarget g stay) (List.range 8)
    (fun t g _ h => (State.retarget_besideApply t g stay).trans h) s rfl

theorem State.settleCtx_besideApply (s : State) (q : Nat) : (s.settleCtx q).besideApply = s.besideApply :=
  (congrArg State.besideApply (State.settleCtx_frame s q) :)

theorem State.setRaceCfg_besideApply (s : State) (i : Nat) (f : Nat → Nat) : (s.setRaceCfg i f).besideApply = s.besideApply := rfl

theorem State.startArm_besideApply (s : State) (i : Nat) : (s.startArm i).2.besideApply = s.besideApply := by
  rw [State.startArm_eq]
  split <;> rfl

theorem State.startDisarm_besideApply (s : State) (i pan : Nat) (rearm : Bool) :
    (s.startDisarm i pan rearm).besideApply = s.besideApply := by
  unfold State.startDisarm
  dsimp only
  generalize hw : (s.setArm i false).setSlot i _ = w
  have hws : w.besideApply = s.besideApply := by rw [← hw]; rfl
  have hr := State.retarget_besideApply w 0 true
  generalize w.retarget 0 = t at hr ⊢
  split
  · exact hr.trans hws
  · exact hr.trans hws

theorem applyCtx_besideApply (p : Nat) (target : DevCfg) (a : Applied) (q : Nat) :
    (applyCtx p target a q).s.besideApply = a.s.besideApply := by
  unfold applyCtx
  dsimp only
  split
  · rfl
  · generalize (if (target.ctx q).clamped == target.ctx q then (0 : BitVec 16) else cContext) = m
    split
    · rfl
    · exact (State.settleCtx_besideApply _ q).trans rfl

theorem applySlot_besideApply (target : DevCfg) (a : Applied) (i : Nat) : (applySlot target a i).s.besideApply = a.s.besideApply := by
  have hset : (a.s.setRaceCfg i fun w => setFld w 0 16 (target.get (.raceCfg i))).besideApply = a.s.besideApply := rfl
  unfold applySlot
  dsimp only
  generalize (a.s.setRaceCfg i fun w => setFld w 0 16 (target.get (.raceCfg i))) = t at hset ⊢
  split
  · split
    · exact hset
    · exact hset
  · split
    · have harm := State.startArm_besideApply t i
      generalize t.startArm i = x at harm ⊢
      obtain ⟨st, u⟩ := x
      cases st with
      | none => exact harm.trans hset
      | some e => exact harm.trans hset
    · split
      · exact (State.startDisarm_besideApply t i _ _).trans hset
      · exact hset

theorem mem_replaceFirst {m new : Commit} {l : List Commit} (h : m ∈ l) : new ∈ replaceFirst m new l := by
  induction l with
  | nil => cases h
  | cons k ks ih =>
    unfold replaceFirst
    split
    · exact List.mem_cons_self
    · next hk => exact List.mem_cons_of_mem _ (ih ((List.mem_cons.mp h).resolve_left fun he => hk he.symm))

/-- The partition as it enters with its new definition, before its contexts and slots take their values. -/
def State.entered (s : State) (m : Commit) (p : Nat) : State :=
  let s := s.modPart p fun v => { v with teardown := false }
  { s with cfg := s.cfg.setPart p { m.target.part p with kvCfg := 0, kvExt := [] } }

/-- What its contexts and slots take. -/
def State.enterApplied (s : State) (m : Commit) (p : Nat) : Applied :=
  let t := m.target.part p
  let a : Applied := { s }
  let a := if m.target.on p then (ctxQueues t s.cfg m.target).foldl (applyCtx p m.target) a else a
  (s.slotsOf p).foldl (applySlot m.target) a

/-- The commit's record once the partition has entered. -/
def Commit.entered (m : Commit) (p : Nat) (a : Applied) : Commit :=
  { m with waiting := m.waiting.filter fun i => i != p, tearing := m.tearing.filter fun i => i != p
           slots := m.slots ++ a.slots, status := if m.status = 0 then a.status else m.status }

theorem State.enterPart_eq (s : State) (m : Commit) (p : Nat) : s.enterPart m p =
    let a := (s.entered m p).enterApplied m p
    (a.s.retargetAll.epochEvent p m.by (m.clamps.look 0 p ||| a.mask) true).noteCommit m (m.entered p a) (m.clamps.look 0 p ||| a.mask) :=
      rfl

theorem State.enterApplied_besideApply (s : State) (m : Commit) (p : Nat) : (s.enterApplied m p).s.besideApply = s.besideApply := by
  have hctx (l : List Nat) (a : Applied) : (l.foldl (applyCtx p m.target) a).s.besideApply = a.s.besideApply :=
    foldl_keeps (fun b : Applied => b.s.besideApply = a.s.besideApply) (applyCtx p m.target) l
      (fun b q _ h => (applyCtx_besideApply p m.target b q).trans h) a rfl
  have hslot (l : List Nat) (a : Applied) : (l.foldl (applySlot m.target) a).s.besideApply = a.s.besideApply :=
    foldl_keeps (fun b : Applied => b.s.besideApply = a.s.besideApply) (applySlot m.target) l
      (fun b q _ h => (applySlot_besideApply m.target b q).trans h) a rfl
  unfold State.enterApplied
  dsimp only
  rw [hslot]
  split
  · exact hctx _ _
  · rfl

/-- What an epoch that is counted leaves. -/
theorem State.epochEvent_part (s : State) (p : Nat) (ini : Ini) (mask : BitVec 16) (i : Nat) : (s.epochEvent p ini mask true).part i =
    if i = p then { s.part p with epoch := (s.part p).epoch + 1 } else s.part i := by
  have h := State.event_frame (s.modPart p fun v => { v with epoch := v.epoch + 1 }) ini evEpoch (BitVec.ofNat 8 p) 0 0 mask
  exact (congrArg (fun t : State => t.part i) h :).trans (State.setPart_part ..)

theorem State.epochEvent_frame (s : State) (p : Nat) (ini : Ini) (mask : BitVec 16) :
    { s.epochEvent p ini mask true with parts := s.parts, tally := s.tally, mem := s.mem, poison := s.poison } = s :=
  (congrArg (fun t : State => { t with parts := s.parts, tally := s.tally, mem := s.mem, poison := s.poison })
    (State.event_frame (s.modPart p fun v => { v with epoch := v.epoch + 1 }) ini evEpoch (BitVec.ofNat 8 p) 0 0 mask) :)

theorem State.epochEvent_byte (s : State) (p : Nat) (ini : Ini) (mask : BitVec 16) {a : Nat} (h : ¬ InSpill s a) :
    (s.epochEvent p ini mask true).byte a = s.byte a :=
  State.event_byte (s.modPart p fun v => { v with epoch := v.epoch + 1 }) ini evEpoch (BitVec.ofNat 8 p) 0 0 mask a h

theorem State.noteCommit_frame (s : State) (old new : Commit) (mask : BitVec 16) :
    { s.noteCommit old new mask with commits := s.commits, cmds := s.cmds } = s ∧
      (s.noteCommit old new mask).commits = replaceFirst old new s.commits := by
  unfold State.noteCommit
  dsimp only
  split <;> exact ⟨rfl, rfl⟩

/-- A partition that takes its new definition. -/
theorem State.enterPart_enters (s : State) (m : Commit) (p : Nat) :
    let u := s.enterPart m p
    (∀ i, u.part i = if i = p then { s.part p with teardown := false, epoch := (s.part p).epoch + 1 } else s.part i)
      ∧ (∀ i, u.cfg.part i = if i = p then { m.target.part p with kvCfg := 0, kvExt := [] } else s.cfg.part i)
      ∧ (m ∈ s.commits → ∃ a, m.entered p a ∈ u.commits) ∧ ∀ a, ¬ InSpill s a → u.byte a = s.byte a := by
  have hpart0 (i : Nat) : (s.entered m p).part i = if i = p then { s.part p with teardown := false } else s.part i := State.setPart_part ..
  have hcfg0 (i : Nat) : (s.entered m p).cfg.part i = if i = p then { m.target.part p with kvCfg := 0, kvExt := [] } else s.cfg.part i :=
    DevCfg.part_setPart ..
  have hrest0 : (s.entered m p).commits = s.commits ∧ (s.entered m p).tally = s.tally ∧ (s.entered m p).mem = s.mem := ⟨rfl, rfl, rfl⟩
  rw [State.enterPart_eq]
  generalize s.entered m p = e at hpart0 hcfg0 hrest0 ⊢
  obtain ⟨hcommits0, htally0, hmem0⟩ := hrest0
  dsimp only
  have ha := State.enterApplied_besideApply e m p
  generalize e.enterApplied m p = a at ha ⊢
  have hr := (State.retargetAll_besideApply a.s true).trans ha
  generalize a.s.retargetAll = r at hr ⊢
  generalize m.clamps.look 0 p ||| a.mask = mask
  have hepart := State.epochEvent_part r p m.by mask
  have heframe := State.epochEvent_frame r p m.by mask
  have hebyte (x : Nat) := State.epochEvent_byte r p m.by mask (a := x)
  generalize r.epochEvent p m.by mask true = v at hepart heframe hebyte ⊢
  obtain ⟨hn, hnc⟩ := State.noteCommit_frame v m (m.entered p a) mask
  generalize v.noteCommit m (m.entered p a) mask = u at hn hnc ⊢
  have hrpart (i : Nat) : r.part i = e.part i := (congrArg (fun t : State => t.part i) hr :)
  have hrtally : r.tally = s.tally := (congrArg State.tally hr :).trans htally0
  refine ⟨fun i => ?_, fun i => ?_, fun hm => ⟨a, ?_⟩, fun x hx => ?_⟩
  · have h : u.part i = v.part i := (congrArg (fun t : State => t.part i) hn :)
    rw [h, hepart, hrpart, hrpart, hpart0, hpart0, if_pos rfl]
    split <;> rfl
  · have h : u.cfg.part i = r.cfg.part i := (congrArg (fun t : State => t.cfg.part i) hn :).trans
      (congrArg (fun t : State => t.cfg.part i) heframe :)
    have h' : r.cfg.part i = e.cfg.part i := (congrArg (fun t : State => t.cfg.part i) hr :)
    rw [h, h', hcfg0]
  · have h : v.commits = s.commits := ((congrArg State.commits heframe :).trans (congrArg State.commits hr :)).trans hcommits0
    rw [hnc, h]
    exact mem_replaceFirst hm
  · have h : u.byte x = v.byte x := (congrArg (fun t : State => t.byte x) hn :)
    have hrm : r.mem = s.mem := (congrArg State.mem hr :).trans hmem0
    rw [h, hebyte x (by rwa [InSpill, hrtally]), State.byte, hrm, State.byte]

/-- The bytes that a partition's clear zeroes: its ranges outside bunded vaults, and the memories of its pans. -/
theorem clearByte_iff (s : State) (rs : List (Nat × Nat)) (pans : List Nat) (a : Nat) :
    ClearByte (rs.flatMap fun r => s.unfenced r.1 r.2) pans a ↔ (∃ r ∈ rs, r.1 ≤ a ∧ a < r.1 + r.2 ∧ s.fencedAt a 1 = false)
      ∨ ∃ i ∈ pans, OwnMemory i a ∨ (imemBase i ≤ a ∧ a < imemBase i + 0x20000) := by
  unfold ClearByte
  refine or_congr ?_ (exists_congr fun i => and_congr_right fun _ => panByte_iff i a)
  simp only [List.mem_flatMap, ← State.mem_unfenced]
  exact ⟨fun ⟨x, ⟨r, hr, hx⟩, ha⟩ => ⟨r, hr, x, hx, ha⟩, fun ⟨r, hr, x, hx, ha⟩ => ⟨x, ⟨r, hr, hx⟩, ha⟩⟩

/-- A clear that all passed, and the pans wiped after it: zero where it reaches, and nothing else changed. -/
theorem State.sampled_wiped_byte (s : State) (v : ClearVerdict) (rs : List (Nat × Nat)) (pans : List Nat) (a : Nat) :
    let w := pans.foldl State.wipePan (s.sampled v rs (pans.filter fun i => !(s.pan i).bunded))
    (ClearByte rs (pans.filter fun i => !(s.pan i).bunded) a → w.byte a = 0)
      ∧ (¬ ClearByte rs (pans.filter fun i => !(s.pan i).bunded) a → w.byte a = s.byte a) := by
  obtain ⟨hz, ho⟩ := State.byte_sampled s v rs (pans.filter fun i => !(s.pan i).bunded) a
  have hpan := s.sampled_pan v rs (pans.filter fun i => !(s.pan i).bunded)
  generalize s.sampled v rs (pans.filter fun i => !(s.pan i).bunded) = t at hz ho hpan ⊢
  obtain ⟨hwz, hwo⟩ := State.wipePans_byte pans t a
  refine ⟨fun h => hwz (hz h), fun h => (hwo fun p hp hb hpa => h (.inr ⟨p, ?_, hpa⟩)).trans (ho h)⟩
  rw [hpan] at hb
  exact List.mem_filter.mpr ⟨hp, by simp [hb]⟩

/-- Settles O39: the clear of a partition, what its verdict leaves, and the new definition. -/
theorem partitionClearsEndATeardown : Obligations.PartitionClearsEndATeardown := by
  refine ⟨fun s p v hs hh => ⟨partitionClearDone_other, fun j hj hp => ?_⟩, fun s m p => ?_⟩
  · intro pans open' ranges bad dead clean noted
    have hgood : allPassed v ranges open' = !bad := allPassed_iff v ranges open'
    obtain ⟨hcommits, hcfg, hclears, hepoch⟩ := State.verify_keeps s v ranges open' { part := some p.toNat }
    obtain ⟨hfatal, hedge⟩ := State.verify_edge s v ranges open' { part := some p.toNat }
    refine ⟨partitionClearDone_waits hj, fun hw hd => ?_, fun hw hd => ?_⟩
    · have hexec := partitionClearDone_goes (v := v) hs hh hj hp hw
      obtain ⟨hstop, hcause⟩ := hfatal hd
      dsimp only at hexec
      rw [if_pos (show (s.verify v ranges open' { part := some p.toNat }).2.edge.stopped = true from hstop)] at hexec
      exact ⟨_, hexec, hstop, hcause⟩
    · have hexec := partitionClearDone_goes (v := v) hs hh hj hp hw
      dsimp only at hexec
      rw [if_neg (show ¬ (s.verify v ranges open' { part := some p.toNat }).2.edge.stopped = true by
        rw [hedge hd, hs]; exact Bool.false_ne_true)] at hexec
      obtain ⟨ucommits, uclears, ⟨seq, upart⟩, ucfg, uothers, umr, uslots, uarith, uheld, uidle, ubyte⟩ :=
        State.partCleared_clears (s.verify v ranges open' { part := some p.toNat }).2 p.toNat j (allPassed v ranges open')
      have hst : (if allPassed v ranges open' then stOk else stPoison) = if bad then stPoison else stOk := by
        rw [hgood]
        cases bad <;> rfl
      refine ⟨_, seq, hexec, ucommits.trans hcommits, uclears.trans (by rw [hclears]), ?_, ?_, umr, fun i hi => ⟨?_, ?_⟩, uslots, uarith,
        fun hb => ?_⟩
      · rw [upart, hepoch, hst]
      · rw [ucfg, if_pos rfl, hcfg]
      · rw [ucfg, if_neg hi, hcfg]
      · rw [uothers i hi, hepoch]
      · have hv := State.verify_good s v ranges open' { part := some p.toNat } (by rw [hgood, hb]; rfl)
        have htally := congrArg State.tally (State.sampled_frame s v ranges open')
        have hclear (a : Nat) := clearByte_iff s j.ranges open' a
        have hwiped (a : Nat) : (ClearByte ranges open' a →
              (pans.foldl State.wipePan (s.verify v ranges open' { part := some p.toNat }).2).byte a = 0)
            ∧ (¬ ClearByte ranges open' a →
              (pans.foldl State.wipePan (s.verify v ranges open' { part := some p.toNat }).2).byte a = s.byte a) := by
          rw [hv]
          exact State.sampled_wiped_byte s v ranges pans a
        have hopen (i : Nat) (hi : i ∈ open') : i ∈ pans ∧ ((s.verify v ranges open' { part := some p.toNat }).2.pan i).bunded = false := by
          obtain ⟨hi, hbund⟩ := List.mem_filter.mp hi
          rw [hv]
          exact ⟨hi, by rw [State.sampled_pan]; simpa using hbund⟩
        have hbyte (a : Nat) (ha : ¬ noted a) := ubyte a (by rw [hv, InSpill, htally]; exact fun h => ha (.inl h)) fun h => ha (.inr h)
        refine ⟨fun a ha hn => (hbyte a hn).trans ((hwiped a).1 ((hclear a).mpr ha)),
          fun a ha hn => (hbyte a hn).trans ((hwiped a).2 fun hc => ha ((hclear a).mp hc)),
            fun i hi => uheld i (hopen i hi).1 (hopen i hi).2,
          fun honly i hi => uidle (by rw [hclears]; exact honly) i (hopen i hi).1 (hopen i hi).2⟩
  · obtain ⟨hpart, hcfg, hcommit, hbyte⟩ := State.enterPart_enters s m p.toNat
    refine ⟨?_, ?_, ?_, fun hm => ?_, fun i hi => ?_, hbyte⟩
    · rw [hpart, if_pos rfl]
    · rw [hpart, if_pos rfl]
    · rw [hcfg, if_pos rfl]
    · obtain ⟨a, ha⟩ := hcommit hm
      exact ⟨_, ha, rfl, rfl, by simp [Commit.entered], by simp [Commit.entered]⟩
    · rw [hcfg, if_neg hi, hpart, if_neg hi]
      exact ⟨rfl, rfl⟩

end Sys2Proof.Machine
